-- ==== Sys2Proof/Word.lean ====
section
/-! DEFINITION. The words of the part: bytes, page words, stored words, lines of dots. -/

namespace Sys2Proof

/-- One byte of the stream port, of the line port or of a table. -/
abbrev Byte := BitVec 8

/-- One 16-bit word of a page, of the link map or of a directory image (R23, R46). -/
abbrev Word := BitVec 16

/-- One stored word of the page store: 16 data bits in bits 0 to 15 and the check bits c0 to c5 in
bits 16 to 21 (R29). -/
abbrev StoreWord := BitVec 22

/-- A string of code bits, the first bit first (R46). -/
abbrev Bits := List Bool

/-- One line of 1728 dots (R42) as its 8 groups of 216 (R100): bit i of group g is dot 216g + i, set
where the dot is black. -/
abbrev Dots := Vector (BitVec 216) 8

/-- The white line. -/
def Dots.white : Dots := Vector.replicate 8 0

end Sys2Proof
end

