-- ==== Sys2Proof/Syntax.lean ====
section
/-! DEFINITION. The commands of the part: one constructor per row of spec/opcode_table.json. -/

namespace Sys2Proof

/-- The two stepper motors (R114). -/
inductive MotorName where
  | pf
  | sf
deriving DecidableEq, Repr

/-- The two decoders that end a stored page (R54): the Print Decoder, and the Check Decoder in a
LINE-SEND route. -/
inductive DecoderName where
  | print
  | check
deriving DecidableEq, Repr

/-- Body of a SETUP order, field by field (R175). -/
structure SetupBody where
  geometry : Word
  refresh : Byte
  scrub : Byte
  lowMark : Word
  lamp : Byte
  settle : Byte
  cutter : Byte
  watermark : Byte
deriving DecidableEq, Repr

/-- Body of a ROUTE START order, field by field (R175). -/
structure StartBody where
  slot : Byte
  kind : Byte
  options : Byte
  pitch : Byte
  top : Byte
  code : Byte
  heat : Byte
  pfRamp : Byte
  sfRamp : Byte
  shade : Byte
  page : Byte
  reservation : Word
  badLimit : Word
  minBits : Word
  carrier : Byte
  jam : Word
  lead : Word
  trail : Word
  eject : Word
  tail : Word
  maxLines : Word
deriving DecidableEq, Repr

/-- Body of a MOVE order, field by field (R175). -/
structure MoveBody where
  motor : Byte
  steps : Word
  direction : Byte
  slot : Byte
  top : Byte
deriving DecidableEq, Repr

/-- The commands.  An order's operands are its body's fields; an event's are what the outside brings
with it. -/
inductive Instr where
  /-- SETUP (R179). -/
  | setup (body : SetupBody)
  /-- TABLE LOAD up to its fourth body byte, `dataLength` data bytes to follow (R170). -/
  | tableLoad (slot kind : Byte) (check : Word) (dataLength : Nat)
  /-- The data bytes of a TABLE LOAD, to the last (R171). -/
  | tableLoadEnd (data : List Byte)
  /-- TABLE DROP (R174). -/
  | tableDrop (slot : Byte)
  /-- PAGE DROP (R9). -/
  | pageDrop (page : Byte)
  /-- ROUTE START (R64). -/
  | routeStart (body : StartBody)
  /-- ROUTE HALT in mode FINISH (R74). -/
  | routeHaltFinish (slot : Byte)
  /-- ROUTE HALT in mode NOW (R75). -/
  | routeHaltNow (slot : Byte)
  /-- DATA (R68). -/
  | data (slot flags : Byte) (lines : Word) (bytes : List Byte)
  /-- MOVE (R124). -/
  | move (body : MoveBody)
  /-- CUT (R132). -/
  | cut
  /-- LEVEL naming RUN (R146). -/
  | levelRun (options : Byte)
  /-- LEVEL naming DOZE (R146). -/
  | levelDoze (options : Byte)
  /-- QUERY of each subject (R180), with its argument. -/
  | queryPage (page : Byte)
  | queryRoute (slot : Byte)
  | queryPool (arg : Byte)
  | queryLog (arg : Byte)
  | queryTable (slot : Byte)
  | queryLevel (arg : Byte)
  /-- MARK (R181). -/
  | mark (value : Word)
  /-- CLEAR of each subject (R80, R19). -/
  | clearScanner
  | clearPrinter
  | clearPool
  /-- END (R160). -/
  | imageEnd (check : Word)
  /-- RESYNC (R176). -/
  | resync
  /-- A record header of unknown kind or excessive length (R176). -/
  | malformed (kind : Byte) (length : Word)
  /-- A byte taken in HUNT (R176). -/
  | hunt (byte : Byte)
  /-- A byte written by the host (R178). -/
  | inboundByte (byte : Byte)
  /-- The parser resumes after a stall (R178). -/
  | stallEnd
  /-- The multiplexer begins a record (R183). -/
  | reportRecordBegin
  /-- The last byte of a record enters the outbound FIFO (R183). -/
  | recordComplete
  /-- A grant of the arbiter (R26). -/
  | arbiterGrant
  /-- The end of a burst; `flips` are the bits of the words it reads that have changed in the DRAM
  since they were written, in the order read (R26, R30). -/
  | burstEnd (flips : List StoreWord)
  /-- Expiry of the refresh timer (R28). -/
  | refreshTimerExpiry
  /-- Expiry of the scrub timer (R35). -/
  | scrubTimerExpiry
  /-- The end of WAKING (R40). -/
  | wakingEnd
  /-- A route held in HALTING for directory places completes its end (R71). -/
  | routeEndDeferred (slot : Fin 4)
  /-- The Coder completes its line (R47). -/
  | coderLineComplete
  /-- The Print Decoder classifies a line (R57). -/
  | decoderLine
  /-- A decoder enters ENDED (R54). -/
  | decodingEnd (decoder : DecoderName)
  /-- Received bits, to the completion of a byte (R137). -/
  | rxByte (bits : Bits)
  /-- Received bits, to the first sync (R136). -/
  | firstSync (bits : Bits)
  /-- A debounced change of LINE-VALID (R140). -/
  | lineValidChange (level : Bool)
  /-- Expiry of the carrier timer (R140). -/
  | carrierTimerExpiry
  /-- A transmit clock that finds the tx FIFO empty and begins an underrun (R143). -/
  | underrun
  /-- The transmit clock on which the last page bit leaves (R144). -/
  | lineSendEnd
  /-- A sensor readout completes with its 1728 samples (R82). -/
  | captureComplete (samples : List Byte)
  /-- Debounced changes of DOC-IN and DOC-EDGE (R87). -/
  | docInChange (level : Bool)
  | docEdgeChange (level : Bool)
  /-- The lamp warm-up time passes (R88). -/
  | lampWarm
  /-- Expiry of the strobe timer (R108). -/
  | strobeTimerExpiry
  /-- The converter completes a sample (R104). -/
  | converterSample (value : Byte)
  /-- Expiry of the head settle timer (R105). -/
  | headSettled
  /-- Expiry of a motor's step timer (R115). -/
  | stepTimerExpiry (motor : MotorName)
  /-- Expiry of a motor's hold timer (R126). -/
  | holdTimerExpiry (motor : MotorName)
  /-- A debounced change of PAPER (R120). -/
  | paperChange (present : Bool)
  /-- A change of HOME held for 1 ms (R129). -/
  | homeChange (level : Bool)
  /-- Expiry of the cutter timer (R130). -/
  | cutterTimeout
  /-- Debounced changes of COVER (R79). -/
  | coverOpening
  | coverClosing
  /-- A debounced change of WAKE (R148). -/
  | wake (asserted : Bool)
  /-- The directory write queue has drained in DOZE entry (R147). -/
  | dozeDrainDone
  /-- A debounced assertion of PFAIL (R155, R166). -/
  | pfailAssert
  /-- Every route is IDLE and the directory write queue has drained in power-fail entry (R156). -/
  | retainDrainDone
  /-- Power-on or the reset pin; `backupHeld` where the backup domain kept its supply (R157). -/
  | reset (backupHeld : Bool)
  /-- Reset released and PFAIL deasserted (R158). -/
  | holdRelease
  /-- A byte read from the boot ROM (R159). -/
  | romByte (byte : Byte)
  /-- A transmit clock (R142). -/
  | transmitClock
  /-- A read of the outbound FIFO by the host (R183). -/
  | outboundRead
deriving DecidableEq, Repr

end Sys2Proof
end

