-- ==== Sys2Proof/Decode.lean ====
section
/-! DEFINITION. The commands that words spell.  No row of spec/opcode_table.json gives bits, so no word
spells a command; orders as bytes of the stream port are framed by the Order Parser of the machine. -/

namespace Sys2Proof

/-- The command a word of `nbits` bits spells by the table's bits: none, since no row gives any. -/
def decodeTableWord (_nbits _w : Nat) : Option Instr := none

end Sys2Proof
end

