-- ==== Sys2Proof/Config.lean ====
section
/-! DEFINITION. The fixed quantities of the part and the values its reference leaves free. -/

namespace Sys2Proof.Config

/-- Words in a block (R23). -/
def blockWords : Nat := 512

/-- Blocks of the system region (R23). -/
def systemBlocks : Nat := 16

/-- END in a link word (R12). -/
def endWord : Nat := 65535

/-- First word address of the link map (R25). -/
def linkBase : Nat := 1024

/-- First word address of the directory images (R25). -/
def imageBase : Nat := 512

/-- Header signature, first and second word (R24). -/
def signature0 : Word := 0x4C4A
def signature1 : Word := 0x3420

/-- Header marker LIVE and CLEAN (R24). -/
def markerLive : Word := 0x6C76
def markerClean : Word := 0xC1EA

/-- Capacity of the spare queue (R13), of the directory write queue (R21), of a word queue (R47, R56,
R69, R135), of the HOST-IN queue (R68), of the rx and tx FIFOs (R135), of the stream FIFOs (R178,
R183), of the list of pending line ends (R137). -/
def spareCap : Nat := 4
def dirCap : Nat := 16
def wordQueueCap : Nat := 16
def hostInCap : Nat := 64
def lineFifoCap : Nat := 32
def streamFifoCap : Nat := 64
def lineEndCap : Nat := 20

/-- Words of the longest burst (R26). -/
def burstWords : Nat := 8

/-- Dots of a line (R42). -/
def lineDots : Nat := 1728

/-- Readout of a sensor line in µs (R82). -/
def readoutTime : Nat := 864

/-- WAKING of the Page Store Controller in µs (R40). -/
def wakingTime : Nat := 200

/-- One converter sample every 1 ms (R104). -/
def sampleTime : Nat := 1000

/-- Largest value of the fill counter (R135). -/
def fillCap : Nat := 4800

/-- FREE VALUE: which of several requests that may be served in either order is served first, by the
count of such choices made before (R14, R21, R26, R67).  The reference fixes no order. -/
opaque servedFirst : Nat → Nat

/-- FREE VALUE: the two bytes of a report field that carry a number above 65535 (R175 gives such a
number two bytes and does not say which). -/
opaque wideNumber : Nat → Word

/-- FREE VALUE: the fill owed before the sync that follows a line whose own sync was lost, by its
end mark (R59 and R142 measure a line from its sync's first bit, and this line has none). -/
opaque lostSyncFill : Nat → Nat

/-- FREE VALUE: the length found in a RESYNC header that is malformed at its first byte after 7Eh,
by that byte (R176 reports the length found, and only half of one has been taken). -/
opaque halfLength : Byte → Word

end Sys2Proof.Config
end

