-- ==== Sys2Proof/Machine/Bits.lean ====
section
/-! DEFINITION. Bits, bytes, words and dots: packing orders, record fields, runs. -/

namespace Sys2Proof.Machine

/-! ## Bits -/

/-- The number whose binary digits are the bits, the first the most significant. -/
def natOfBits (bs : Bits) : Nat := bs.foldl (fun n b => 2 * n + b.toNat) 0

/-- The `n` bits of a number, the most significant first. -/
def bitsOfNat (n v : Nat) : Bits := (List.range n).map fun i => v.testBit (n - 1 - i)

/-- The bits of a page word, the first the most significant (R46). -/
def bitsOfWord (w : Word) : Bits := bitsOfNat 16 w.toNat

/-- The bits of a byte of the line, the first the most significant (R134). -/
def bitsOfByte (b : Byte) : Bits := bitsOfNat 8 b.toNat

/-- A page word of 16 bits (R46). -/
def wordOfBits (bs : Bits) : Word := BitVec.ofNat 16 (natOfBits bs)

/-- A byte of 8 bits (R134). -/
def byteOfBits (bs : Bits) : Byte := BitVec.ofNat 8 (natOfBits bs)

/-- A page word of two page bytes, the high byte first (R46). -/
def wordOfBytes (high low : Byte) : Word := BitVec.ofNat 16 (high.toNat * 256 + low.toNat)

/-- The page bytes of a word, the high byte first (R46). -/
def highByte (w : Word) : Byte := BitVec.ofNat 8 (w.toNat / 256)
def lowByte (w : Word) : Byte := BitVec.ofNat 8 w.toNat

/-- Bytes paired into page words, high byte first, an odd last byte with a zero low byte (R68, R139). -/
def wordsOfBytes : List Byte → List Word
  | [] => []
  | [a] => [wordOfBytes a 0]
  | a :: b :: rest => wordOfBytes a b :: wordsOfBytes rest

/-! ## Fields of records, little-endian (R175) -/

def le16 (n : Nat) : List Byte := [BitVec.ofNat 8 n, BitVec.ofNat 8 (n / 256)]

def le32 (n : Nat) : List Byte :=
  [BitVec.ofNat 8 n, BitVec.ofNat 8 (n / 256), BitVec.ofNat 8 (n / 65536),
    BitVec.ofNat 8 (n / 16777216)]

/-- A little-endian number of bytes. -/
def natOfLe : List Byte → Nat
  | [] => 0
  | b :: rest => b.toNat + 256 * natOfLe rest

/-- A two-byte field of a table or order body at an offset, zero past its end. -/
def field16 (bs : List Byte) (at_ : Nat) : Nat :=
  (bs.getD at_ 0).toNat + 256 * (bs.getD (at_ + 1) 0).toNat

/-- A 16-bit sum of bytes (R160, R171). -/
def byteSum (bs : List Byte) : Nat := (bs.map BitVec.toNat).sum % 65536

/-- A 16-bit sum of words (R2, R25). -/
def wordSum (ws : List Word) : Nat := (ws.map BitVec.toNat).sum % 65536

/-- A count saturating at 65535 (R55, R60). -/
def sat16 (n : Nat) : Nat := min n 65535

/-! ## Lines of dots -/

/-- Whether dot x is black; dots from 1728 on are white. -/
def Dots.dot (d : Dots) (x : Nat) : Bool := (d[x / 216]?.getD 0).getLsbD (x % 216)

/-- A group of dots from its first 216 booleans, dot 0 first. -/
def groupOfBools (bs : List Bool) : BitVec 216 :=
  BitVec.ofNat 216 ((bs.take 216).foldr (fun b n => 2 * n + b.toNat) 0)

/-- A line from booleans, dot 0 first, black where set. -/
def dotsOfBools (bs : List Bool) : Dots :=
  #v[groupOfBools bs, groupOfBools (bs.drop 216), groupOfBools (bs.drop 432),
    groupOfBools (bs.drop 648), groupOfBools (bs.drop 864), groupOfBools (bs.drop 1080),
    groupOfBools (bs.drop 1296), groupOfBools (bs.drop 1512)]

/-- The dots of a line, dot 0 first. -/
def boolsOfDots (d : Dots) : List Bool := (List.range Config.lineDots).map fun x => Dots.dot d x

/-- The black dots among 216 of a group (R100). -/
def blackDots (g : BitVec 216) : Nat := (List.range 216).countP fun i => g.getLsbD i

/-- The dots of group g from `first` to before `stop`, counted on the line, as a mask. -/
def groupMask (g first stop : Nat) : BitVec 216 :=
  let lo := max first (216 * g) - 216 * g
  let hi := min stop (216 * g + 216) - 216 * g
  BitVec.ofNat 216 ((2 ^ (hi - lo) - 1) * 2 ^ lo)

/-- A line with `n` dots from `first` on made black. -/
def Dots.paint (d : Dots) (first n : Nat) : Dots :=
  d.mapIdx fun g group => group ||| groupMask g first (first + n)

/-- Run lengths from a dot on, the current run of colour `c` holding `n` dots so far (R42). -/
def runsFrom : List Bool → Bool → Nat → List Nat
  | [], _, n => [n]
  | b :: bs, c, n => if b == c then runsFrom bs c (n + 1) else n :: runsFrom bs b 1

/-- The runs of a line, white first (R42). -/
def runsOfDots (d : Dots) : List Nat := runsFrom (boolsOfDots d) false 0

end Sys2Proof.Machine
end

