-- ==== Sys2Proof/Machine/State.lean ====
section
/-! DEFINITION. The state of the part, block by block, as plain data, and the state after reset. -/

namespace Sys2Proof.Machine

/-! ## How a step can stop -/

/-- Why a step stops with a fault. -/
inductive Fault where
  /-- Raised by the grant of a burst (ARBITER_GRANT, BURST_END) some word address of which lies outside
  0 to N × 512 − 1 (R23).  Safe: the reference gives no such access an effect, and no run from reset
  comes to one. -/
  | outsideStore
deriving DecidableEq, Repr

/-- Why a step is refused. -/
inductive Refusal where
  /-- Raised by exec alone, for a command without a meaning.  Safe: nothing is claimed of it. -/
  | notModelled (mnemonic : String)
deriving DecidableEq, Repr

/-! ## Names of the parts -/

/-- Route slots (R60), table slots (R168), page numbers (R1). -/
abbrev RouteNo := Fin 4
abbrev TableNo := Fin 16
abbrev PageNo := Fin 32

/-- A timer: none while it is stopped, else the time at which it expires. -/
abbrev Timer := Option Nat

/-- Lifecycle of a page (R1). -/
inductive PageState where
  | free | opened | closed | dropping
deriving DecidableEq, Repr

/-- Writer kind that created a page (R1). -/
inductive Origin where
  | scan | line | host
deriving DecidableEq, Repr

/-- One entry of the page directory (R1). -/
structure PageEntry where
  state : PageState
  origin : Origin
  pitch : Nat
  codeSlot : Nat
  head : Nat
  tail : Nat
  blockCount : Nat
  bitLength : Nat
  lineCount : Option Nat
  badLines : Nat
  truncated : Bool
  damaged : Bool
  readers : Nat
  owner : Option RouteNo
deriving DecidableEq, Repr

/-- A FREE entry: every other field at zero or absent (R1). -/
def PageEntry.freeEntry : PageEntry :=
  { state := .free, origin := .scan, pitch := 0, codeSlot := 0, head := 0, tail := 0,
    blockCount := 0, bitLength := 0, lineCount := none, badLines := 0, truncated := false,
    damaged := false, readers := 0, owner := none }

/-! ## Block Pool -/

/-- One item of the directory write queue (R21): a link map word, or a directory image with the words it
was composed of once its first burst is granted and whether its first burst has ended (R2). -/
inductive DirItem where
  | link (block : Nat) (value : Word)
  | image (page : PageNo) (words : Option (List Word)) (half : Bool)
deriving DecidableEq, Repr

/-- Pool state (R22). -/
inductive PoolState where
  | inService | rebuilding | clearing
deriving DecidableEq, Repr

/-- Pool alert (R17). -/
inductive Alert where
  | none | low | out
deriving DecidableEq, Repr

/-- A chain of blocks: head, tail and count (R20). -/
structure Chain where
  head : Nat
  tail : Nat
  count : Nat
deriving DecidableEq, Repr

/-- Where a rebuild stands (R19): about to take the entry `page`, at `block` of an entry's chain with
`left` blocks from it on, or sweeping at block `next`, `last` the newest unmarked block found. -/
inductive RebuildAt where
  | entry (page : Nat)
  | walking (page : Nat) (block : Nat) (left : Nat)
  | sweeping (next : Nat) (first : Option Nat) (last : Option Nat) (count : Nat)
deriving DecidableEq, Repr

/-- A rebuild under way: its place, its marks, and the chains freed after they were walked (R19, R20). -/
structure Rebuild where
  at_ : RebuildAt
  marks : List Nat
  joined : List Chain
deriving DecidableEq, Repr

/-- The Block Pool (R12 to R21). -/
structure Pool where
  state : PoolState
  freeHead : Option Nat
  freeTail : Option Nat
  freeCount : Nat
  spare : List Nat
  stranded : Nat
  alert : Alert
  rebuild : Option Rebuild
  /-- The directory write queue, oldest first (R21). -/
  dirQueue : List DirItem
  /-- Pages whose DAMAGED flag waits for a place of the directory write queue, each with the route whose
  event it is, none once that route has ended (R7, R21). -/
  damage : List (PageNo × Option RouteNo)
deriving DecidableEq, Repr

/-! ## Page Store Controller -/

/-- Controller state (R37). -/
inductive StoreState where
  | init | on | entering | selfRefresh | waking
deriving DecidableEq, Repr

/-- A request for self-refresh, at the controller (R38, R41) or as Power Control holds it (R145). -/
inductive SelfRequest where
  | none | ordinary | retain
deriving DecidableEq, Repr

/-- Class of an error log record, in R31's order, which numbers it in reports (DESIGN CHOICE, log entry 72); R30's
clean read is the absence of a class. -/
inductive ErrorClass where
  | corrected | uncorrectable
deriving DecidableEq, Repr

/-- Clients the error log names (R31). -/
inductive LogClient where
  | lineTx | printFetch | directory | hostOut | scrub | boot
deriving DecidableEq, Repr

/-- The record of the error log (R31). -/
structure LogRecord where
  cls : ErrorClass
  block : Nat
  offset : Nat
  syndrome : Nat
  client : LogClient
deriving DecidableEq, Repr

/-- The three readers of pages, by their clients (R33). -/
inductive Reader where
  | print | line | host
deriving DecidableEq, Repr

/-- Whose header write a burst is (R24). -/
inductive HeaderFor where
  | release | failSafe | power | geometryClear
deriving DecidableEq, Repr

/-- What a burst in progress does (R26). -/
inductive BurstKind where
  /-- An initialisation row (R37); a refresh row (R28), `final` where it is the final row of an entry
  (R38); a scrub burst (R36). -/
  | initRow
  | refreshRow (final : Bool)
  | scrub
  /-- The directory write queue's oldest item (R21). -/
  | dirLink (block : Nat) (value : Word)
  | dirImage (page : PageNo) (half : Bool) (words : List Word)
  /-- A refill's link word (R13); a rebuild walk's (R19). -/
  | refill (block : Nat)
  | walk (block : Nat)
  /-- A header write (R24). -/
  | header (purpose : HeaderFor) (words : List Word)
  /-- Start-up reads and writes (R161 to R164, R167). -/
  | bootHeader
  | bootImage (page : Nat) (half : Bool)
  | bootLink (block : Nat)
  | bootWrite (addr : Nat) (words : List Word)
  /-- Page words written by a writer to its block (R48, R137, R68). -/
  | coderWrite (addr : Nat) (words : List Word)
  | lineWrite (addr : Nat) (words : List Word) (bytes : Nat)
  | hostWrite (addr : Nat) (words : List Word)
  /-- Page words and link words fetched for a reader (R56, R141, R69, R33). -/
  | fetchWords (reader : Reader) (addr : Nat) (count : Nat)
  | fetchLink (reader : Reader) (block : Nat)
deriving DecidableEq, Repr

/-- The burst in progress; `orphan` where the route it was granted for has ended since.  `page` is the page
that a reader's burst reads, until that page is freed (R7, R34). -/
structure Burst where
  kind : BurstKind
  orphan : Bool
  page : Option PageNo
deriving DecidableEq, Repr

/-- The Page Store Controller (R23 to R41). -/
structure Store where
  /-- The DRAM: (word address, stored word), addresses rising, no zero word listed. -/
  dram : List (Nat × StoreWord)
  geometry : Nat
  state : StoreState
  initLeft : Nat
  request : SelfRequest
  burst : Option Burst
  backlog : Nat
  refreshTimer : Timer
  scrubTimer : Timer
  scrubWaiting : Bool
  scrubPos : Nat
  wakeTimer : Timer
  log : Option LogRecord
deriving DecidableEq, Repr

/-! ## Setup and Table Store -/

/-- SETUP values but the geometry (R179), times in the units of their rules: µs, ms. -/
structure Setup where
  refresh : Nat
  scrub : Nat
  lowMark : Nat
  lamp : Nat
  settle : Nat
  cutter : Nat
  watermark : Nat
deriving DecidableEq, Repr

/-- Defaults of the SETUP values (R28, R35, R17, R88, R105, R129, R145). -/
def Setup.default : Setup :=
  { refresh := 15, scrub := 100, lowMark := 32, lamp := 500, settle := 10, cutter := 1500,
    watermark := 2 }

/-- Table kinds (R168). -/
inductive TableKind where
  | code | heat | ramp | shade
deriving DecidableEq, Repr

/-- State of a table slot (R168). -/
inductive SlotState where
  | empty | loading | ready | bad
deriving DecidableEq, Repr

/-- How a load failed: its check, or a form test by its place in R172's row. -/
inductive LoadFailure where
  | check
  | form (test : Nat)
deriving DecidableEq, Repr

/-- A table slot (R168). -/
structure TableSlot where
  kind : Option TableKind
  state : SlotState
  length : Nat
  check : Nat
  binds : Nat
  storage : List Byte
  failure : Option LoadFailure
deriving DecidableEq, Repr

/-- The EMPTY slot (R168). -/
def TableSlot.emptySlot : TableSlot :=
  { kind := none, state := .empty, length := 0, check := 0, binds := 0, storage := [],
    failure := none }

/-! ## Route Table -/

/-- Route kinds (R60), in the order of their codes (R175). -/
inductive RouteKind where
  | scanStore | copy | printPage | lineReceive | lineSend | hostStore | pageHost
deriving DecidableEq, Repr

/-- Route states (R61). -/
inductive RouteState where
  | idle | armed | running | stalled | halting
deriving DecidableEq, Repr

/-- Route outcomes (R60). -/
inductive Outcome where
  | done | halted | failed
deriving DecidableEq, Repr

/-- Causes of failure (R60). -/
inductive Cause where
  | noPage | poolOut | carrier | jam | paper | cover | memory | cutter
deriving DecidableEq, Repr

/-- How a page closes: normally, with its bit length, line count and bad lines, or TRUNCATED at its
last line end, with those before it (R5, R6). -/
structure PageClose where
  truncated : Bool
  bitLength : Nat
  lineCount : Option Nat
  badLines : Nat
deriving DecidableEq, Repr

/-- An outcome fixed, with how the writer's OPEN page is to close (R71). -/
structure Fate where
  outcome : Outcome
  cause : Option Cause
  unterminated : Bool
  close : Option PageClose
deriving DecidableEq, Repr

/-- The halt in force on a route (R73, R75). -/
inductive HaltMode where
  | none | finish | nowWaiting
deriving DecidableEq, Repr

/-- The stage of CUT-AFTER (R76). -/
inductive CutStage where
  | none | tail | cut
deriving DecidableEq, Repr

/-- A route record (R60), with what the route's own chapter adds to it. -/
structure Route where
  kind : Option RouteKind
  state : RouteState
  page : Option PageNo
  code : Option TableNo
  heat : Option TableNo
  pfRamp : Option TableNo
  sfRamp : Option TableNo
  shade : Option TableNo
  continues : Bool
  dropAfter : Bool
  cutAfter : Bool
  top : Nat
  pitch : Nat
  linesDone : Nat
  badLines : Nat
  consecBad : Nat
  badLimit : Nat
  overPhases : Nat
  skipped : Nat
  remainder : Nat
  minBits : Nat
  carrierMs : Nat
  jam : Nat
  lead : Nat
  eject : Nat
  tail : Nat
  trail : Nat
  maxLines : Nat
  lastLineEnd : Nat
  outcome : Option Outcome
  cause : Option Cause
  unterminated : Bool
  /-- The halt in force (R73). -/
  halt : HaltMode
  /-- The outcome fixed, while the end waits for directory places (R71). -/
  fate : Option Fate
  /-- The page last closed, for ENDED and PAGE-DONE (R71, R95). -/
  lastPage : Option PageNo
  /-- Its lines done and bad lines, where a CONTINUE has set the record's counts to 0 since and no page
  is open (R71, R77, R78). -/
  lastCounts : Option (Nat × Nat)
  /-- BAD-LINES has been reported for this page (R55). -/
  badReported : Bool
  cutStage : CutStage
  /-- LINE-RECEIVE has received a page since its start (R78). -/
  received : Bool
  /-- HOST-STORE's named code slot number (R62). -/
  namedCode : Nat
deriving DecidableEq, Repr

/-- A record after a cold or warm start (R60).  The kind of a slot never started is absent (DESIGN CHOICE, log entry
65). -/
def Route.idleRecord : Route :=
  { kind := none, state := .idle, page := none, code := none, heat := none, pfRamp := none,
    sfRamp := none, shade := none, continues := false, dropAfter := false, cutAfter := false,
    top := 0, pitch := 0, linesDone := 0, badLines := 0, consecBad := 0, badLimit := 0,
    overPhases := 0, skipped := 0, remainder := 0, minBits := 0, carrierMs := 0, jam := 0,
    lead := 0, eject := 0, tail := 0, trail := 0, maxLines := 0, lastLineEnd := 0,
    outcome := none, cause := none, unterminated := false, halt := .none, fate := none,
    lastPage := none, lastCounts := none, badReported := false, cutStage := .none, received := false,
    namedCode := 0 }

/-- The engine claim map and the engine fault states (R63). -/
structure Engines where
  scanner : Option RouteNo
  coder : Option RouteNo
  printer : Option RouteNo
  decoder : Option RouteNo
  line : Option RouteNo
  hostIn : Option RouteNo
  hostOut : Option RouteNo
  scannerFault : Bool
  printerFault : Bool
deriving DecidableEq, Repr

/-! ## Writers and readers of pages -/

/-- A line end: its bit position, and the lines and bad lines counted before it (R4, R137). -/
structure LineEnd where
  pos : Nat
  lines : Nat
  bad : Nat
deriving DecidableEq, Repr

/-- The progress of a writer through its page (R4, R48, R137, R68). -/
structure Writer where
  /-- Words left in the current block. -/
  room : Nat
  /-- Page words written to the store. -/
  written : Nat
  /-- Line ends beyond the words written, oldest first. -/
  ends : List LineEnd
  /-- The newest line end before which every word is written. -/
  covered : LineEnd
  /-- The page is asked for and not yet open (R3). -/
  opening : Bool
  /-- The writer could not allocate and waits for availability (R16). -/
  starved : Bool
  /-- A normal close waits for a place of the directory write queue (R21). -/
  closing : Option PageClose
deriving DecidableEq, Repr

/-- A writer with no page. -/
def Writer.fresh : Writer :=
  { room := 0, written := 0, ends := [], covered := { pos := 0, lines := 0, bad := 0 },
    opening := false, starved := false, closing := none }

/-- A reader's fetch of its page (R33, R56): the block it stands in, the words of it fetched, the page
words not yet fetched, and the word queue. -/
structure Fetch where
  active : Bool
  block : Nat
  offset : Nat
  left : Nat
  queue : List Word
deriving DecidableEq, Repr

/-- A reader that fetches nothing. -/
def Fetch.idle : Fetch := { active := false, block := 0, offset := 0, left := 0, queue := [] }

/-! ## Coder and decoders -/

/-- Coder states (R47). -/
inductive CoderState where
  | idle | waiting | coding | ending
deriving DecidableEq, Repr

/-- The Coder (R47).  Its run state: the dot position reached, which is that of the dot after the current
run; the run's colour; the codes of the run not yet appended, the sync standing before the first run's, or
in ENDING the end pattern not yet appended.  `runs` are the runs of the line after the current one. -/
structure Coder where
  state : CoderState
  slot : Option RouteNo
  dot : Nat
  black : Bool
  codes : List Bits
  runs : List Nat
  acc : Bits
  queue : List Word
  bitPos : Nat
  /-- The padding of R49 is still owed. -/
  padding : Bool
  /-- The page ends at maximum lines, without an end pattern (R49, R93). -/
  cutShort : Bool
  writer : Writer
deriving DecidableEq, Repr

/-- The idle Coder. -/
def Coder.idleCoder : Coder :=
  { state := .idle, slot := none, dot := 0, black := false, codes := [], runs := [], acc := [],
    queue := [], bitPos := 0, padding := false, cutShort := false, writer := Writer.fresh }

/-- Decoder states (R50). -/
inductive DecState where
  | seek | synced | line | skip | ended
deriving DecidableEq, Repr

/-- What both decoders hold (R50); the counts of R55 are in the route record. -/
structure Decoder where
  pos : Nat
  state : DecState
  syncs : Nat
  sum : Nat
  black : Bool
  chunk : Bool
deriving DecidableEq, Repr

/-- A decoder at the start of a stored page (R50). -/
def Decoder.start : Decoder :=
  { pos := 0, state := .seek, syncs := 0, sum := 0, black := false, chunk := false }

/-- The Print Decoder (R56, R57). -/
structure PrintDecoder where
  slot : Option RouteNo
  dec : Decoder
  fetch : Fetch
  bitLength : Nat
  buffer : Dots
  prevGood : Option Dots
  /-- The classified line that has found no free slot of the ring (R57). -/
  held : Option Dots
  /-- The route has been told that the page has no further lines (R57). -/
  told : Bool
  unterminated : Bool
deriving DecidableEq, Repr

/-- The Print Decoder without a route. -/
def PrintDecoder.idleDecoder : PrintDecoder :=
  { slot := none, dec := Decoder.start, fetch := Fetch.idle, bitLength := 0,
    buffer := Dots.white, prevGood := none, held := none, told := false,
    unterminated := false }

/-! ## Line Port -/

/-- Receive side (R135). -/
inductive RxState where
  | idle | seeking | storing | flushing
deriving DecidableEq, Repr

/-- Send side (R135). -/
inductive TxState where
  | idle | priming | sending
deriving DecidableEq, Repr

/-- A byte of the tx FIFO with the fill mark its bits carry: the bit and the fill (R142). -/
structure TxByte where
  byte : Byte
  mark : Option (Nat × Nat)
deriving DecidableEq, Repr

/-- Where a page stops being stored, with the counts before it, and whether its end pattern was found
there (R139). -/
structure StopPoint where
  pos : Nat
  lines : Nat
  bad : Nat
  endPattern : Bool
deriving DecidableEq, Repr

/-- The Line Port with its Check Decoder (R135, R58, R59). -/
structure LinePort where
  slot : Option RouteNo
  rx : RxState
  tx : TxState
  window : Bits
  assembly : Bits
  rxFifo : List Byte
  /-- Bits stored so far, those of the byte under assembly left out. -/
  stored : Nat
  /-- Stored bits the Check Decoder has not passed. -/
  ahead : Bits
  writer : Writer
  carrier : Timer
  dropped : Nat
  stop : Option StopPoint
  dec : Decoder
  /-- First bit of the sync of the line in hand; end mark of the line last ended (R59). -/
  lineSync : Option Nat
  lineEnd : Option Nat
  fetch : Fetch
  bitLength : Nat
  /-- Page bytes that have entered the tx FIFO. -/
  entered : Nat
  /-- A fill mark placed on a byte that has not entered yet: its position and fill. -/
  markAt : Option (Nat × Nat)
  txFifo : List TxByte
  txBit : Nat
  sent : Nat
  fill : Nat
  underruns : Nat
  inUnderrun : Bool
  endPos : Option Nat
  unterminated : Bool
  txd : Bool
deriving DecidableEq, Repr

/-- The Line Port after a cold or warm start (R135). -/
def LinePort.idlePort : LinePort :=
  { slot := none, rx := .idle, tx := .idle, window := [], assembly := [], rxFifo := [],
    stored := 0, ahead := [], writer := Writer.fresh, carrier := none, dropped := 0,
    stop := none, dec := Decoder.start, lineSync := none, lineEnd := none, fetch := Fetch.idle,
    bitLength := 0, entered := 0, markAt := none, txFifo := [], txBit := 0, sent := 0, fill := 0,
    underruns := 0, inUnderrun := false, endPos := none, unterminated := false, txd := false }

/-! ## Scanner Port -/

/-- Feed phases of a sheet (R89). -/
inductive FeedPhase where
  | none | feedIn | lead | capture | trail | eject
deriving DecidableEq, Repr

/-- The lamp (R88). -/
inductive Lamp where
  | off | warming | warm
deriving DecidableEq, Repr

/-- The mark on the newest captured line (R92, R93). -/
inductive LastMark where
  | none | normal | cutShort
deriving DecidableEq, Repr

/-- The Scanner Port (R82 to R96).  The scan ring is held as its lines in ring order: the line in
CODING, the READY lines, the slot CAPTURING; the other slots are FREE. -/
structure Scanner where
  coding : Bool
  ready : List Dots
  capturing : Bool
  nextSlot : Nat
  captureTimer : Timer
  lastStart : Option Nat
  /-- No line start of this route has come yet (R83). -/
  firstStart : Bool
  phase : FeedPhase
  trailLeft : Nat
  /-- DOC-EDGE deasserted during LEAD (R91). -/
  shortLead : Bool
  captured : Nat
  mark : LastMark
  /-- The line in hand is the sheet's last: EJECT follows at its end. -/
  lastLine : Bool
  /-- EJECT is complete (R94). -/
  sheetOut : Bool
  /-- A line of this sheet has asked for a page (R92). -/
  pageAsked : Bool
  lamp : Lamp
  lampTimer : Timer
deriving DecidableEq, Repr

/-- The Scanner Port after a cold or warm start (R84, R88, R89). -/
def Scanner.idlePort : Scanner :=
  { coding := false, ready := [], capturing := false, nextSlot := 0, captureTimer := none,
    lastStart := none, firstStart := true, phase := .none, trailLeft := 0, shortLead := false,
    captured := 0, mark := .none, lastLine := false, sheetOut := false, pageAsked := false,
    lamp := .off, lampTimer := none }

/-! ## Print Head Controller -/

/-- One strobe phase (R100, R102): the groups it drives, its dots and history dots, whether it is over
budget, and its width. -/
structure Phase where
  groups : List Nat
  dots : Nat
  hist : Nat
  overBudget : Bool
  width : Nat
deriving DecidableEq, Repr

/-- A strobe plan (R103). -/
structure Plan where
  phases : List Phase
  gap : Nat
  load : Nat
  burn : Nat
deriving DecidableEq, Repr

/-- A line of the print ring: its dots and its plan (R98). -/
structure PlannedLine where
  dots : Dots
  plan : Plan
deriving DecidableEq, Repr

/-- Where a burn stands (R108). -/
inductive BurnStage where
  | loading | firing | gap | complete
deriving DecidableEq, Repr

/-- A burn: its stage, the phases not yet past (the one firing first), its gap, the strobe timer, and
the route it burns for. -/
structure Burn where
  stage : BurnStage
  phases : List Phase
  gap : Nat
  timer : Timer
  slot : RouteNo
deriving DecidableEq, Repr

/-- The phase of a burn cut off, which completes its width and its gap (R109): whether the strobes are
driven still, its groups, its over-budget mark, its gap, the time its width or gap ends, and the route whose
record it counts in, none once the slot is started anew. -/
structure CutPhase where
  driven : Bool
  groups : List Nat
  overBudget : Bool
  gap : Nat
  ends : Nat
  slot : Option RouteNo
deriving DecidableEq, Repr

/-- Head supply (R105). -/
inductive Supply where
  | off | settling | settled
deriving DecidableEq, Repr

/-- The Print Head Controller (R97 to R112).  The print ring is held as its READY lines in ring order
and, in COPY, its CAPTURING slot; the other slots are FREE. -/
structure Head where
  capacity : Nat
  ready : List PlannedLine
  capturing : Bool
  nextSlot : Nat
  history : Dots
  current : Option PlannedLine
  burn : Option Burn
  /-- Phases of burns cut off that have not ended yet, oldest first (R109). -/
  cutOff : List CutPhase
  supply : Supply
  settleTimer : Timer
  theta : Byte
  volts : Byte
  thetaNext : Bool
  sampleTimer : Timer
deriving DecidableEq, Repr

/-! ## Motors and cutter -/

/-- The four phase lines of a motor (R115). -/
inductive PhaseLine where
  | a | b | c | d
deriving DecidableEq, Repr

/-- Motor states (R114). -/
inductive MotorState where
  | idle | moving | waitData | waitCool | waitPaper | waitRoom
deriving DecidableEq, Repr

/-- Owners of a move (R123). -/
inductive MoveOwner where
  | feedIn | eject | tail | order
deriving DecidableEq, Repr

/-- Motions (R114). -/
inductive Motion where
  | none
  | lines
  | move (owner : MoveOwner)
  | runDown
deriving DecidableEq, Repr

/-- Hold states (R126). -/
inductive HoldState where
  | driven | hold | off
deriving DecidableEq, Repr

/-- Holders of a motion claim (R63). -/
inductive MotionClaim where
  | move | cut | runDown
deriving DecidableEq, Repr

/-- A ramp table as a motor uses it (R113), or the copy a run-down takes (R125). -/
structure Ramp where
  z : Nat
  spl : List Nat
  hold : Nat
  periods : List Nat
deriving DecidableEq, Repr

/-- A motor record (R114).  `left` is the steps remaining in the line, in LEAD or in the move after the
step in progress. -/
structure Motor where
  state : MotorState
  index : Nat
  phase : Nat
  motion : Motion
  left : Nat
  taken : Nat
  back : Bool
  /-- The move's count is out and the motor is coming down to Z (R123). -/
  overrun : Bool
  /-- The last step of a print line waits for its burn (R118). -/
  stretched : Bool
  timer : Timer
  hold : HoldState
  holdTimer : Timer
  claim : Option MotionClaim
  /-- Ramp slot and top index of a MOVE. -/
  slot : Option TableNo
  top : Nat
  copy : Option Ramp
deriving DecidableEq, Repr

/-- A motor after a cold or warm start (R114). -/
def Motor.idleMotor : Motor :=
  { state := .idle, index := 0, phase := 0, motion := .none, left := 0, taken := 0,
    back := false, overrun := false, stretched := false, timer := none, hold := .off,
    holdTimer := none, claim := none, slot := none, top := 0, copy := none }

/-- Cutter states (R129). -/
inductive CutterState where
  | idle | out | back | fault
deriving DecidableEq, Repr

/-- Who a cut is for: a CUT order, or a route (R130). -/
inductive CutOwner where
  | order
  | route (slot : RouteNo)
deriving DecidableEq, Repr

/-- The cutter (R129). -/
structure Cutter where
  state : CutterState
  timer : Timer
  owner : Option CutOwner
deriving DecidableEq, Repr

/-! ## Host flows -/

/-- The HOST-IN queue and its route's flow (R68). -/
structure HostIn where
  slot : Option RouteNo
  queue : List Word
  half : Option Byte
  /-- A final DATA order has been taken; its last byte has been placed. -/
  finalTaken : Bool
  finalPlaced : Bool
  taken : Nat
  lineCount : Option Nat
  writer : Writer
deriving DecidableEq, Repr

/-- The HOST-IN flow without a route. -/
def HostIn.idleFlow : HostIn :=
  { slot := none, queue := [], half := none, finalTaken := false, finalPlaced := false,
    taken := 0, lineCount := none, writer := Writer.fresh }

/-- The PAGE-HOST flow (R69). -/
structure HostOut where
  slot : Option RouteNo
  fetch : Fetch
  bitLength : Nat
  /-- The high byte of the front word has been sent. -/
  lowNext : Bool
  /-- Page bytes given to DATA reports begun so far. -/
  begun : Nat
  /-- Page bytes put into the outbound FIFO. -/
  sent : Nat
  /-- A DATA report with the final flag has been begun. -/
  finalBegun : Bool
deriving DecidableEq, Repr

/-- The PAGE-HOST flow without a route. -/
def HostOut.idleFlow : HostOut :=
  { slot := none, fetch := Fetch.idle, bitLength := 0, lowNext := false, begun := 0, sent := 0,
    finalBegun := false }

/-! ## Orders and reports -/

/-- Order kinds a refusal names (R177, R182). -/
inductive OrderKind where
  | setup | tableLoad | tableDrop | pageDrop | routeStart | routeHalt | data | move | cut | level
  | query | mark | clear | imageEnd | malformed
deriving DecidableEq, Repr

/-- Causes of refusal, in the order of R177's table. -/
inductive Refused where
  | badField | notInBoot | bootOnly | slotBusy | engineBusy | engineFault | noPaper
  | tableNotReady | tableKind | noRoom | tableBound | pageState | pagesPresent | level | motion
  | noRoute | busy
deriving DecidableEq, Repr

/-- Wake causes, in the order of R148's table. -/
inductive WakeCause where
  | stream | wake | docIn | cover | error | line
deriving DecidableEq, Repr

/-- Sensors that report (R182). -/
inductive Sensor where
  | cover | paper | docIn | docEdge
deriving DecidableEq, Repr

/-- Cold reasons (R161). -/
inductive ColdReason where
  | flag | headerError | signature | geometry | marker
deriving DecidableEq, Repr

/-- ROM outcomes, in the order of chapter 10's first list and of R165, which numbers them; R160's table has the
events, GOOD, BAD and ABSENT, in another (DESIGN CHOICE, log entry 74). -/
inductive RomOutcome where
  | good | absent | bad
deriving DecidableEq, Repr

/-- Subjects of MOTOR reports (R133). -/
inductive MotorSubject where
  | pf | sf | cutter
deriving DecidableEq, Repr

/-- What a report says: its kind, subject, event and fields (R182). -/
inductive Report where
  /-- A refusal: the order kind, the cause, and the fields carried (R177). -/
  | refused (kind : OrderKind) (cause : Refused) (fields : List Byte)
  | routeArmed (slot : RouteNo)
  | routeRunning (slot : RouteNo)
  | routeStalled (slot : RouteNo)
  | routeHalting (slot : RouteNo)
  | pageDone (slot : RouteNo) (page : Option PageNo) (lines : Nat)
  | ended (slot : RouteNo) (kind : Option RouteKind) (outcome : Outcome) (cause : Option Cause)
      (unterminated : Bool) (page : Option PageNo) (lines bad : Nat)
  | overrun (slot : RouteNo) (dropped : Nat)
  | underrun (slot : RouteNo) (count : Nat)
  | badLines (slot : RouteNo) (bad consecutive : Nat)
  | pageOpened (page : PageNo)
  | pageClosed (page : PageNo) (truncated : Bool)
  | pageDamaged (page : PageNo)
  | pageDropping (page : PageNo)
  | pageFreed (page : PageNo)
  | poolLow | poolOut | poolOk | poolStranded | poolRebuilding
  | poolRebuilt (free : Nat)
  | poolCleared (free : Nat)
  | memory (record : LogRecord)
  | stretch (slot : RouteNo) (index burn : Nat)
  | moved (motor : MotorName) (steps : Nat) (cutShort : Bool)
  | skip (slot : RouteNo) (skipped : Nat)
  | cutDone
  | cutTimeout (slot : Option RouteNo)
  | cutStopped (state : CutterState)
  | levelRun (first : Option WakeCause) (causes : List WakeCause) (abandoned : Bool)
  | levelRetain
  | sensor (sensor : Sensor) (level : Bool)
  | boot (warm : Bool) (reason : Option ColdReason) (rom : RomOutcome)
      (kept discarded free ready : Nat)
  | tableReady (slot : TableNo) (kind : TableKind) (sum : Nat)
  | tableCheck (slot : TableNo) (kind : TableKind) (sum : Nat)
  | tableForm (slot : TableNo) (kind : TableKind) (sum test : Nat)
  /-- An ANSWER, with its whole body (R180). -/
  | answer (body : List Byte)
  /-- A MARK report (R181). -/
  | mark (value : Word)
deriving DecidableEq, Repr

/-- An entry of the Report Queue (R182). -/
structure QueueEntry where
  report : Report
  count : Nat
  withheld : Bool
deriving DecidableEq, Repr

/-- Where the parser's bytes come from (R176). -/
inductive Source where
  | rom | port
deriving DecidableEq, Repr

/-- Parser states (R176). -/
inductive ParserState where
  | head | body | hunt
deriving DecidableEq, Repr

/-- What becomes of the body bytes the parser takes (R177): collected for the order, skipped, written to
a LOADING slot with the order's check, or placed in the HOST-IN queue for a slot with its flags. -/
inductive BodyUse where
  | collect
  | skip
  | load (slot : TableNo) (check : Word)
  | place (slot : RouteNo) (final : Bool)
deriving DecidableEq, Repr

/-- The Order Parser (R176). -/
structure Parser where
  state : ParserState
  source : Source
  header : List Byte
  kind : Byte
  length : Nat
  body : List Byte
  taken : Nat
  use : BodyUse
  /-- Bytes of 7Eh 81h 7Eh 81h matched in HUNT. -/
  matched : Nat
deriving DecidableEq, Repr

/-- The parser after any reset (R176). -/
def Parser.start : Parser :=
  { state := .head, source := .rom, header := [], kind := 0, length := 0, body := [], taken := 0,
    use := .collect, matched := 0 }

/-- A DATA report under way (R69): its route, page bytes still to send, its final flag, and whether the
route has ended under it. -/
structure DataOut where
  slot : RouteNo
  left : Nat
  final : Bool
  cutShort : Bool
deriving DecidableEq, Repr

/-- The record the multiplexer is writing (R183): the bytes fixed at its beginning, and the page bytes
that follow them. -/
structure OutRecord where
  bytes : List Byte
  data : Option DataOut
deriving DecidableEq, Repr

/-- The Stream Port (R178, R183). -/
structure Port where
  inFifo : List Byte
  outFifo : List Byte
  record : Option OutRecord
  /-- The byte the host read last. -/
  lastRead : Option Byte
deriving DecidableEq, Repr

/-! ## Power Control and Boot Controller -/

/-- Levels (R145). -/
inductive Level where
  | run | enteringDoze | doze | waking | dozeRx | enteringRetain | retain
deriving DecidableEq, Repr

/-- The step an entry has reached: DOZE entry's drain or self-refresh (R147); power-fail entry's wait
for ON, drain, CLEAN header or retain request (R156). -/
inductive EntryStep where
  | none | drain | selfRefresh | retainOn | retainDrain | retainHeader | retainRequest
deriving DecidableEq, Repr

/-- Power Control (R145). -/
structure Power where
  level : Option Level
  stutter : Bool
  quietReceive : Bool
  quietErrors : Bool
  wakeFirst : Option WakeCause
  wakeSet : List WakeCause
  request : SelfRequest
  step : EntryStep
  /-- Step 1 of the DOZE entry has been taken (R149). -/
  drivesOff : Bool
  /-- The wake under way abandons a DOZE entry (R149). -/
  abandoned : Bool
  /-- The core clocks stopped at DOZE and have not been all restarted (R147, R150). -/
  asleep : Bool
  /-- The stutter watermark in force: the SETUP value as of the last take or entry of the print ring. -/
  watermark : Nat
deriving DecidableEq, Repr

/-- Boot states (R157). -/
inductive BootState where
  | hold | memoryStart | romReplay | warmRebuild | coldClear | release | ready | failSafe
deriving DecidableEq, Repr

/-- The Boot Controller's work in hand (R161 to R167). -/
inductive BootTask where
  | none
  /-- Read the header (R161). -/
  | readHeader
  /-- Read the image of an entry, its first half at hand once read (R162). -/
  | readImage (page : Nat) (first : Option (List Word)) (spoilt : Bool)
  /-- Walk an entry's chain: the block to read, blocks from it on, the marks placed so far. -/
  | walk (page : Nat) (entry : PageEntry) (block left : Nat) (own : List Nat)
  /-- Write all-zero images of the discarded entries (R163). -/
  | zeroImage (pages : List Nat) (half : Bool)
  /-- Sweep the free list from a block on (R163). -/
  | sweep (next : Nat)
  /-- Write the store from a word address on: at start-up, or for a geometry change (R164, R167). -/
  | clear (addr : Nat)
  | geometryWait
  | geometryClear (addr : Nat)
  | geometryHeader
  /-- The LIVE header of RELEASE (R165). -/
  | releaseHeader
  /-- FAIL-SAFE waits for ON, for the LIVE burst, for the CLEAN burst, or has asked (R166). -/
  | failOn
  | failLive
  | failClean
deriving DecidableEq, Repr

/-- The Boot Controller (R157). -/
structure Boot where
  state : BootState
  romPos : Nat
  imageSum : Word
  loaded : List TableNo
  romOutcome : Option RomOutcome
  /-- Memory outcome: some true WARM, some false COLD. -/
  warm : Option Bool
  coldReason : Option ColdReason
  kept : Nat
  discarded : Nat
  /-- Entries discarded, and blocks marked by kept chains (R162). -/
  dropList : List Nat
  marks : List Nat
  retained : Bool
  hostHold : Bool
  task : BootTask
deriving DecidableEq, Repr

/-! ## The part -/

/-- Levels of the inputs, debounced (00_scope.md, signal groups). -/
structure Pins where
  coverOpen : Bool
  paperOut : Bool
  docIn : Bool
  docEdge : Bool
  home : Bool
  lineValid : Bool
  wake : Bool
  pfail : Bool
deriving DecidableEq, Repr

/-- The state of the part. -/
structure State where
  /-- The commands waiting, first in first out (the model's own). -/
  pending : List Instr
  /-- The time in µs (the model's own). -/
  now : Nat
  /-- Free choices taken (the model's own). -/
  choices : Nat
  pins : Pins
  setup : Setup
  parser : Parser
  port : Port
  reports : List QueueEntry
  tables : Vector TableSlot 16
  store : Store
  pool : Pool
  pages : Vector PageEntry 32
  routes : Vector Route 4
  engines : Engines
  coder : Coder
  printDec : PrintDecoder
  line : LinePort
  scanner : Scanner
  head : Head
  pf : Motor
  sf : Motor
  cutter : Cutter
  hostIn : HostIn
  hostOut : HostOut
  power : Power
  boot : Boot
deriving DecidableEq, Repr

/-- Geometry in force until a SETUP sets another (R23). -/
def defaultGeometry : Nat := 1024

/-- The part after a reset: everything at the value its rule gives, but the input levels, the DRAM, the
retained flag, the clock and the queue of commands, which a reset leaves (R157).  The Page Store
Controller begins by the retained flag (R37).  A burst in progress at the reset is dropped, and writes nothing
(DESIGN CHOICE, log entry 64). -/
def State.afterReset (pending : List Instr) (now choices : Nat) (pins : Pins)
    (dram : List (Nat × StoreWord)) (retained : Bool) : State :=
  { pending := pending
    now := now
    choices := choices
    pins := pins
    setup := Setup.default
    parser := Parser.start
    port := { inFifo := [], outFifo := [], record := none, lastRead := none }
    reports := []
    tables := Vector.replicate 16 TableSlot.emptySlot
    store :=
      { dram := dram, geometry := defaultGeometry
        state := if retained then .selfRefresh else .init
        initLeft := if retained then 0 else 8
        request := if retained then .retain else .none
        burst := none, backlog := 0, refreshTimer := none, scrubTimer := none
        scrubWaiting := false, scrubPos := 0, wakeTimer := none, log := none }
    pool :=
      { state := .inService, freeHead := none, freeTail := none, freeCount := 0, spare := []
        stranded := 0, alert := .none, rebuild := none, dirQueue := [], damage := [] }
    pages := Vector.replicate 32 PageEntry.freeEntry
    routes := Vector.replicate 4 Route.idleRecord
    engines :=
      { scanner := none, coder := none, printer := none, decoder := none, line := none
        hostIn := none, hostOut := none, scannerFault := false, printerFault := false }
    coder := Coder.idleCoder
    printDec := PrintDecoder.idleDecoder
    line := LinePort.idlePort
    scanner := Scanner.idlePort
    head :=
      { capacity := 4, ready := [], capturing := false, nextSlot := 0, history := Dots.white
        current := none, burn := none, cutOff := [], supply := .off, settleTimer := none, theta := 128
        volts := 128, thetaNext := true, sampleTimer := some (now + Config.sampleTime) }
    pf := Motor.idleMotor
    sf := Motor.idleMotor
    cutter := { state := .idle, timer := none, owner := none }
    hostIn := HostIn.idleFlow
    hostOut := HostOut.idleFlow
    power :=
      { level := none, stutter := false, quietReceive := false, quietErrors := false
        wakeFirst := none, wakeSet := [], request := .none, step := .none, drivesOff := false
        abandoned := false, asleep := false, watermark := Setup.default.watermark }
    boot :=
      { state := .hold, romPos := 0, imageSum := 0, loaded := [], romOutcome := none
        warm := none, coldReason := none, kept := 0, discarded := 0, dropList := [], marks := []
        retained := retained, hostHold := true, task := .none } }

/-- The machine right after power-on: no command waits, nothing is stored, the retained flag is clear,
and every input is at its quiet level. -/
def State.reset : State :=
  State.afterReset [] 0 0
    { coverOpen := false, paperOut := false, docIn := false, docEdge := false, home := true,
      lineValid := false, wake := false, pfail := false }
    [] false

end Sys2Proof.Machine
end

