-- ==== Sys2Proof/Machine/Memory.lean ====
section
/-! DEFINITION. The DRAM as a canonical list of words, and the check code (R29, R30). -/

namespace Sys2Proof.Machine

/-! ## The list of stored words -/

/-- The stored word at an address; an unlisted address reads as the all-zero word. -/
def dramRead : List (Nat × StoreWord) → Nat → StoreWord
  | [], _ => 0
  | (b, v) :: rest, a => if b = a then v else dramRead rest a

/-- Stores a word at an address, keeping the list's form. -/
def dramWrite : List (Nat × StoreWord) → Nat → StoreWord → List (Nat × StoreWord)
  | [], a, v => if v = 0 then [] else [(a, v)]
  | (b, w) :: rest, a, v =>
    if a < b then (if v = 0 then (b, w) :: rest else (a, v) :: (b, w) :: rest)
    else if a = b then (if v = 0 then rest else (a, v) :: rest)
    else (b, w) :: dramWrite rest a v

/-- The form: addresses strictly rising from `lo` on, no all-zero word listed. -/
def dramWfFrom : List (Nat × StoreWord) → Nat → Bool
  | [], _ => true
  | (a, v) :: rest, lo => decide (lo ≤ a) && v != 0 && dramWfFrom rest (a + 1)

/-- The canonical form of the DRAM's list. -/
def dramWf (m : List (Nat × StoreWord)) : Bool := dramWfFrom m 0

/-! ## The check code -/

/-- Syndromes of the data bits d0 to d15 (R29). -/
def dataSyndromes : List (BitVec 6) :=
  [0x0B, 0x13, 0x23, 0x0D, 0x25, 0x19, 0x29, 0x31, 0x0E, 0x16, 0x26, 0x1A, 0x32, 0x1C, 0x2C, 0x34]

/-- The check bits of a data word: each the even parity of the data bits that feed it (R29). -/
def checkBits (w : Word) : BitVec 6 :=
  (List.range 16).foldl
    (fun c i => if w.getLsbD i then c ^^^ dataSyndromes.getD i 0 else c) 0

/-- A word with its check bits, as stored (R29). -/
def encodeWord (w : Word) : StoreWord := BitVec.ofNat 22 ((checkBits w).toNat * 65536 + w.toNat)

/-- What a read delivers (R30): the data, the class where it is not clean, and the syndrome. -/
structure ReadWord where
  data : Word
  cls : Option ErrorClass
  syndrome : Nat
deriving DecidableEq, Repr

/-- The read of a stored word (R30). -/
def decodeWord (v : StoreWord) : ReadWord :=
  let data : Word := BitVec.ofNat 16 v.toNat
  let syndrome : BitVec 6 := checkBits data ^^^ BitVec.ofNat 6 (v.toNat / 65536)
  if syndrome = 0 then { data := data, cls := none, syndrome := 0 }
  else if dataSyndromes.contains syndrome then
    { data := data ^^^ BitVec.ofNat 16 (2 ^ dataSyndromes.idxOf syndrome)
      cls := some .corrected, syndrome := syndrome.toNat }
  else if [1, 2, 4, 8, 16, 32].contains syndrome then
    { data := data, cls := some .corrected, syndrome := syndrome.toNat }
  else { data := data, cls := some .uncorrectable, syndrome := syndrome.toNat }

/-- Writes data words, with fresh check bits, from an address on (R29). -/
def dramWriteWords : List (Nat × StoreWord) → Nat → List Word → List (Nat × StoreWord)
  | m, _, [] => m
  | m, a, w :: ws => dramWriteWords (dramWrite m a (encodeWord w)) (a + 1) ws

/-- Applies bit errors to the stored words from an address on. -/
def dramFlip : List (Nat × StoreWord) → Nat → List StoreWord → List (Nat × StoreWord)
  | m, _, [] => m
  | m, a, f :: fs => dramFlip (dramWrite m a (dramRead m a ^^^ f)) (a + 1) fs

/-- The reads of `n` words from an address on. -/
def dramReadWords (m : List (Nat × StoreWord)) (a n : Nat) : List ReadWord :=
  (List.range n).map fun i => decodeWord (dramRead m (a + i))

end Sys2Proof.Machine
end

