-- ==== Sys2Proof/Machine/Ops.lean ====
section
/-! DEFINITION. Access to the parts of the state: routes, pages, table slots, motors, timers, claims. -/

namespace Sys2Proof.Machine

/-! ## Records by number -/

def State.route (s : State) (r : RouteNo) : Route := s.routes[r]
def State.setRoute (s : State) (r : RouteNo) (x : Route) : State :=
  { s with routes := s.routes.set r x }
def State.page (s : State) (p : PageNo) : PageEntry := s.pages[p]
def State.setPage (s : State) (p : PageNo) (x : PageEntry) : State :=
  { s with pages := s.pages.set p x }
def State.table (s : State) (t : TableNo) : TableSlot := s.tables[t]
def State.setTable (s : State) (t : TableNo) (x : TableSlot) : State :=
  { s with tables := s.tables.set t x }
def State.motor (s : State) : MotorName → Motor
  | .pf => s.pf
  | .sf => s.sf
def State.setMotor (s : State) (m : MotorName) (x : Motor) : State :=
  match m with
  | .pf => { s with pf := x }
  | .sf => { s with sf := x }

/-- All numbers below a bound, in order. -/
def allFin (n : Nat) : List (Fin n) := List.finRange n

/-- A number as a slot, where it is one. -/
def asFin (n v : Nat) : Option (Fin n) := if h : v < n then some ⟨v, h⟩ else none

/-! ## Time and free choices -/

/-- The time of a timer's expiry: not before its deadline (log entry 1). -/
def State.reach (s : State) (deadline : Nat) : State := { s with now := max s.now deadline }

/-- Which of `n` things that may be served in either order comes first (log entry 2); one thing alone
takes no choice. -/
def State.choose (s : State) (n : Nat) : Nat × State :=
  if n ≤ 1 then (0, s)
  else (Config.servedFirst s.choices % n, { s with choices := s.choices + 1 })

/-! ## Routes -/

/-- A route is in use in every state but IDLE (R61). -/
def Route.inUse (x : Route) : Bool := x.state != .idle

/-- A route whose outcome is not fixed and which moves data or waits to (R71). -/
def Route.live (x : Route) : Bool := x.inUse && x.fate.isNone

def State.routesInUse (s : State) : List RouteNo := (allFin 4).filter fun r => (s.route r).inUse

/-- Writers create a page; readers read one (R62). -/
def RouteKind.isReader : RouteKind → Bool
  | .printPage | .lineSend | .pageHost => true
  | _ => false
def RouteKind.isWriter : RouteKind → Bool
  | .scanStore | .lineReceive | .hostStore => true
  | _ => false

/-- Engines a kind claims (R62). -/
def RouteKind.usesScanner : RouteKind → Bool
  | .scanStore | .copy => true
  | _ => false
def RouteKind.usesPrinter : RouteKind → Bool
  | .copy | .printPage => true
  | _ => false
def RouteKind.usesLine : RouteKind → Bool
  | .lineReceive | .lineSend => true
  | _ => false

/-- Whether a kind starts in ARMED (R62). -/
def RouteKind.arms : RouteKind → Bool
  | .scanStore | .copy | .printPage | .lineReceive => true
  | _ => false

def Route.isKind (x : Route) (k : RouteKind) : Bool := x.kind == some k
def Route.isReader (x : Route) : Bool := (x.kind.map RouteKind.isReader).getD false
def Route.isWriter (x : Route) : Bool := (x.kind.map RouteKind.isWriter).getD false
def Route.usesScanner (x : Route) : Bool := (x.kind.map RouteKind.usesScanner).getD false
def Route.usesPrinter (x : Route) : Bool := (x.kind.map RouteKind.usesPrinter).getD false

/-- The slots a route binds, each once (R173). -/
def Route.boundSlots (x : Route) : List TableNo :=
  ([x.code, x.heat, x.pfRamp, x.sfRamp, x.shade].filterMap id).eraseDups

/-- Sum of the reservation remainders (R15). -/
def State.remainders (s : State) : Nat := (s.routes.toList.map Route.remainder).sum

/-- The claims of a kind, given to a slot (R62, R63). -/
def Engines.claim (e : Engines) (k : RouteKind) (r : RouteNo) : Engines :=
  { e with
    scanner := if k.usesScanner then some r else e.scanner
    coder := if k == .scanStore then some r else e.coder
    printer := if k.usesPrinter then some r else e.printer
    decoder := if k == .printPage then some r else e.decoder
    line := if k.usesLine then some r else e.line
    hostIn := if k == .hostStore then some r else e.hostIn
    hostOut := if k == .pageHost then some r else e.hostOut }

/-- The claims of a slot released (R71). -/
def Engines.release (e : Engines) (r : RouteNo) : Engines :=
  let free (x : Option RouteNo) : Option RouteNo := if x == some r then none else x
  { e with
    scanner := free e.scanner, coder := free e.coder, printer := free e.printer
    decoder := free e.decoder, line := free e.line, hostIn := free e.hostIn
    hostOut := free e.hostOut }

/-- Whether an engine of the kind is claimed (R64, test 4). -/
def Engines.busy (e : Engines) (k : RouteKind) : Bool :=
  (k.usesScanner && e.scanner.isSome) || (k == .scanStore && e.coder.isSome)
    || (k.usesPrinter && e.printer.isSome) || (k == .printPage && e.decoder.isSome)
    || (k.usesLine && e.line.isSome) || (k == .hostStore && e.hostIn.isSome)
    || (k == .pageHost && e.hostOut.isSome)

/-- A CUT order holds the cutter's motion claim while its cut is under way (R63, R132). -/
def Cutter.claim (c : Cutter) : Option MotionClaim :=
  if c.owner == some .order then some .cut else none

/-- The cutter is in a cut (R129). -/
def Cutter.cutting (c : Cutter) : Bool := c.state == .out || c.state == .back

/-! ## Page entries -/

/-- The lowest FREE entry (R3). -/
def State.freeEntry (s : State) : Option PageNo :=
  (allFin 32).find? fun p => (s.page p).state == .free

end Sys2Proof.Machine
end

