-- ==== Sys2Proof/Machine/Reports.lean ====
section
/-! DEFINITION. Reports: their bytes (R175), their keys and the Report Queue (R182). -/

namespace Sys2Proof.Machine

/-! ## Fields (R175) -/

/-- A flag or mark: one byte. -/
def flagByte (b : Bool) : List Byte := [if b then 1 else 0]

/-- A value from a named set: one byte, numbered from 0 in the order its rule lists the set, which is the
order of the constructors of its type. -/
def setByte (index : Nat) : List Byte := [BitVec.ofNat 8 index]

/-- A value from a named set that may be absent. -/
def setByteOpt : Option Nat → List Byte
  | some i => setByte i
  | none => [0xFF]

/-- A number: two bytes; above 65535 they are a free value (log entry 7). -/
def number (n : Nat) : List Byte :=
  if n ≤ 65535 then le16 n else le16 (Config.wideNumber n).toNat

/-- A number that may be absent. -/
def numberOpt : Option Nat → List Byte
  | some n => number n
  | none => [0xFF, 0xFF]

/-- A bit length or position: four bytes. -/
def position (n : Nat) : List Byte := le32 n

/-- A set of wake causes: one flag byte each in R148's order (log entry 8). -/
def causeSet (causes : List WakeCause) : List Byte :=
  [WakeCause.stream, .wake, .docIn, .cover, .error, .line].flatMap fun c =>
    flagByte (causes.contains c)

/-! ## Codes -/

/-- Kind byte of an order (R175); 00h for MALFORMED (R182). -/
def OrderKind.code : OrderKind → Nat
  | .setup => 1 | .tableLoad => 2 | .tableDrop => 3 | .pageDrop => 4 | .routeStart => 5
  | .routeHalt => 6 | .data => 7 | .move => 8 | .cut => 9 | .level => 10 | .query => 11
  | .mark => 12 | .clear => 13 | .imageEnd => 14 | .malformed => 0

/-- The order kind a kind byte stands for; RESYNC is never refused and has none (R177). -/
def OrderKind.ofByte (b : Byte) : Option OrderKind :=
  [OrderKind.setup, .tableLoad, .tableDrop, .pageDrop, .routeStart, .routeHalt, .data, .move, .cut,
    .level, .query, .mark, .clear, .imageEnd].find? fun k => k.code == b.toNat

def MotorSubject.ofMotor : MotorName → MotorSubject
  | .pf => .pf
  | .sf => .sf

/-- Kind byte of a report (R175). -/
def Report.kindCode : Report → Nat
  | .refused .. => 0x81
  | .routeArmed _ | .routeRunning _ | .routeStalled _ | .routeHalting _ | .pageDone .. | .ended ..
  | .overrun .. | .underrun .. | .badLines .. => 0x82
  | .pageOpened _ | .pageClosed .. | .pageDamaged _ | .pageDropping _ | .pageFreed _ => 0x83
  | .poolLow | .poolOut | .poolOk | .poolStranded | .poolRebuilding | .poolRebuilt _
  | .poolCleared _ => 0x84
  | .memory _ => 0x85
  | .stretch .. | .moved .. | .skip .. | .cutDone | .cutTimeout _ | .cutStopped _ => 0x86
  | .levelRun .. | .levelRetain => 0x87
  | .sensor .. => 0x88
  | .boot .. => 0x89
  | .tableReady .. | .tableCheck .. | .tableForm .. => 0x8A
  | .answer _ => 0x8B
  | .mark _ => 0x8C

/-- Subject byte of a report (R182). -/
def Report.subject : Report → Nat
  | .refused k _ _ => k.code
  | .routeArmed r | .routeRunning r | .routeStalled r | .routeHalting r | .pageDone r _ _
  | .ended r _ _ _ _ _ _ _ | .overrun r _ | .underrun r _ | .badLines r _ _ => r.val
  | .pageOpened p | .pageClosed p _ | .pageDamaged p | .pageDropping p | .pageFreed p => p.val
  | .stretch .. => 0
  | .moved m _ _ => (MotorSubject.ofMotor m).ctorIdx
  | .skip .. => 1
  | .cutDone | .cutTimeout _ | .cutStopped _ => 2
  | .sensor x _ => x.ctorIdx
  | _ => 0

/-- Event code of a report, from 1 in the order R182 lists the events, or R177 the causes. -/
def Report.event : Report → Nat
  | .refused _ c _ => c.ctorIdx + 1
  | .routeArmed _ => 1 | .routeRunning _ => 2 | .routeStalled _ => 3 | .routeHalting _ => 4
  | .pageDone .. => 5 | .ended .. => 6 | .overrun .. => 7 | .underrun .. => 8 | .badLines .. => 9
  | .pageOpened _ => 1 | .pageClosed .. => 2 | .pageDamaged _ => 3 | .pageDropping _ => 4
  | .pageFreed _ => 5
  | .poolLow => 1 | .poolOut => 2 | .poolOk => 3 | .poolStranded => 4 | .poolRebuilding => 5
  | .poolRebuilt _ => 6 | .poolCleared _ => 7
  | .memory _ => 1
  | .stretch .. => 1 | .moved .. => 2 | .skip .. => 3 | .cutDone => 4 | .cutTimeout _ => 5
  | .cutStopped _ => 6
  | .levelRun .. => 1 | .levelRetain => 2
  | .sensor .. => 1
  | .boot .. => 1
  | .tableReady .. => 1 | .tableCheck .. => 2 | .tableForm .. => 3
  | .answer _ | .mark _ => 0

/-- The five fields of a log record (R31). -/
def LogRecord.fields (x : LogRecord) : List Byte :=
  setByte x.cls.ctorIdx ++ number x.block ++ number x.offset ++ number x.syndrome
    ++ setByte x.client.ctorIdx

/-- The fields of an event report, in the order of the rule that raises it (R175). -/
def Report.fields : Report → List Byte
  | .refused _ _ fields => fields
  | .pageDone _ page lines => numberOpt (page.map Fin.val) ++ number lines
  | .ended _ kind outcome cause unterminated page lines bad =>
    setByteOpt (kind.map RouteKind.ctorIdx) ++ setByte outcome.ctorIdx
      ++ setByteOpt (cause.map Cause.ctorIdx) ++ flagByte unterminated
      ++ numberOpt (page.map Fin.val) ++ number lines ++ number bad
  | .overrun _ n => number n
  | .underrun _ n => number n
  | .badLines _ bad consecutive => number bad ++ number consecutive
  | .pageClosed _ truncated => flagByte truncated
  | .poolRebuilt free => number free
  | .poolCleared free => number free
  | .memory record => record.fields
  | .stretch slot index burn => number slot.val ++ number index ++ number burn
  | .moved _ steps cutShort => number steps ++ flagByte cutShort
  | .skip slot skipped => number slot.val ++ number skipped
  | .cutTimeout slot => numberOpt (slot.map Fin.val)
  | .cutStopped state => setByte state.ctorIdx
  | .levelRun first causes abandoned =>
    setByteOpt (first.map WakeCause.ctorIdx) ++ causeSet causes ++ flagByte abandoned
  | .sensor _ level => flagByte level
  | .boot warm reason rom kept discarded free ready =>
    setByte warm.toNat ++ setByteOpt (reason.map ColdReason.ctorIdx) ++ setByte rom.ctorIdx
      ++ number kept ++ number discarded ++ number free ++ number ready
  | .tableReady slot kind sum => number slot.val ++ setByte kind.ctorIdx ++ number sum
  | .tableCheck slot kind sum => number slot.val ++ setByte kind.ctorIdx ++ number sum
  | .tableForm slot kind sum test =>
    number slot.val ++ setByte kind.ctorIdx ++ number sum ++ number test
  | _ => []

/-- The body of a report's record (R175). -/
def Report.body (x : Report) (count : Nat) : List Byte :=
  match x with
  | .answer body => body
  | .mark value => le16 value.toNat
  | _ => setByte x.subject ++ setByte x.event ++ setByte count ++ x.fields

/-- A record: kind, length of the body, body (R175). -/
def recordBytes (kind : Nat) (length : Nat) (body : List Byte) : List Byte :=
  BitVec.ofNat 8 kind :: le16 length ++ body

/-- The record of a queue entry. -/
def QueueEntry.record (e : QueueEntry) : List Byte :=
  let body := e.report.body e.count
  recordBytes e.report.kindCode body.length body

/-! ## The Report Queue (R182) -/

/-- The key a report coalesces on; TABLE reports share that of REFUSED TABLE LOAD; ANSWER and MARK have
none. -/
def Report.key (x : Report) : Option (Nat × Nat) :=
  match x with
  | .answer _ | .mark _ => none
  | .tableReady .. | .tableCheck .. | .tableForm .. => some (0x81, OrderKind.tableLoad.code)
  | _ => some (x.kindCode, x.subject)

/-- A report merges with the entry of its key, keeping the entry's place, or joins the back.  A merged
entry stays withheld only if both were (R152). -/
def enqueue (x : Report) (withheld : Bool) : List QueueEntry → List QueueEntry
  | [] => [{ report := x, count := 1, withheld := withheld }]
  | e :: rest =>
    if x.key.isSome && e.report.key == x.key then
      { report := x, count := min (e.count + 1) 255, withheld := e.withheld && withheld } :: rest
    else e :: enqueue x withheld rest

/-- Error reports (R152). -/
def Report.isError : Report → Bool
  | .overrun .. | .badLines .. | .poolOut => true
  | .ended _ _ _ cause _ _ _ _ =>
    cause == some .carrier || cause == some .poolOut || cause == some .noPage
  | _ => false

/-- Reception reports (R152): ROUTE reports of the LINE-RECEIVE route's slot, PAGE reports OPENED and CLOSED, POOL LOW
and OK.  That the other PAGE reports are none of the pages that route opens and closes is a DESIGN CHOICE (log entry
69). -/
def State.isReception (s : State) (x : Report) : Bool :=
  match x with
  | .routeArmed r | .routeRunning r | .routeStalled r | .routeHalting r | .pageDone r _ _
  | .ended r _ _ _ _ _ _ _ | .overrun r _ | .underrun r _ | .badLines r _ _ =>
    (s.route r).isKind .lineReceive
  | .pageOpened _ | .pageClosed .. | .poolLow | .poolOk => true
  | _ => false

/-- The levels at which a report may be withheld (R152). -/
def State.dozing (s : State) : Bool :=
  s.power.level == some .enteringDoze || s.power.level == some .doze || s.power.level == some .dozeRx

/-- Puts a report into the queue with the withheld mark given. -/
def State.putReport (s : State) (x : Report) (withheld : Bool) : State :=
  { s with reports := enqueue x withheld s.reports }

/-- ATTN (R184). -/
def State.attn (s : State) : Bool :=
  s.reports.any (fun e => !e.withheld)
    && (s.boot.state == .ready) && s.power.level != some .retain

end Sys2Proof.Machine
end

