-- ==== Sys2Proof/Machine/Requests.lean ====
section
/-! DEFINITION. The directory write queue (R21) and the requests at the arbiter (R26, R27), as functions of
the state. -/

namespace Sys2Proof.Machine

/-! ## Directory write queue (R21) -/

/-- Producers are held: in DOZE entry from its drain on, at DOZE, in power-fail entry once every
route is IDLE, at RETAIN (R21, R147, R156), and while a geometry clear waits for the queue to empty (R167). -/
def State.producersHeld (s : State) : Bool :=
  (match s.power.level with
    | some .enteringDoze => s.power.step == .drain || s.power.step == .selfRefresh
    | some .doze | some .retain => true
    | some .enteringRetain =>
      match s.power.step with
      | .retainDrain => s.routesInUse.isEmpty
      | .retainHeader | .retainRequest => true
      | _ => false
    | _ => false)
  || s.boot.task == .geometryWait

/-- Places a producer may take. -/
def State.dirPlaces (s : State) : Nat :=
  if s.producersHeld then 0 else Config.dirCap - s.pool.dirQueue.length

/-- An image write of the entry waits and has not begun (R2). -/
def DirItem.isFreshImage (p : PageNo) : DirItem → Bool
  | .image q none _ => q == p
  | _ => false

/-- Places an image write of the entry needs (R2). -/
def State.imageNeed (s : State) (p : PageNo) : Nat :=
  if s.pool.dirQueue.any (DirItem.isFreshImage p) then 0 else 1

/-- Queues an image write of an entry, unless one waits unbegun (R2). -/
def State.queueImage (s : State) (p : PageNo) : State :=
  if s.imageNeed p = 0 then s
  else { s with pool := { s.pool with dirQueue := s.pool.dirQueue ++ [.image p none false] } }

/-- Queues a link map write. -/
def State.queueLink (s : State) (block : Nat) (value : Word) : State :=
  { s with pool := { s.pool with dirQueue := s.pool.dirQueue ++ [.link block value] } }

/-- The newest value waiting for a link word (R21). -/
def State.waitingLink (s : State) (block : Nat) : Option Word :=
  s.pool.dirQueue.foldl
    (fun found item => match item with
      | .link b v => if b = block then some v else found
      | .image .. => found) none

/-- A number names a data block (R23). -/
def State.isData (s : State) (b : Nat) : Bool :=
  decide (Config.systemBlocks ≤ b) && decide (b < s.store.geometry)

/-- The number of data blocks (R23). -/
def State.dataBlocks (s : State) : Nat := s.store.geometry - Config.systemBlocks

/-! ## Images, header and clears -/

/-- The first fifteen words of a directory image (R25).  An absent line count is written as 0 (DESIGN CHOICE, log entry
62). -/
def PageEntry.imageBody (e : PageEntry) : List Word :=
  [e.state.ctorIdx, e.origin.ctorIdx, e.pitch, e.codeSlot, e.head, e.tail, e.blockCount,
    e.bitLength, e.bitLength / 65536, e.lineCount.getD 0, e.lineCount.isSome.toNat, e.badLines,
    e.truncated.toNat + 2 * e.damaged.toNat, 0, 0].map (BitVec.ofNat 16)

/-- A directory image with its check word (R2, R25). -/
def PageEntry.image (e : PageEntry) : List Word :=
  e.imageBody ++ [BitVec.ofNat 16 (wordSum e.imageBody)]

/-- The four header words (R24). -/
def headerWords (geometry : Nat) (marker : Word) : List Word :=
  [Config.signature0, Config.signature1, BitVec.ofNat 16 geometry, marker]

/-- The word a clear writes at an address (R164). -/
def clearWord (geometry a : Nat) : Word :=
  if Config.linkBase + Config.systemBlocks ≤ a ∧ a < Config.linkBase + geometry then
    (if a + 1 = Config.linkBase + geometry then BitVec.ofNat 16 Config.endWord
     else BitVec.ofNat 16 (a - Config.linkBase + 1))
  else 0

/-- The burst of a clear at an address (R164, R167): the header first, block 0 else zero. -/
def clearBurst (geometry a : Nat) (withHeader : Bool) : List Word :=
  if a = 0 ∧ withHeader then headerWords geometry Config.markerLive
  else (List.range (if a % 8 = 4 then 4 else 8)).map fun i => clearWord geometry (a + i)

/-- The lowest unmarked data block from a block on (R163). -/
def nextFree (marks : List Nat) (geometry b : Nat) : Option Nat :=
  (List.range' b (geometry - b)).find? fun x => !marks.contains x

/-- The blocks of one sweep burst: a run of unmarked blocks, at most eight, within one link map block. -/
def sweepRun (marks : List Nat) (geometry b : Nat) : List Nat :=
  (List.range' b 8).takeWhile fun x =>
    decide (x < geometry) && !marks.contains x && decide (x / 512 = b / 512)

/-- The link word a sweep writes for a free block (R163). -/
def sweepWord (marks : List Nat) (geometry b : Nat) : Word :=
  match nextFree marks geometry (b + 1) with
  | some n => BitVec.ofNat 16 n
  | none => BitVec.ofNat 16 Config.endWord

/-! ## Clients -/

/-- The DAMAGED flag that an event of the route sets waits for its place, and the route holds its flow
(R21). -/
def State.heldByDamage (s : State) (r : RouteNo) : Bool :=
  s.pool.damage.any fun x => x.2 == some r

/-- A slot whose route moves data: live, and not held for its page's DAMAGED flag. -/
def State.flowing (s : State) (slot : Option RouteNo) : Bool :=
  match slot with
  | some r => (s.route r).live && !s.heldByDamage r
  | none => false

/-- The burst a reader asks for (R33, R56): k = min(8, w, u) words where its queue has room, or the link
word where w is 0. -/
def fetchBurst (reader : Reader) (f : Fetch) : Option BurstKind :=
  if !f.active || f.left = 0 then none
  else if f.offset = Config.blockWords then some (.fetchLink reader f.block)
  else
    let k := min 8 (min (Config.blockWords - f.offset) f.left)
    if f.queue.length + k ≤ Config.wordQueueCap then
      some (.fetchWords reader (f.block * Config.blockWords + f.offset) k)
    else none

/-- The page a writer's slot fills, where it is open. -/
def State.openPage (s : State) (slot : Option RouteNo) : Option PageEntry :=
  match slot with
  | some r => if (s.route r).live then (s.route r).page.map s.page else none
  | none => none

/-- The address of the next word of a writer's current block. -/
def writeAddr (e : PageEntry) (w : Writer) : Nat :=
  e.tail * Config.blockWords + (Config.blockWords - w.room)

/-- SCAN-STORE's burst (R48, R49). -/
def State.wantScan (s : State) : Option BurstKind :=
  match s.openPage s.coder.slot with
  | none => none
  | some e =>
    let held := s.coder.queue.length
    let k := if s.coder.state == .ending then min 8 (min s.coder.writer.room held)
      else min 8 s.coder.writer.room
    if 0 < k ∧ k ≤ held then some (.coderWrite (writeAddr e s.coder.writer) (s.coder.queue.take k))
    else none

/-- LINE-RX's burst (R137, R139). -/
def State.wantRx (s : State) : Option BurstKind :=
  match s.openPage s.line.slot with
  | none => none
  | some e =>
    let bytes := s.line.rxFifo.length
    let held := (bytes + 1) / 2
    let k := if s.line.rx == .flushing then min 8 (min s.line.writer.room held)
      else min 8 s.line.writer.room
    let n := min (2 * k) bytes
    if 0 < k ∧ (2 * k ≤ bytes ∨ s.line.rx = .flushing) then
      some (.lineWrite (writeAddr e s.line.writer) (wordsOfBytes (s.line.rxFifo.take n)) n)
    else none

/-- The HOST-IN queue is being written out: a final DATA order has been taken, or a halt stands (R68,
R74). -/
def State.hostFlushing (s : State) : Bool :=
  s.hostIn.finalPlaced ||
    (match s.hostIn.slot with
      | some r => (s.route r).halt == .finish
      | none => false)

/-- HOST-IN's burst (R68). -/
def State.wantHostIn (s : State) : Option BurstKind :=
  match s.openPage s.hostIn.slot with
  | none => none
  | some e =>
    let held := s.hostIn.queue.length
    let k := if s.hostIn.finalTaken || s.hostFlushing then min 8 (min s.hostIn.writer.room held)
      else min 8 s.hostIn.writer.room
    if 0 < k ∧ k ≤ held then some (.hostWrite (writeAddr e s.hostIn.writer) (s.hostIn.queue.take k))
    else none

def State.wantTx (s : State) : Option BurstKind :=
  if s.flowing s.line.slot then fetchBurst .line s.line.fetch else none
def State.wantPrint (s : State) : Option BurstKind :=
  if s.flowing s.printDec.slot then fetchBurst .print s.printDec.fetch else none
def State.wantHostOut (s : State) : Option BurstKind :=
  if s.flowing s.hostOut.slot then fetchBurst .host s.hostOut.fetch else none

/-- PRINT-FETCH is urgent while the ready count is at or below the stutter watermark in force (R27, R145). -/
def State.printUrgent (s : State) : Bool := decide (s.head.ready.length ≤ s.power.watermark)

/-- An urgent request waits (R27). -/
def State.urgentWaits (s : State) : Bool :=
  s.wantRx.isSome || s.wantTx.isSome || (s.wantPrint.isSome && s.printUrgent)

/-- The level is ENTERING-RETAIN or RETAIN (R155, R156). -/
def State.retaining (s : State) : Bool :=
  s.power.level == some .enteringRetain || s.power.level == some .retain

/-- The pool refills its spare queue (R13): IN-SERVICE, released, not in power-fail entry (R155), and not
while the page store is in SELF-REFRESH, whether or not the refill needs a read. -/
def State.refilling (s : State) : Bool :=
  s.pool.state == .inService && decide (s.pool.spare.length < Config.spareCap)
    && decide (0 < s.pool.freeCount) && s.boot.state == .ready && !s.retaining
    && s.store.state != .selfRefresh

/-- The burst of the directory write queue's oldest item (R21). -/
def State.dirBurst (s : State) : Option BurstKind :=
  match s.pool.dirQueue with
  | [] => none
  | .link b v :: _ => some (.dirLink b v)
  | .image p words half :: _ =>
    let all := words.getD (s.page p).image
    some (.dirImage p half (if half then all.drop 8 else all.take 8))

/-- The burst of a refill that needs a read (R13). -/
def State.refillBurst (s : State) : Option BurstKind :=
  match s.pool.freeHead with
  | some h => if s.refilling && (s.waitingLink h).isNone then some (.refill h) else none
  | none => none

/-- The burst of a rebuild walk (R19), held in power-fail entry (R155). -/
def State.walkBurst (s : State) : Option BurstKind :=
  match s.pool.rebuild with
  | some { at_ := .walking _ block left, .. } =>
    if 1 < left ∧ s.retaining = false ∧ (s.waitingLink block).isNone then
      some (.walk block)
    else none
  | _ => none

/-- The burst of the Boot Controller or of Power Control (R24, R161 to R167). -/
def State.bootBurst (s : State) : Option BurstKind :=
  match s.boot.task with
  | .readHeader => some .bootHeader
  | .readImage page first _ => some (.bootImage page first.isSome)
  | .walk _ _ block _ _ => some (.bootLink block)
  | .zeroImage (p :: _) half =>
    some (.bootWrite (Config.imageBase + 16 * p + (if half then 8 else 0)) (List.replicate 8 0))
  | .sweep next =>
    let run := sweepRun s.boot.marks s.store.geometry next
    some (.bootWrite (Config.linkBase + next)
      (run.map (sweepWord s.boot.marks s.store.geometry)))
  | .clear a => some (.bootWrite a (clearBurst s.store.geometry a true))
  | .geometryClear a => some (.bootWrite a (clearBurst s.store.geometry a false))
  | .geometryHeader =>
    some (.header .geometryClear (headerWords s.store.geometry Config.markerLive))
  | .releaseHeader | .failLive =>
    some (.header .release (headerWords s.store.geometry Config.markerLive))
  | .failClean => some (.header .failSafe (headerWords s.store.geometry Config.markerClean))
  | _ =>
    if s.power.level == some .enteringRetain && s.power.step == .retainHeader then
      some (.header .power (headerWords s.store.geometry Config.markerClean))
    else none

/-- The sources DIRECTORY holds under its one request (R26). -/
def State.dirSources (s : State) : List BurstKind :=
  [s.dirBurst, s.refillBurst, s.walkBurst, s.bootBurst].filterMap id

/-- A request of any client, refresh left out (R153). -/
def State.requestWaits (s : State) : Bool :=
  s.wantRx.isSome || s.wantTx.isSome || s.wantPrint.isSome || !s.dirSources.isEmpty
    || s.wantScan.isSome || s.wantHostIn.isSome || s.wantHostOut.isSome || s.store.scrubWaiting

/-! ## The choice of the arbiter (R26) -/

/-- The clients' bursts in the order of priority, for ON.  DIRECTORY's source is `dir`. -/
def State.onOrder (s : State) (dir : Option BurstKind) : Option BurstKind :=
  (if 7 ≤ s.store.backlog then some (.refreshRow false) else none)
    <|> s.wantRx <|> s.wantTx <|> s.wantPrint <|> dir <|> s.wantScan <|> s.wantHostIn
    <|> s.wantHostOut
    <|> (if 1 ≤ s.store.backlog then some (.refreshRow false) else none)
    <|> (if s.store.scrubWaiting then some .scrub else none)

/-- ENTERING grants urgent requests and refresh; the final row is R38's.  Under a retain request nothing
but the final row is granted (R41). -/
def State.enteringOrder (s : State) : Option BurstKind :=
  if s.store.request == .retain || !s.urgentWaits then none
  else
    (if 7 ≤ s.store.backlog then some (.refreshRow false) else none)
      <|> s.wantRx <|> s.wantTx <|> (if s.printUrgent then s.wantPrint else none)

/-- A request above DIRECTORY waits. -/
def State.aboveDirectory (s : State) : Bool :=
  decide (7 ≤ s.store.backlog) || s.wantRx.isSome || s.wantTx.isSome || s.wantPrint.isSome

/-- The highest-priority grantable request (R26, R37); several DIRECTORY sources are served in either
order, by a free choice. -/
def State.nextBurst (s : State) : Option BurstKind × State :=
  match s.store.state with
  | .init => (if 0 < s.store.initLeft then some .initRow else none, s)
  | .on =>
    if s.aboveDirectory then (s.onOrder none, s)
    else
      let (i, t) := s.choose s.dirSources.length
      (s.onOrder s.dirSources[i]?, t)
  | .entering => (s.enteringOrder, s)
  | .selfRefresh | .waking => (none, s)

/-- The words a burst covers: its first address and how many. -/
def BurstKind.span (scrubPos : Nat) : BurstKind → Nat × Nat
  | .initRow | .refreshRow _ => (0, 0)
  | .scrub => (scrubPos, 8)
  | .dirLink b _ => (Config.linkBase + b, 1)
  | .dirImage p half ws => (Config.imageBase + 16 * p.val + (if half then 8 else 0), ws.length)
  | .refill b | .walk b | .bootLink b => (Config.linkBase + b, 1)
  | .header _ ws => (0, ws.length)
  | .bootHeader => (0, 4)
  | .bootImage p half => (Config.imageBase + 16 * p + (if half then 8 else 0), 8)
  | .bootWrite a ws | .coderWrite a ws | .lineWrite a ws _ | .hostWrite a ws => (a, ws.length)
  | .fetchWords _ a n => (a, n)
  | .fetchLink _ b => (Config.linkBase + b, 1)

/-- Every word of the burst lies in the store (R23). -/
def State.inStore (s : State) (b : BurstKind) : Bool :=
  let (a, n) := b.span s.store.scrubPos
  decide (n = 0 ∨ a + n ≤ s.store.geometry * Config.blockWords)

/-- The slot of a reader's route. -/
def State.readerSlot (s : State) : Reader → Option RouteNo
  | .print => s.printDec.slot
  | .line => s.line.slot
  | .host => s.hostOut.slot

/-- The page of a reader's route. -/
def State.readerPage (s : State) (x : Reader) : Option PageNo :=
  match s.readerSlot x with
  | some r => (s.route r).page
  | none => none

/-- The page a reader's burst reads (R7, R34). -/
def State.burstPage (s : State) : BurstKind → Option PageNo
  | .fetchWords x _ _ | .fetchLink x _ => s.readerPage x
  | _ => none

/-- What the grant of a burst changes at once: the backlog falls (R28), the image is composed (R2), the
scrub request is granted (R35). -/
def State.granted (s : State) (b : BurstKind) : State :=
  let s := { s with store :=
    { s.store with burst := some { kind := b, orphan := false, page := s.burstPage b } } }
  match b with
  | .refreshRow _ => { s with store := { s.store with backlog := s.store.backlog - 1 } }
  | .scrub => { s with store := { s.store with scrubWaiting := false } }
  | .dirImage p false _ =>
    match s.pool.dirQueue with
    | .image q none half :: rest =>
      if q = p then
        { s with pool := { s.pool with dirQueue := .image q (some (s.page p).image) half :: rest } }
      else s
    | _ => s
  | _ => s

/-- The next grant, with no burst in progress (R26): the state with it, or none where the burst lies
outside the store. -/
def State.grantNext (s : State) : Option State :=
  if s.store.burst.isSome then some s
  else
    match s.nextBurst with
    | (some b, t) => if t.inStore b then some (t.granted b) else none
    | (none, _) => some s

end Sys2Proof.Machine
end

