-- ==== Sys2Proof/Machine/Power.lean ====
section
/-! DEFINITION. Power Control's requests, wakes and reports (R38 to R41, R105, R145 to R152), and the queuing
of a report, which may wake the part. -/

namespace Sys2Proof.Machine

/-! ## Head supply and holds (R105, R126) -/

/-- The supply is turned on, with COVER closed (R105). -/
def State.supplyOn (s : State) : State :=
  if s.pins.coverOpen || s.head.supply != .off then s
  else if s.setup.settle = 0 then
    { s with head := { s.head with supply := .settled, settleTimer := none } }
  else
    { s with head :=
      { s.head with supply := .settling, settleTimer := some (s.now + 1000 * s.setup.settle) } }

/-- The supply is turned off (R105): a strobe being driven is released at once (R109). -/
def State.supplyOff (s : State) : State :=
  { s with head := { s.head with supply := .off, settleTimer := none, burn := none, cutOff := [] } }

/-- The turn-off of a motor's drive (R126). -/
def Motor.driveOff (m : Motor) : Motor := { m with hold := .off, holdTimer := none }

def State.holdsOff (s : State) : State := { s with pf := s.pf.driveOff, sf := s.sf.driveOff }

/-! ## Requests to the Page Store Controller (R38 to R41) -/

/-- The controller exits self-refresh (R39, R40). -/
def State.startExit (s : State) : State :=
  { s with store :=
    { s.store with state := .waking, request := .none, wakeTimer := some (s.now + Config.wakingTime) } }

/-- A refresh row in progress is no longer the final row of an entry (R38). -/
def Burst.notFinal (b : Burst) : Burst :=
  match b.kind with
  | .refreshRow _ => { b with kind := .refreshRow false }
  | _ => b

/-- The request is withdrawn: ENTERING returns to ON, and a final row in progress ends no later entry (R38);
SELF-REFRESH exits (R39).  A retain request is withdrawn by the boot alone, in SELF-REFRESH (R41, R158). -/
def State.storeWithdraw (s : State) : State :=
  match s.store.state with
  | .entering =>
    { s with store :=
      { s.store with state := .on, request := .none, burst := s.store.burst.map Burst.notFinal } }
  | .selfRefresh => s.startExit
  | _ => { s with store := { s.store with request := .none } }

/-- Power Control withdraws its ordinary request, where one stands at the controller (R145).  One the
controller has consumed needs no withdrawal (R149, R154).  Power Control's own item returns to NONE as the
controller is ON: at once on the return from ENTERING, and else at the end of WAKING (R154). -/
def State.withdrawOrdinary (s : State) : State :=
  if s.power.request = .ordinary ∧ s.store.request = .ordinary then
    let s := s.storeWithdraw
    if s.store.state = .on then { s with power := { s.power with request := .none } } else s
  else s

/-- Clocks that DOZE or DOZE-RX stopped are all restarted; the converter resumes with θ, 1 ms later
(R104). -/
def State.converterOn (s : State) : State :=
  if s.power.asleep then
    { s with
      power := { s.power with asleep := false }
      head := { s.head with thetaNext := true, sampleTimer := some (s.now + Config.sampleTime) } }
  else s

/-! ## Wakes (R148, R149) -/

/-- An entry with its withheld mark cleared. -/
def QueueEntry.shown (e : QueueEntry) : QueueEntry := { e with withheld := false }

/-- Every withheld mark is cleared (R152). -/
def State.clearWithheld (s : State) : State := { s with reports := s.reports.map QueueEntry.shown }

/-- The level becomes RUN at the end of a full wake (R149). -/
def State.completeRun (s : State) : State :=
  let supply := s.power.drivesOff
  let report : Report := .levelRun s.power.wakeFirst s.power.wakeSet s.power.abandoned
  let s := { s with power :=
    { s.power with level := some .run, step := .none, drivesOff := false, abandoned := false } }
  let s := if supply then s.supplyOn else s
  s.clearWithheld.converterOn.putReport report false

/-- A full wake (R149): the level becomes WAKING, and RUN at once where the controller is ON. -/
def State.fullWake (s : State) : State :=
  let abandons := s.power.level == some .enteringDoze
  let s := { s with power :=
    { s.power with level := some .waking, step := .none, abandoned := abandons } }
  let s := s.withdrawOrdinary
  if s.store.state = .on then s.completeRun else s

/-- A cause joins the wake record (R148). -/
def Power.record (p : Power) (c : WakeCause) : Power :=
  { p with
    wakeFirst := p.wakeFirst <|> some c
    wakeSet := if p.wakeSet.contains c then p.wakeSet else p.wakeSet ++ [c] }

/-- A wake cause other than LINE is taken (R148). -/
def State.takeWake (s : State) (c : WakeCause) : State :=
  match s.power.level with
  | some .run | some .waking => { s with power := s.power.record c }
  | some .enteringDoze | some .doze | some .dozeRx =>
    { s with power := s.power.record c }.fullWake
  | _ => s

/-! ## Queuing a report (R152, R182) -/

/-- A report is queued, withheld or not, and may wake the part, by the table of R152.  An error report at WAKING is no
wake cause and is not recorded (DESIGN CHOICE, log entry 68). -/
def State.queueReport (s : State) (x : Report) : State :=
  if !s.dozing then s.putReport x false
  else if x.isError then
    if s.power.quietErrors then s.putReport x true
    else (s.putReport x false).takeWake .error
  else s.putReport x (s.power.quietReceive && s.isReception x)

/-! ## Entry into DOZE (R147) -/

/-- Power Control places a request with the controller (R38, R40). -/
def State.placeRequest (s : State) : State :=
  let s := { s with power := { s.power with request := .ordinary } }
  match s.store.state with
  | .on => { s with store := { s.store with state := .entering, request := .ordinary } }
  | .waking => { s with store := { s.store with request := .ordinary } }
  | _ => s

/-- The controller enters SELF-REFRESH (R38, R41) and tells Power Control, which moves to DOZE (R147) or
RETAIN (R156). -/
def State.enterSelfRefresh (s : State) : State :=
  let s := { s with store :=
    { s.store with
      state := .selfRefresh, backlog := 0, refreshTimer := none, scrubTimer := none } }
  match s.power.level with
  | some .enteringDoze =>
    { s with
      power := { s.power with level := some .doze, step := .none, asleep := true }
      head := { s.head with sampleTimer := none } }
  | some .enteringRetain =>
    { s with
      power := { s.power with level := some .retain, step := .none }
      head := { s.head with sampleTimer := none } }
  | _ => s

/-- With no burst in progress in ENTERING and no urgent request, the final refresh row is granted, or
SELF-REFRESH is entered where the backlog is 0 (R38). -/
def State.entryAdvance (s : State) : State :=
  if s.store.state = .entering ∧ s.store.burst.isNone
      ∧ (s.store.request = .retain ∨ s.urgentWaits = false) then
    if 0 < s.store.backlog then s.granted (.refreshRow true) else s.enterSelfRefresh
  else s

/-- The entry of R147 begins: step 1, and step 2 where the queue is empty already. -/
def State.beginDoze (s : State) : State :=
  let s := (s.supplyOff.holdsOff)
  let s := { s with power :=
    { s.power with level := some .enteringDoze, drivesOff := true, step := .drain } }
  if s.pool.dirQueue.isEmpty then
    ({ s with power := { s.power with step := .selfRefresh } }.placeRequest).entryAdvance
  else s

end Sys2Proof.Machine
end

