-- ==== Sys2Proof/Machine/Pool.lean ====
section
/-! DEFINITION. Pages and the Block Pool: availability, allocation, opening, closing, freeing, stranding and the
rebuild (chapter 1). -/

namespace Sys2Proof.Machine

/-! ## Availability (R15 to R17) -/

/-- Unreserved availability (R15). -/
def State.available (s : State) : Nat := s.pool.freeCount + s.pool.spare.length - s.remainders

/-- A route goes to a state and queues the report of it (R61). -/
def State.routeTo (s : State) (r : RouteNo) (x : RouteState) : State :=
  let t := s.setRoute r { s.route r with state := x }
  match x with
  | .armed => t.queueReport (.routeArmed r)
  | .running => t.queueReport (.routeRunning r)
  | .stalled => t.queueReport (.routeStalled r)
  | .halting => t.queueReport (.routeHalting r)
  | .idle => t

/-- A starved writer asks again, and its route returns from STALLED to RUNNING (R16, R67). -/
def State.unstarve (s : State) (slot : Option RouteNo) (starved : Bool) : State :=
  match slot with
  | some r => if starved && (s.route r).state == .stalled then s.routeTo r .running else s
  | none => s

/-- What follows a change of availability from `before` (R16, R17).  LOW is queued where the alert was NONE
alone (DESIGN CHOICE, log entry 41).  Where a SETUP has moved the low mark past the availability, a fall that begins
already below a raised mark gives no LOW, and a rise that begins already above a lowered one gives OK (DESIGN CHOICE,
log entry 77). -/
def State.availChange (s : State) (before : Nat) : State :=
  let now := s.available
  let s :=
    if now < before ∧ s.setup.lowMark ≤ before ∧ now < s.setup.lowMark ∧ s.pool.alert = .none then
      { s with pool := { s.pool with alert := .low } }.queueReport .poolLow
    else if before < now ∧ s.setup.lowMark < now ∧ s.pool.alert ≠ .none then
      { s with pool := { s.pool with alert := .none } }.queueReport .poolOk
    else s
  if before = 0 ∧ 0 < now then
    let s := s.unstarve s.coder.slot s.coder.writer.starved
    let s := s.unstarve s.hostIn.slot s.hostIn.writer.starved
    { s with
      coder := { s.coder with writer := { s.coder.writer with starved := false } }
      hostIn := { s.hostIn with writer := { s.hostIn.writer with starved := false } } }
  else s

/-! ## Allocation (R14) -/

/-- The answer to a writer that asks for a block. -/
inductive Ask where
  | give | wait | cannot
deriving DecidableEq, Repr

/-- The table of R14. -/
def State.askBlock (s : State) (r : RouteNo) : Ask :=
  if s.pool.state ≠ .inService then .wait
  else if 0 < (s.route r).remainder ∨ 0 < s.available then
    if s.pool.spare.isEmpty then .wait else .give
  else .cannot

/-- The oldest spare block is taken for a route, against its remainder (R14, R15). -/
def State.takeSpare (s : State) (r : RouteNo) : State :=
  { s with pool := { s.pool with spare := s.pool.spare.tail } }.setRoute r
    { s.route r with remainder := (s.route r).remainder - 1 }

/-- A writer's page takes the oldest spare block (R4, R12, R14). -/
def State.extendPage (s : State) (r : RouteNo) (p : PageNo) : State :=
  let before := s.available
  let b := s.pool.spare.headD 0
  let e := s.page p
  let s := s.takeSpare r
  let s := (s.queueLink e.tail (BitVec.ofNat 16 b)).queueLink b (BitVec.ofNat 16 Config.endWord)
  let s := (s.setPage p { e with tail := b, blockCount := e.blockCount + 1 }).queueImage p
  s.availChange before

/-- Opening a page (R3): the entry `p` with the oldest spare block, for the route's writer. -/
def State.openEntry (s : State) (r : RouteNo) (p : PageNo) (origin : Origin) : State :=
  let before := s.available
  let b := s.pool.spare.headD 0
  let x := s.route r
  let code := match x.code with
    | some t => t.val
    | none => x.namedCode
  let s := s.takeSpare r
  let s := s.setPage p
    { PageEntry.freeEntry with
      state := .opened, origin := origin, pitch := x.pitch, codeSlot := code, head := b, tail := b
      blockCount := 1, lineCount := if origin = .host then none else some 0, owner := some r }
  let s := (s.queueLink b (BitVec.ofNat 16 Config.endWord)).queueImage p
  let s := s.setRoute r { s.route r with page := some p, lastCounts := none }
  (s.queueReport (.pageOpened p)).availChange before

/-! ## Closing (R5, R6) -/

/-- The route's OPEN page closes (R5, R6). -/
def State.closePage (s : State) (r : RouteNo) (p : PageNo) (c : PageClose) : State :=
  let e := s.page p
  let s := s.setPage p
    { e with
      state := .closed, bitLength := c.bitLength, lineCount := c.lineCount, badLines := c.badLines
      truncated := e.truncated || c.truncated, owner := none }
  let s := s.queueImage p
  let s := s.setRoute r { s.route r with page := none, lastPage := some p }
  s.queueReport (.pageClosed p c.truncated)

/-! ## DAMAGED (R7) -/

/-- The flag is set, with its image write and report. -/
def State.setDamaged (s : State) (p : PageNo) : State :=
  ((s.setPage p { s.page p with damaged := true }).queueImage p).queueReport (.pageDamaged p)

/-- A page is to be flagged DAMAGED by an event of a route, or of a route that has ended (R7); without a place
for the image write the flag waits (R21). -/
def State.flagDamaged (s : State) (p : PageNo) (r : Option RouteNo) : State :=
  let e := s.page p
  if (e.state = .closed ∨ e.state = .dropping) ∧ e.damaged = false ∧ (p, r) ∉ s.pool.damage then
    if s.imageNeed p ≤ s.dirPlaces then s.setDamaged p
    else { s with pool := { s.pool with damage := s.pool.damage ++ [(p, r)] } }
  else s

/-- No flag of a page waits any longer. -/
def State.clearDamage (s : State) (p : PageNo) : State :=
  { s with pool := { s.pool with damage := s.pool.damage.filter fun x => x.1 != p } }

/-- A waiting DAMAGED flag is set where its place is free (R21). -/
def State.damageTurn (s : State) (x : PageNo × Option RouteNo) : State :=
  if x ∈ s.pool.damage ∧ s.imageNeed x.1 ≤ s.dirPlaces then (s.clearDamage x.1).flagDamaged x.1 x.2
  else s

/-- Waiting DAMAGED flags are set as places come free, oldest first (R21). -/
def State.damagePass (s : State) : State := s.pool.damage.foldl State.damageTurn s

/-! ## Freeing (R11, R12, R20) -/

/-- A link map write is needed to splice a chain (R12). -/
def State.spliceNeed (s : State) : Nat :=
  if s.pool.state = .inService ∧ 0 < s.pool.freeCount then 1 else 0

/-- Places a freeing needs (R11). -/
def State.freeNeed (s : State) (p : PageNo) : Nat := s.spliceNeed + s.imageNeed p

/-- The chain has been walked by the rebuild, or is being walked (R20). -/
def Rebuild.walked (b : Rebuild) (p : PageNo) : Bool :=
  match b.at_ with
  | .entry k => decide (p.val < k)
  | .walking k _ _ => decide (p.val ≤ k)
  | .sweeping .. => true

/-- A chain joins the free list (R12), or the stranded count while REBUILDING (R20). -/
def State.splice (s : State) (p : PageNo) (c : Chain) : State :=
  if s.pool.state ≠ .inService then
    let rebuild := s.pool.rebuild.map fun b =>
      if b.walked p then Rebuild.mk b.at_ b.marks (b.joined ++ [c]) else b
    { s with pool := { s.pool with stranded := s.pool.stranded + c.count, rebuild := rebuild } }
  else
    let s := match s.pool.freeTail with
      | some t => if 0 < s.spliceNeed then s.queueLink t (BitVec.ofNat 16 c.head) else s
      | none => s
    { s with pool :=
      { s.pool with
        freeHead := s.pool.freeHead <|> some c.head, freeTail := some c.tail
        freeCount := s.pool.freeCount + c.count } }

/-- A burst in progress reads the page no longer: it has been freed. -/
def Burst.forget (p : PageNo) (b : Burst) : Burst :=
  { b with page := if b.page = some p then none else b.page }

/-- A page is freed (R11). -/
def State.freePage (s : State) (p : PageNo) : State :=
  let before := s.available
  let e := s.page p
  let s := (s.splice p { head := e.head, tail := e.tail, count := e.blockCount }).clearDamage p
  let s := { s with store := { s.store with burst := s.store.burst.map (Burst.forget p) } }
  let s := (s.setPage p PageEntry.freeEntry).queueImage p
  (s.queueReport (.pageFreed p)).availChange before

/-- A page with readers is dropped (R9, R10). -/
def State.dropPage (s : State) (p : PageNo) : State :=
  ((s.setPage p { s.page p with state := .dropping }).queueImage p).queueReport (.pageDropping p)

/-! ## Stranding and refills (R13, R18) -/

/-- The remainders clamped in slot order to `total` (R18). -/
def clampRemainders (total : Nat) : List Route → List Route
  | [] => []
  | x :: xs =>
    let y := { x with remainder := min x.remainder total }
    y :: clampRemainders (total - y.remainder) xs

/-- The free list is stranded (R18). -/
def State.strand (s : State) : State :=
  let before := s.available
  let s := { s with pool :=
    { s.pool with
      stranded := s.pool.stranded + s.pool.freeCount, freeCount := 0, freeHead := none
      freeTail := none } }
  let clamped := clampRemainders s.pool.spare.length s.routes.toList
  let s := { s with routes := s.routes.mapIdx fun i x => clamped.getD i x }
  (s.queueReport .poolStranded).availChange before

/-- A refill's link word arrives, readable or not (R13). -/
def State.refill (s : State) (link : Option Word) : State :=
  let left := s.pool.freeCount - 1
  let good := match link with
    | some w => left = 0 || s.isData w.toNat
    | none => false
  if good then
    let next := if left = 0 then none else link.map BitVec.toNat
    { s with pool :=
      { s.pool with
        spare := s.pool.spare ++ s.pool.freeHead.toList, freeCount := left, freeHead := next
        freeTail := if left = 0 then none else s.pool.freeTail } }
  else s.strand

/-- Refills whose link word waits in the directory write queue, done without a read (R13). -/
def State.refillPass : Nat → State → State
  | 0, s => s
  | n + 1, s =>
    match s.pool.freeHead with
    | some h =>
      match s.waitingLink h with
      | some w => if s.refilling then State.refillPass n (s.refill (some w)) else s
      | none => s
    | none => s

/-! ## The rebuild (R19, R20) -/

def State.setRebuild (s : State) (b : Rebuild) : State :=
  { s with pool := { s.pool with rebuild := some b } }

/-- CLEAR POOL accepted (R19).  A LOW that R17 gives for the fall of availability follows REBUILDING (DEDUCED, log
entry 78). -/
def State.startRebuild (s : State) : State :=
  let before := s.available
  let p := s.pool
  let s := { s with pool :=
    { p with
      state := .rebuilding, stranded := p.stranded + p.freeCount + p.spare.length, freeCount := 0
      freeHead := none, freeTail := none, spare := []
      rebuild := some { at_ := .entry 0, marks := [], joined := [] } } }
  (s.queueReport .poolRebuilding).availChange before

/-- The rebuild is abandoned (R20). -/
def State.abandonRebuild (s : State) : State :=
  let before := s.available
  let s := { s with pool := { s.pool with state := .inService, rebuild := none } }
  (s.queueReport .poolStranded).availChange before

/-- The rebuild ends with its new free list (R19). -/
def State.endRebuild (s : State) (first last : Option Nat) (count : Nat) : State :=
  let before := s.available
  let s := { s with pool :=
    { s.pool with
      state := .inService, rebuild := none, stranded := 0, freeHead := first, freeTail := last
      freeCount := count } }
  (s.queueReport (.poolRebuilt count)).availChange before

/-- The walk of entry `p` reaches a block with `left` blocks from it on (R19, R20). -/
def State.walkTo (s : State) (b : Rebuild) (p block left : Nat) : State :=
  if b.marks.contains block then s.abandonRebuild
  else
    s.setRebuild
      { b with
        marks := b.marks ++ [block]
        at_ := if left ≤ 1 then .entry (p + 1) else .walking p block left }

/-- The link word of a walk arrives (R19, R20); in power-fail entry the rebuild stands still (R155). -/
def State.walkLink (s : State) (link : Option Word) : State :=
  match s.pool.rebuild with
  | some b =>
    if s.retaining then s else
    match b.at_, link with
    | .walking p _ left, some w =>
      if s.isData w.toNat then s.walkTo b p w.toNat (left - 1) else s.abandonRebuild
    | .walking .., none => s.abandonRebuild
    | _, _ => s
  | none => s

/-- One move of the rebuild that needs no read: none where it must wait, and in power-fail entry, where the
pool stays REBUILDING until the reset (R155). -/
def State.rebuildMove (s : State) (b : Rebuild) : Option State :=
  if s.retaining then none else
  match b.at_ with
  | .entry k =>
    match asFin 32 k with
    | some p =>
      let e := s.page p
      if e.state = .free then some (s.setRebuild { b with at_ := .entry (k + 1) })
      else some (s.walkTo b k e.head e.blockCount)
    | none => some (s.setRebuild { b with at_ := .sweeping Config.systemBlocks none none 0 })
  | .walking _ block _ => (s.waitingLink block).map fun w => s.walkLink (some w)
  | .sweeping next first last count =>
    match nextFree b.marks s.store.geometry next with
    | some n =>
      let b' : Rebuild := { b with at_ := .sweeping (n + 1) (first <|> some n) (some n) (count + 1) }
      match last with
      | none => some (s.setRebuild b')
      | some l =>
        if 0 < s.dirPlaces then some ((s.queueLink l (BitVec.ofNat 16 n)).setRebuild b') else none
    | none =>
      if next ≤ s.store.geometry then
        let b' : Rebuild := { b with at_ := .sweeping (s.store.geometry + 1) first last count }
        match last with
        | none => some (s.setRebuild b')
        | some l =>
          if 0 < s.dirPlaces then
            some ((s.queueLink l (BitVec.ofNat 16 Config.endWord)).setRebuild b')
          else none
      else
        match b.joined with
        | [] => some (s.endRebuild first last count)
        | c :: cs =>
          let b' : Rebuild :=
            { b with
              joined := cs
              at_ := .sweeping next (first <|> some c.head) (some c.tail) (count + c.count) }
          match last with
          | none => some (s.setRebuild b')
          | some l =>
            if 0 < s.dirPlaces then some ((s.queueLink l (BitVec.ofNat 16 c.head)).setRebuild b')
            else none

/-- The rebuild goes on until it waits for a read or for a place (R19). -/
def State.rebuildPass : Nat → State → State
  | 0, s => s
  | n + 1, s =>
    match s.pool.rebuild with
    | some b =>
      match s.rebuildMove b with
      | some t => State.rebuildPass n t
      | none => s
    | none => s

end Sys2Proof.Machine
end

