-- ==== Sys2Proof/Machine/Tables.lean ====
section
/-! DEFINITION. The four table kinds: their fields (R169), their form tests (R172), loading (R171), binding
(R173). -/

namespace Sys2Proof.Machine

/-! ## Fields (R169) -/

/-- A code or sync item at an offset: its bits, the first bit first. -/
def tableItem (data : List Byte) (at_ : Nat) : Bits :=
  let n := (data.getD at_ 0).toNat
  bitsOfNat n (field16 data (at_ + 1) % 2 ^ n)

/-- Place in the list of a code: colour and run value (R43, R169). -/
def codeIndex (black chunk : Bool) (value : Nat) : Nat :=
  (if black then 91 else 0) + (if chunk then 63 + value / 64 else value)

/-- The code of a run value (R43). -/
def codeBits (data : List Byte) (black chunk : Bool) (value : Nat) : Bits :=
  tableItem data (3 * codeIndex black chunk value)

/-- Run value and chunk mark of the i-th code of a colour in table order (R43). -/
def codeValue (i : Nat) : Nat × Bool := if i < 64 then (i, false) else (64 * (i - 63), true)

/-- The sync pattern and the end-count E (R43). -/
def syncBits (data : List Byte) : Bits := tableItem data 546
def endCount (data : List Byte) : Nat := (data.getD 549 0).toNat

/-- The values of a HEAT table (R169). -/
structure Heat where
  base : List Nat
  factor : List Nat
  budget : Nat
  history : Nat
  wmin : Nat
  wmax : Nat
  gap : Nat
  load : Nat
  stop : Nat
deriving DecidableEq, Repr

def heatOf (data : List Byte) : Heat :=
  { base := (List.range 16).map fun i => field16 data (2 * i)
    factor := (List.range 16).map fun i => (data.getD (32 + i) 0).toNat
    budget := field16 data 48
    history := (data.getD 50 0).toNat
    wmin := field16 data 51
    wmax := field16 data 53
    gap := (data.getD 55 0).toNat
    load := field16 data 56
    stop := (data.getD 58 0).toNat }

/-- The values of a RAMP table (R113, R169). -/
def rampOf (data : List Byte) : Ramp :=
  { z := (data.getD 1 0).toNat
    spl := (List.range 3).map fun i => (data.getD (2 + i) 0).toNat
    hold := (data.getD 5 0).toNat
    periods := (List.range (data.getD 0 0).toNat).map fun i => field16 data (6 + 2 * i) }

/-- The thresholds and integration time of a SHADE table (R169). -/
def shadeThreshold (data : List Byte) (segment : Nat) : Nat := (data.getD segment 0).toNat
def shadeTint (data : List Byte) : Nat := field16 data 27

/-- Storage of a bound slot. -/
def State.storage (s : State) (t : Option TableNo) : List Byte :=
  match t with
  | some t => (s.table t).storage
  | none => []

/-! ## Form tests (R172) -/

/-- The tests of a kind in order: whether each holds. -/
def formTests (kind : TableKind) (d : List Byte) : List Bool :=
  match kind with
  | .code =>
    let lens := (List.range 182).map fun i => (d.getD (3 * i) 0).toNat
    let sync := (d.getD 546 0).toNat
    [d.length == 550, lens.all fun n => decide (1 ≤ n) && decide (n ≤ 16),
      decide (12 ≤ sync) && decide (sync ≤ 16),
      decide (2 ≤ endCount d) && decide (endCount d ≤ 8)]
  | .heat =>
    let h := heatOf d
    [d.length == 59, h.base.all fun x => decide (x ≤ 4000),
      decide (32 ≤ h.budget) && decide (h.budget ≤ 1728),
      decide (h.wmin ≤ 8000) && decide (h.wmax ≤ 8000), decide (h.wmin ≤ h.wmax),
      decide (h.load ≤ 2000), decide (1 ≤ h.stop) && decide (h.stop ≤ 16)]
  | .ramp =>
    let r := rampOf d
    let n := (d.getD 0 0).toNat
    [decide (6 ≤ d.length), decide (2 ≤ n) && decide (n ≤ 128), d.length == 6 + 2 * n,
      decide (r.z < n), r.spl.all fun x => decide (1 ≤ x) && decide (x ≤ 16),
      r.periods.all fun x => decide (100 ≤ x),
      (r.periods.zip (r.periods.drop 1)).all fun (a, b) => decide (b ≤ a)]
  | .shade => [d.length == 29]

/-- The first form test that fails, numbered from 0 (log entry 9). -/
def firstFailure (kind : TableKind) (d : List Byte) : Option Nat :=
  (formTests kind d).findIdx? (fun ok => !ok)

/-! ## Loading (R170, R171) -/

/-- The slot of an accepted TABLE LOAD (R170). -/
def TableSlot.startLoad (x : TableSlot) (kind : TableKind) : TableSlot :=
  { x with
    kind := some kind, state := .loading, length := 0, check := 0, storage := [], failure := none }

/-- The outcome of an ended load (R171). -/
def loadFailure (kind : TableKind) (d : List Byte) (check : Nat) : Option LoadFailure :=
  if byteSum d ≠ check then some .check
  else (firstFailure kind d).map LoadFailure.form

/-- The slot at the end of its load (R171). -/
def TableSlot.endLoad (x : TableSlot) (kind : TableKind) (check : Nat) : TableSlot :=
  let failure := loadFailure kind x.storage check
  { x with
    length := x.storage.length, check := check, failure := failure
    state := if failure.isNone then .ready else .bad }

/-- The TABLE report of an ended load (R171). -/
def loadReport (slot : TableNo) (kind : TableKind) (d : List Byte) (check : Nat) : Report :=
  match loadFailure kind d check with
  | none => .tableReady slot kind (byteSum d)
  | some .check => .tableCheck slot kind (byteSum d)
  | some (.form test) => .tableForm slot kind (byteSum d) test

/-- The load of a slot ends (R171). -/
def State.endLoad (s : State) (t : TableNo) (check : Word) : State :=
  let x := s.table t
  let kind := x.kind.getD .code
  (s.setTable t (x.endLoad kind check.toNat)).queueReport (loadReport t kind x.storage check.toNat)

/-! ## Binding (R173) -/

def State.bind (s : State) (t : TableNo) : State :=
  s.setTable t { s.table t with binds := (s.table t).binds + 1 }
def State.unbind (s : State) (t : TableNo) : State :=
  s.setTable t { s.table t with binds := (s.table t).binds - 1 }

end Sys2Proof.Machine
end

