-- ==== Sys2Proof/Machine/Coding.lean ====
section
/-! DEFINITION. Run-length coding: the codes of a line (R44), the Coder's bit flow (R47), and the decoding both
decoders share (R50 to R54). -/

namespace Sys2Proof.Machine

/-! ## Coding (R44, R45) -/

/-- The codes of a run (R44). -/
def runCodes (table : List Byte) (black : Bool) (n : Nat) : List Bits :=
  if n < 64 then [codeBits table black false n]
  else [codeBits table black true (n / 64 * 64), codeBits table black false (n % 64)]

/-- The codes of runs of alternating colour. -/
def runsCodes (table : List Byte) : Bool → List Nat → List Bits
  | _, [] => []
  | black, n :: rest => runCodes table black n ++ runsCodes table (!black) rest

/-- A coded line: the sync and the codes of its runs, white first (R45). -/
def lineCodes (table : List Byte) (d : Dots) : List Bits :=
  syncBits table :: runsCodes table false (runsOfDots d)

/-- Drops the first `n` bits of a list of codes, with the codes that are gone whole. -/
def dropBits : Nat → List Bits → List Bits
  | _, [] => []
  | n, c :: cs => if c.length ≤ n then dropBits (n - c.length) cs else c.drop n :: cs

/-- Bits cut into whole words and the rest; at most `fuel` words. -/
def cutWords : Nat → Bits → List Word × Bits
  | 0, bs => ([], bs)
  | fuel + 1, bs =>
    if bs.length < 16 then ([], bs)
    else
      let (ws, rest) := cutWords fuel (bs.drop 16)
      (wordOfBits (bs.take 16) :: ws, rest)

/-- Bits the Coder can take before a word completes with the queue full (R47). -/
def Coder.space (c : Coder) : Nat :=
  16 * (Config.wordQueueCap - c.queue.length) + 15 - c.acc.length

/-- Bits are appended: whole words move to the queue (R47). -/
def Coder.append (c : Coder) (bs : Bits) : Coder :=
  let (ws, acc) := cutWords Config.wordQueueCap (c.acc ++ bs)
  { c with acc := acc, queue := c.queue ++ ws, bitPos := c.bitPos + bs.length }

/-- A line is taken: the sync and its first run are in hand (R45, R47). -/
def Coder.takeLine (c : Coder) (table : List Byte) (d : Dots) : Coder :=
  let runs := runsOfDots d
  let first := runs.headD 0
  { c with
    state := .coding, dot := first, black := false
    codes := syncBits table :: runCodes table false first, runs := runs.tail }

/-- The bits of some codes in hand are appended as far as the queue allows (R47). -/
def Coder.appendSome (c : Coder) (codes : List Bits) : Coder :=
  let bits := codes.flatten.take c.space
  { c.append bits with codes := dropBits bits.length c.codes }

/-- The next run is in hand (R44, R47). -/
def Coder.nextRun (c : Coder) (table : List Byte) (n : Nat) (rest : List Nat) : Coder :=
  { c with
    dot := c.dot + n, black := !c.black, codes := runCodes table (!c.black) n, runs := rest }

/-- The Coder works through its runs as far as its queue allows, up to the line's last code, which
CODER_LINE_COMPLETE appends (R47).  `runs` are those after the current one. -/
def Coder.codeRuns (table : List Byte) : List Nat → Coder → Coder
  | [], c => c.appendSome c.codes.dropLast
  | n :: rest, c =>
    let c := c.appendSome c.codes
    if c.codes.isEmpty then Coder.codeRuns table rest (c.nextRun table n rest) else c

/-- The Coder goes on as far as its queue allows: in CODING with its line, in ENDING with the end pattern and
then the padding (R47, R49). -/
def Coder.pump (c : Coder) (table : List Byte) : Coder :=
  match c.state with
  | .coding => Coder.codeRuns table c.runs c
  | .ending =>
    let c := c.appendSome c.codes
    if c.codes.isEmpty && c.padding then
      if c.acc.isEmpty then { c with padding := false }
      else if c.queue.length < Config.wordQueueCap then
        { c with
          padding := false, acc := []
          queue := c.queue ++ [wordOfBits (c.acc ++ List.replicate (16 - c.acc.length) false)] }
      else c
    else c
  | _ => c

/-! ## Decoding (R50 to R54) -/

/-- What a decoder finds at its position. -/
inductive Found where
  /-- The bits that the next test needs have not arrived. -/
  | wait
  /-- The page's bits have run out (R54). -/
  | runOut
  /-- A sync of `n` bits. -/
  | sync (n : Nat)
  /-- A bit of fill, or a bit discarded in SKIP. -/
  | pass
  /-- A code of `n` bits. -/
  | code (value : Nat) (chunk : Bool) (n : Nat)
  /-- Nothing matches: a bad line. -/
  | noMatch
deriving DecidableEq, Repr

/-- Codes of a colour in table order with their bits. -/
def colourCodes (table : List Byte) (black : Bool) : List (Nat × Bits) :=
  (List.range 91).map fun i => (i, tableItem table (3 * ((if black then 91 else 0) + i)))

/-- The code that matches: by increasing length, within one length in table order (R51). -/
def matchCode (table : List Byte) (black : Bool) (bs : Bits) : Option (Nat × Nat) :=
  (colourCodes table black).foldl
    (fun best c =>
      if !c.2.isEmpty && c.2.isPrefixOf bs then
        match best with
        | some (_, n) => if c.2.length < n then some (c.1, c.2.length) else best
        | none => some (c.1, c.2.length)
      else best) none

/-- What stands at the position (R51, R52): `bs` are the bits at and after it that have arrived, at least
17 where there are so many, `final` where no more will come. -/
def findAt (table : List Byte) (d : Decoder) (bs : Bits) (final : Bool) : Found :=
  let sync := syncBits table
  let enough := decide (sync.length ≤ bs.length)
  if bs.isEmpty then (if final then .runOut else .wait)
  else if enough && sync.isPrefixOf bs then .sync sync.length
  else
    match d.state with
    | .ended => .wait
    | .seek =>
      if !enough && !final then .wait
      else if bs.headD false == false then .pass
      else if enough then .noMatch
      else .runOut
    | .skip => if enough then .pass else if final then .runOut else .wait
    | .synced | .line =>
      if !enough && !final then .wait
      else
        match matchCode table d.black bs with
        | some (i, n) => .code (codeValue i).1 (codeValue i).2 n
        | none => if 16 ≤ bs.length then .noMatch else if final then .runOut else .wait

/-- How a move leaves the page's account: nothing, a good line, a bad line, the end. -/
inductive Verdict where
  | none | good | bad | ended (pattern : Bool)
deriving DecidableEq, Repr

/-- SYNCED entered from another state, after a sync of `n` bits (R50). -/
def Decoder.toSynced (d : Decoder) (n : Nat) : Decoder :=
  { d with
    pos := d.pos + n, state := .synced, syncs := 1, black := false, sum := 0, chunk := false }

/-- SKIP from the bit after the failing position (R52, R53). -/
def Decoder.toSkip (d : Decoder) : Decoder := { d with pos := d.pos + 1, state := .skip }

/-- A code is taken (R52, R53). -/
def Decoder.takeCode (d : Decoder) (value : Nat) (chunk : Bool) (n : Nat) : Decoder × Verdict :=
  if chunk && d.chunk then (d.toSkip, .bad)
  else if Config.lineDots < d.sum + value then (d.toSkip, .bad)
  else
    let d := { d with pos := d.pos + n, sum := d.sum + value, syncs := 0 }
    if chunk then ({ d with state := .line, chunk := true }, .none)
    else if d.sum = Config.lineDots then ({ d with state := .seek, chunk := false }, .good)
    else ({ d with state := .line, chunk := false, black := !d.black }, .none)

/-- The decoder acts on what it finds (R52 to R54). -/
def Decoder.act (d : Decoder) (count : Nat) : Found → Decoder × Verdict
  | .wait => (d, .none)
  | .runOut => ({ d with state := .ended }, .ended false)
  | .pass => ({ d with pos := d.pos + 1 }, .none)
  | .noMatch => (d.toSkip, .bad)
  | .code value chunk n => d.takeCode value chunk n
  | .sync n =>
    match d.state with
    | .synced =>
      let d := { d with pos := d.pos + n, syncs := d.syncs + 1 }
      if d.syncs = count then ({ d with state := .ended }, .ended true) else (d, .none)
    | .line => (d.toSynced n, .bad)
    | _ => (d.toSynced n, .none)

end Sys2Proof.Machine
end

