-- ==== Sys2Proof/Machine/Strobe.lean ====
section
/-! DEFINITION. The print ring, strobe plans, head readiness and the burn (chapter 6). -/

namespace Sys2Proof.Machine

/-! ## The plan (R100 to R103) -/

/-- Forming phases: the phases closed, newest first, and the open one, each as groups, dots, history dots
and over-budget mark. -/
structure Forming where
  closed : List Phase
  opened : Option Phase
deriving DecidableEq, Repr

/-- A phase of one group. -/
def Phase.alone (g d q : Nat) (overBudget : Bool) : Phase :=
  { groups := [g], dots := d, hist := q, overBudget := overBudget, width := 0 }

/-- One group is taken (R100). -/
def Forming.take (f : Forming) (budget g d q : Nat) : Forming :=
  if d = 0 then f
  else if budget < d then
    { closed := Phase.alone g d q true :: (f.opened.toList ++ f.closed), opened := none }
  else
    match f.opened with
    | none => { f with opened := some (Phase.alone g d q false) }
    | some p =>
      if p.dots + d ≤ budget then
        { f with
          opened := some
            { p with groups := p.groups ++ [g], dots := p.dots + d, hist := p.hist + q } }
      else { closed := p :: f.closed, opened := some (Phase.alone g d q false) }

/-- The phases of a line against a history line, widths not yet given (R100). -/
def formPhases (budget : Nat) (dots history : Dots) : List Phase :=
  let f := (List.range 8).foldl
    (fun (f : Forming) g =>
      let black := dots[g]?.getD 0
      f.take budget g (blackDots black) (blackDots (black &&& (history[g]?.getD 0))))
    { closed := [], opened := none }
  (f.opened.toList ++ f.closed).reverse

/-- The base width B (R101). -/
def baseWidth (h : Heat) (theta volts : Byte) : Nat :=
  h.base.getD (theta.toNat / 16) 0 * h.factor.getD (volts.toNat / 16) 0 / 128

/-- The width of a phase, clamped (R102). -/
def phaseWidth (h : Heat) (base : Nat) (p : Phase) : Nat :=
  let w := base * (256 * p.dots - h.history * p.hist) / (256 * p.dots)
  if w < h.wmin then h.wmin else if h.wmax < w then h.wmax else w

/-- The plan of a line (R100 to R103). -/
def planOf (h : Heat) (theta volts : Byte) (line history : Dots) : Plan :=
  let base := baseWidth h theta volts
  let phases := (formPhases h.budget line history).map fun p =>
    Phase.mk p.groups p.dots p.hist p.overBudget (phaseWidth h base p)
  { phases := phases, gap := h.gap, load := h.load
    burn := if phases.isEmpty then 0
      else h.load + (phases.map fun p => p.width + h.gap).sum }

/-! ## The ring (R97, R98) -/

/-- The HEAT table of the route holding PRINTER. -/
def State.heat (s : State) : Heat :=
  match s.engines.printer with
  | some r => heatOf (s.storage (s.route r).heat)
  | none => heatOf []

/-- The SETUP watermark comes into force, at a take or an entry of the print ring (R145). -/
def State.takeWatermark (s : State) : State :=
  { s with power := { s.power with watermark := s.setup.watermark } }

/-- A line enters the print ring and is planned (R98); in the copy ring its slot was claimed at its line
start (R99). -/
def State.enterRing (s : State) (d : Dots) : State :=
  let plan := planOf s.heat s.head.theta s.head.volts d s.head.history
  let s := s.takeWatermark
  { s with head :=
    { s.head with
      ready := s.head.ready ++ [{ dots := d, plan := plan }], history := d
      nextSlot := if s.head.capacity = 4 then (s.head.nextSlot + 1) % 4 else s.head.nextSlot } }

/-- FREE slots of the print ring, or of the copy ring (R97, R99). -/
def Head.freeSlots (h : Head) : Nat := h.capacity - (h.ready.length + h.capturing.toNat)

/-- The ring is full when its ready count equals its capacity (R97). -/
def Head.full (h : Head) : Bool := h.ready.length == h.capacity

/-- The largest L of the current line and the READY lines (R110). -/
def Head.largestBurn (h : Head) : Nat :=
  (h.current.toList ++ h.ready).foldl (fun n x => max n x.plan.burn) 0

/-! ## Readiness (R105, R106) -/

def State.headSettled (s : State) : Bool := s.head.supply == .settled
def State.headReady (s : State) : Bool := s.headSettled && !s.pins.coverOpen

/-- The hot condition (R106). -/
def State.headHot (s : State) : Bool :=
  s.engines.printer.isSome && decide (s.heat.stop ≤ s.head.theta.toNat / 16)

/-! ## The burn (R107 to R109) -/

/-- The burn of a line begins (R108). -/
def burnOf (now : Nat) (r : RouteNo) (p : Plan) : Burn :=
  if p.phases.isEmpty then
    { stage := .complete, phases := [], gap := p.gap, timer := none, slot := r }
  else { stage := .loading, phases := p.phases, gap := p.gap, timer := some (now + p.load), slot := r }

/-- The burn of the current line is complete, or there is none (R110, R111). -/
def Head.burnDone (h : Head) : Bool :=
  match h.current, h.burn with
  | none, _ => true
  | some _, some b => b.stage == .complete
  | some _, none => true

/-- What is left of a burn that is cut off (R109): the phase being driven, or its gap. -/
def Burn.cutPhase (b : Burn) : Option CutPhase :=
  match b.stage, b.phases, b.timer with
  | .firing, p :: _, some d =>
    some { driven := true, groups := p.groups, overBudget := p.overBudget, gap := b.gap, ends := d
           slot := some b.slot }
  | .gap, p :: _, some d =>
    some { driven := false, groups := p.groups, overBudget := p.overBudget, gap := b.gap, ends := d
           slot := some b.slot }
  | _, _, _ => none

/-- A burn ended by a halt NOW or a route's end: a load fires no phase, a phase being driven completes its
width and its gap (R109), beside a burn that a new route begins. -/
def Head.cutBurn (h : Head) : Head :=
  { h with burn := none, cutOff := h.cutOff ++ (h.burn.bind Burn.cutPhase).toList }

/-- The ring is emptied, its capacity kept, and the current line discarded (R97, R109, R110). -/
def Head.clearRing (h : Head) : Head :=
  { h.cutBurn with
    ready := [], capturing := false, nextSlot := 0, history := Dots.white, current := none }

/-- The ring is emptied and is the print ring's four slots (R97, R99). -/
def Head.emptyRing (h : Head) : Head := { h.clearRing with capacity := 4 }

/-- The strobe lines driven (R108, R109): a function of the burn and the phases cut off. -/
def Head.strobes (h : Head) : List Nat :=
  (match h.burn with
    | some b => if b.stage == .firing then (b.phases.head?.map Phase.groups).getD [] else []
    | none => [])
  ++ (h.cutOff.filter CutPhase.driven).flatMap CutPhase.groups

/-- A route's over phases, one more (R100, R108). -/
def State.countOver (s : State) (r : RouteNo) : State :=
  s.setRoute r { s.route r with overPhases := sat16 ((s.route r).overPhases + 1) }

/-- The next phase begins, where one is left and the head is ready (R108); else the burn is complete. -/
def State.nextPhase (s : State) (b : Burn) : State :=
  match b.phases with
  | p :: _ =>
    if s.headReady then
      { s with head :=
        { s.head with burn := some { b with stage := .firing, timer := some (s.now + p.width) } } }
    else { s with head := { s.head with burn := none } }
  | [] => { s with head := { s.head with burn := some { b with stage := .complete, timer := none } } }

/-- The strobe timer of a burn expires (R108): the load, a width or a gap ends. -/
def State.strobeNext (s : State) (b : Burn) : State :=
  match b.stage with
  | .loading => s.nextPhase b
  | .firing =>
    let lone := match b.phases with
      | p :: _ => p.overBudget
      | [] => false
    let s := if lone then s.countOver b.slot else s
    { s with head :=
      { s.head with burn := some { b with stage := .gap, timer := some (s.now + b.gap) } } }
  | .gap => s.nextPhase { b with phases := b.phases.drop 1 }
  | .complete => s

/-- A phase cut off ends its width, and counts, its gap following; or ends its gap, and is over (R108,
R109). -/
def State.cutNext (s : State) (i : Nat) (c : CutPhase) : State :=
  if c.driven then
    let s := match c.slot, c.overBudget with
      | some r, true => s.countOver r
      | _, _ => s
    { s with head :=
      { s.head with
        cutOff := s.head.cutOff.set i { c with driven := false, ends := s.now + c.gap } } }
  else { s with head := { s.head with cutOff := s.head.cutOff.eraseIdx i } }

/-- The place of the phase cut off that ends first (R109). -/
def Head.firstCut (h : Head) : Option (Nat × CutPhase) :=
  (h.cutOff.mapIdx fun i c => (i, c)).foldl
    (fun best x => match best with
      | some y => if x.2.ends < y.2.ends then some x else some y
      | none => some x) none

/-- A new route in a slot has no part in phases cut off before it (R109). -/
def Head.disown (h : Head) (r : RouteNo) : Head :=
  { h with cutOff := h.cutOff.map fun c => { c with slot := if c.slot = some r then none else c.slot } }

end Sys2Proof.Machine
end

