-- ==== Sys2Proof/Machine/Motors.lean ====
section
/-! DEFINITION. The motors' steps, targets, rests and stops, and the scan ring's counts (chapters 5 and 7). -/

namespace Sys2Proof.Machine

/-! ## The ramp in use (R113) -/

/-- The route that claims the engine holding a motor (R62). -/
def State.motorRoute (s : State) : MotorName → Option RouteNo
  | .pf => s.engines.printer
  | .sf => s.engines.scanner

/-- The ramp slot of a route's motor. -/
def Route.rampSlot (x : Route) : MotorName → Option TableNo
  | .pf => x.pfRamp
  | .sf => x.sfRamp

/-- The ramp in use: a run-down's copy, a MOVE's slot, or the route's (R113). -/
def State.rampInUse (s : State) (m : MotorName) : Ramp :=
  match (s.motor m).copy with
  | some copy => copy
  | none =>
    match (s.motor m).slot with
    | some t => rampOf (s.table t).storage
    | none =>
      match s.motorRoute m with
      | some r => rampOf (s.storage ((s.route r).rampSlot m))
      | none => rampOf []

/-- The motor's top (R113). -/
def State.topOf (s : State) (m : MotorName) : Nat :=
  let last := (s.rampInUse m).periods.length - 1
  match (s.motor m).slot, s.motorRoute m with
  | some _, _ => min (s.motor m).top last
  | none, some r => min (s.route r).top last
  | none, none => last

/-- Steps per line at the pitch of the motor's route (R113). -/
def State.splOf (s : State) (m : MotorName) : Nat :=
  match s.motorRoute m with
  | some r => (s.rampInUse m).spl.getD ((s.route r).pitch - 1) 0
  | none => 0

/-- The highest index whose line time is at or above a time; 0 where none is (R117). -/
def highestIndex (ramp : Ramp) (spl time : Nat) : Nat :=
  ((List.range ramp.periods.length).filter fun i =>
    decide (time ≤ ramp.periods.getD i 0 * spl)).getLastD 0

/-! ## The scan ring (R83, R84, R99) -/

/-- T_scan of the route's SHADE table (R83). -/
def State.scanPeriod (s : State) : Nat :=
  match s.engines.scanner with
  | some r => max (shadeTint (s.storage (s.route r).shade)) Config.readoutTime
  | none => Config.readoutTime

/-- A COPY holds SCANNER (R99). -/
def State.copying (s : State) : Bool :=
  match s.engines.scanner with
  | some r => (s.route r).isKind .copy
  | none => false

/-- The FREE slots the port gives SF (R84). -/
def State.scanFree (s : State) : Nat :=
  if s.copying then s.head.freeSlots
  else 4 - (s.scanner.coding.toNat + s.scanner.ready.length + s.scanner.capturing.toNat)

/-- The scan ring is emptied, a capture abandoned; the time of the last start pulse is kept (R86). -/
def Scanner.emptyRing (c : Scanner) : Scanner :=
  { c with coding := false, ready := [], capturing := false, captureTimer := none }

/-! ## Target and step (R115 to R117) -/

/-- The ceilings that apply to the motor's motion, with `r` the steps remaining after the step now beginning
(R117, R118).  A motor without a motion has the one ceiling 0 (DESIGN CHOICE, log entry 60). -/
def State.ceilings (s : State) (m : MotorName) (r : Nat) : List Nat :=
  let mo := s.motor m
  let ramp := s.rampInUse m
  let z := ramp.z
  let spl := s.splOf m
  match mo.motion, m with
  | .none, _ => [0]
  | .runDown, _ => [z]
  | .move _, _ => if mo.overrun then [z] else [z + r]
  | .lines, .pf =>
    let burn := s.head.largestBurn
    [z + r + s.head.ready.length * spl,
      if burn = 0 then ramp.periods.length - 1 else highestIndex ramp spl burn]
      ++ (if s.headHot || s.pins.paperOut || !s.headSettled then [z] else [])
  | .lines, .sf => [z + r + s.scanFree * spl, highestIndex ramp spl s.scanPeriod]

/-- The target of a step event (R117). -/
def State.target (s : State) (m : MotorName) (r : Nat) : Nat :=
  (s.ceilings m r).foldl min (s.topOf m)

/-- One place toward the target (R115). -/
def towards (index target : Nat) : Nat :=
  if index < target then index + 1 else if target < index then index - 1 else index

/-- The next pattern in the motor's direction (R115). -/
def Motor.nextPhase (mo : Motor) : Nat := if mo.back then (mo.phase + 7) % 8 else (mo.phase + 1) % 8

/-- Steps of a move taken so far: those begun (R90, R124). -/
def stepsTaken (motion : Motion) (before : Nat) : Nat :=
  match motion with
  | .move _ => before + 1
  | _ => before

/-- A step event, `left` the steps remaining after the step now beginning (R115). -/
def State.stepEvent (s : State) (m : MotorName) (left : Nat) : State :=
  let mo := s.motor m
  let index := towards mo.index (s.target m left)
  s.setMotor m
    { mo with
      state := .moving, phase := mo.nextPhase, left := left, index := index, stretched := false
      taken := stepsTaken mo.motion mo.taken
      timer := some (s.now + (s.rampInUse m).periods.getD index 0) }

/-- A restart from rest, into a motion (R116): route motion is forward, a MOVE names its direction
(R115). -/
def State.restart (s : State) (m : MotorName) (motion : Motion) (left : Nat) : State :=
  let mo := { s.motor m with back := (s.motor m).back && motion == Motion.move .order }
  s.setMotor m
    { mo with
      state := .moving, index := 0, phase := mo.nextPhase, motion := motion, left := left
      overrun := false, stretched := false, hold := .driven, holdTimer := none
      taken := stepsTaken motion 0
      timer := some (s.now + (s.rampInUse m).periods.getD 0 0) }

/-- Hold state and timer after a rest (R126). -/
def holdAfter (now : Nat) (ramp : Ramp) : HoldState × Timer :=
  if 0 < ramp.hold then (.hold, some (now + ramp.hold * 10000)) else (.off, none)

/-- The motor comes to rest in a state, its motion in hand kept or ended (R126). -/
def State.restMotor (s : State) (m : MotorName) (state : MotorState) (motion : Motion) : State :=
  let mo := s.motor m
  let (held, holdTimer) := holdAfter s.now (s.rampInUse m)
  s.setMotor m
    { mo with
      state := state, motion := motion, timer := none, left := 0, overrun := false
      stretched := false, hold := held, holdTimer := holdTimer }

/-- A run-down's or a move's rest is due (R123, R125). -/
def State.mayRest (s : State) (m : MotorName) : Bool :=
  decide ((s.motor m).index ≤ (s.rampInUse m).z)

/-! ## The phase lines (R115, R126) -/

/-- The phase lines of each half-step pattern (R115). -/
def patternLines (phase : Nat) : List PhaseLine :=
  [[.a], [.a, .b], [.b], [.b, .c], [.c], [.c, .d], [.d], [.d, .a]].getD phase []

/-- The phase lines a motor drives (R115, R126): its pattern at DRIVEN and at HOLD, none at OFF. -/
def Motor.lines (m : Motor) : List PhaseLine :=
  match m.hold with
  | .driven | .hold => patternLines m.phase
  | .off => []

/-- A motor's hold-current select: its pattern is held at hold current at HOLD, at full current else
(R126). -/
def Motor.holdSelect (m : Motor) : Bool := m.hold == .hold

/-! ## Stopping at once (R127) -/

/-- The motor of a route halted NOW stops at once; the hold follows as on a rest where the motor was driven
(R126, R127). -/
def State.haltMotor (s : State) (m : MotorName) : State :=
  let mo := s.motor m
  let (held, holdTimer) :=
    if mo.hold = .driven then holdAfter s.now (s.rampInUse m) else (mo.hold, mo.holdTimer)
  s.setMotor m
    { mo with
      state := .idle, motion := .none, timer := none, left := 0, overrun := false
      stretched := false, hold := held, holdTimer := holdTimer }

/-- A COVER opening or power-fail entry stops a motor at once with its drive off, and releases its claim
and a MOVE's binding; `report` tells a MOVE's cut-short MOVED (R124, R126, R127). -/
def State.dropMotor (s : State) (m : MotorName) (report : Bool) : State :=
  let mo := s.motor m
  let s := s.setMotor m
    { mo with
      state := .idle, motion := .none, timer := none, left := 0, overrun := false
      stretched := false, hold := .off, holdTimer := none, claim := none, slot := none
      copy := none }
  match mo.slot with
  | some t =>
    let s := s.unbind t
    if report then s.queueReport (.moved m mo.taken true) else s
  | none => s

/-! ## Run-down (R125) -/

/-- A motor of a route whose outcome is fixed: MOVING, it runs down; at rest under the route, it is
IDLE.  A stretched last step has expired already and waits on no burn. -/
def State.runDown (s : State) (m : MotorName) : State :=
  let mo := s.motor m
  if mo.state = .moving then
    let t := s.setMotor m { mo with motion := .runDown, stretched := false }
    if mo.stretched then
      if t.mayRest m then t.restMotor m .idle .none else t.stepEvent m 0
    else t
  else s.setMotor m { mo with state := .idle, motion := .none, left := 0 }

/-- The copy a running-down motor takes as its route passes to IDLE (R125). -/
def State.takeCopy (s : State) (m : MotorName) : State :=
  let mo := s.motor m
  if mo.motion = .runDown then
    let ramp := s.rampInUse m
    s.setMotor m
      { mo with
        claim := some .runDown
        copy := some { z := ramp.z, spl := [], hold := ramp.hold
                       periods := ramp.periods.take (mo.index + 1) } }
  else s

end Sys2Proof.Machine
end

