-- ==== Sys2Proof/Machine/Ending.lean ====
section
/-! DEFINITION. How a route ends (R70, R71), with its page, bindings, claims, motors and rings. -/

namespace Sys2Proof.Machine

/-! ## What the end of a route needs and does -/

/-- What a reader's end does to its page (R10). -/
inductive ReaderEnd where
  | leave | drop | free
deriving DecidableEq, Repr

/-- The table of R10: `done` where the route ends DONE with DROP-AFTER. -/
def readerEnd (e : PageEntry) (done : Bool) : ReaderEnd :=
  let after := e.readers - 1
  if e.state = .dropping then (if after = 0 then .free else .leave)
  else if done then (if after = 0 then .free else .drop)
  else .leave

/-- DROP-AFTER acts on DONE alone (R10, R76). -/
def Route.drops (x : Route) (f : Fate) : Bool := x.dropAfter && f.outcome == .done

/-- Places of the directory write queue that the end of a route needs (R71). -/
def State.endNeed (s : State) (r : RouteNo) (f : Fate) : Nat :=
  let x := s.route r
  match x.page with
  | none => 0
  | some p =>
    if x.isReader then
      match readerEnd (s.page p) (x.drops f) with
      | .leave => 0
      | .drop => s.imageNeed p
      | .free => s.freeNeed p
    else if f.close.isSome then s.imageNeed p
    else 0

/-- A reader leaves its page (R8, R10). -/
def State.leavePage (s : State) (p : PageNo) (done : Bool) : State :=
  let e := s.page p
  let act := readerEnd e done
  let s := s.setPage p { e with readers := e.readers - 1 }
  match act with
  | .leave => s
  | .drop => s.dropPage p
  | .free => s.freePage p

/-- The page's part of a route's end (R5, R6, R10). -/
def State.endPage (s : State) (r : RouteNo) (f : Fate) : State :=
  let x := s.route r
  match x.page with
  | none => s
  | some p =>
    if x.isReader then
      let s := s.leavePage p (x.drops f)
      s.setRoute r { s.route r with page := none, lastPage := some p }
    else
      match f.close with
      | some c => s.closePage r p c
      | none => s.setRoute r { s.route r with page := none }

/-- The blocks of a kind's engines are returned to rest: rings emptied, lamp off, queues and FIFOs empty
(R71, R49, R56, R68, R69, R86, R97, R140, R144).  The underrun count returns to 0 with the Line Port (DESIGN CHOICE,
log entry 67). -/
def State.releaseBlocks (s : State) (kind : Option RouteKind) : State :=
  match kind with
  | some .scanStore =>
    { s with
      coder := Coder.idleCoder
      scanner := { s.scanner.emptyRing with phase := .none, lamp := .off, lampTimer := none } }
  | some .copy =>
    { s with
      head := s.head.emptyRing
      scanner :=
        { s.scanner.emptyRing with
          nextSlot := 0, phase := .none, lamp := .off, lampTimer := none } }
  | some .printPage => { s with printDec := PrintDecoder.idleDecoder, head := s.head.emptyRing }
  | some .lineReceive | some .lineSend =>
    { s with line := { LinePort.idlePort with txd := s.line.txd } }
  | some .hostStore => { s with hostIn := HostIn.idleFlow }
  | some .pageHost => { s with hostOut := HostOut.idleFlow }
  | none => s

/-- The record of a route after its end (R60, R71). -/
def Route.ended (x : Route) (f : Fate) : Route :=
  { x with
    state := .idle, page := none, code := none, heat := none, pfRamp := none, sfRamp := none
    shade := none, remainder := 0, outcome := some f.outcome, cause := f.cause
    unterminated := f.unterminated, halt := .none, fate := none, cutStage := .none }

/-- The end of a LINE-RECEIVE at DOZE-RX returns the part to DOZE (R151). -/
def State.returnToDoze (s : State) (kind : Option RouteKind) : State :=
  if s.power.level = some .dozeRx ∧ kind = some .lineReceive then s.beginDoze else s

/-- The lines and bad lines of the route's last page (R71). -/
def Route.pageCounts (x : Route) : Nat × Nat := x.lastCounts.getD (x.linesDone, x.badLines)

/-- A cut of a route that has ended goes on for no one (log entry 50). -/
def Cutter.disown (c : Cutter) (r : RouteNo) : Cutter :=
  { c with owner := if c.owner = some (.route r) then none else c.owner }

/-- DAMAGED flags that wait for an ended route's event hold no route any longer (R21). -/
def State.disownDamage (s : State) (r : RouteNo) : State :=
  { s with pool :=
    { s.pool with
      damage := s.pool.damage.map fun x => (x.1, if x.2 = some r then none else x.2) } }

/-- The end of a route, all its steps in one event (R71).  The lines and bad lines that ENDED carries are the
last page's: kept since a CONTINUE set the record's to 0.  An OK for the rest of a reservation (R17) precedes ENDED
(DEDUCED, log entry 78). -/
def State.finishRoute (s : State) (r : RouteNo) (f : Fate) : State :=
  let slots := (s.route r).boundSlots
  let kind := (s.route r).kind
  let s := s.endPage r f
  let s := if (kind.map RouteKind.usesPrinter).getD false then s.takeCopy .pf else s
  let s := if (kind.map RouteKind.usesScanner).getD false then s.takeCopy .sf else s
  let s := slots.foldl State.unbind s
  let s := s.releaseBlocks kind
  let s := { s with engines := s.engines.release r, cutter := s.cutter.disown r }.disownDamage r
  let before := s.available
  let s := s.setRoute r ((s.route r).ended f)
  let s := s.availChange before
  let x := s.route r
  (s.queueReport (.ended r kind f.outcome f.cause f.unterminated x.lastPage x.pageCounts.1
    x.pageCounts.2)).returnToDoze kind

/-! ## Fixing an outcome -/

/-- A DATA report of an ending route is completed with zero bytes (R69). -/
def OutRecord.cut (r : RouteNo) (x : OutRecord) : OutRecord :=
  { x with data := x.data.map fun d =>
      if d.slot = r then DataOut.mk d.slot d.left d.final true else d }

/-- The flows of a route stop as its outcome is fixed (R71, R72): captures and fetches end, queues are
discarded, the rings are emptied, the burn cut off (R97, R109), motors that move run down (R125). -/
def State.stopFlows (s : State) (r : RouteNo) : State :=
  let x := s.route r
  let s := if x.usesPrinter then { s with head := s.head.clearRing }.runDown .pf else s
  let s := if x.usesScanner then
      { s with scanner := { s.scanner.emptyRing with phase := .none } }.runDown .sf
    else s
  match x.kind with
  | some .scanStore => { s with coder := { Coder.idleCoder with state := .waiting, slot := some r } }
  | some .printPage => { s with printDec := { PrintDecoder.idleDecoder with slot := some r } }
  | some .lineReceive | some .lineSend =>
    { s with line := { LinePort.idlePort with slot := some r, txd := s.line.txd } }
  | some .hostStore => { s with hostIn := { HostIn.idleFlow with slot := some r } }
  | some .pageHost =>
    { s with
      hostOut := { HostOut.idleFlow with slot := some r }
      port := { s.port with record := s.port.record.map (OutRecord.cut r) } }
  | _ => s

/-- The burst in progress for a route whose flow stops delivers to no one (R71). -/
def BurstKind.ofKind (k : RouteKind) : BurstKind → Bool
  | .coderWrite .. => k == .scanStore
  | .lineWrite .. => k == .lineReceive
  | .hostWrite .. => k == .hostStore
  | .fetchWords reader _ _ | .fetchLink reader _ =>
    match reader with
    | .print => k == .printPage
    | .line => k == .lineSend
    | .host => k == .pageHost
  | _ => false

/-- Marks the burst in progress where it is the stopped route's. -/
def State.orphanBurst (s : State) (kind : Option RouteKind) : State :=
  match s.store.burst, kind with
  | some b, some k =>
    if b.kind.ofKind k then
      { s with store := { s.store with burst := some { b with orphan := true } } }
    else s
  | _, _ => s

/-- A writer's OPEN page closes TRUNCATED at its last line end on an abrupt end (R6, R49, R140). -/
def State.abruptClose (s : State) (r : RouteNo) : Option PageClose :=
  let x := s.route r
  match x.page, x.kind with
  | some _, some .scanStore =>
    let c := s.coder.writer.covered
    some { truncated := true, bitLength := c.pos, lineCount := some c.lines, badLines := 0 }
  | some _, some .lineReceive =>
    let c := s.line.writer.covered
    some { truncated := true, bitLength := c.pos, lineCount := some c.lines, badLines := c.bad }
  | some _, some .hostStore =>
    let c := s.hostIn.writer.covered
    some { truncated := true, bitLength := c.pos, lineCount := none, badLines := 0 }
  | _, _ => none

/-- The route's last line end once its outcome is fixed: the covered one where its page closes TRUNCATED (R6),
and at an abrupt end of a LINE-RECEIVE also where no page is open (R140). -/
def State.lastEnd (s : State) (r : RouteNo) (f : Fate) : Nat :=
  let x := s.route r
  match f.close with
  | some c => if c.truncated then c.bitLength else x.lastLineEnd
  | none =>
    if x.kind = some .lineReceive ∧ (s.line.rx = .storing ∨ s.line.rx = .flushing) then
      s.line.writer.covered.pos
    else x.lastLineEnd

/-- An outcome is fixed (R71, R72): the route ends in this event, or waits in HALTING for places.  A route
IDLE or with an outcome already fixed is not touched. -/
def State.fixEnd (s : State) (r : RouteNo) (f : Fate) : State :=
  let x := s.route r
  if x.live then
    let last := s.lastEnd r f
    let s := (s.stopFlows r).orphanBurst x.kind
    let s := s.setRoute r { s.route r with lastLineEnd := last }
    if s.endNeed r f ≤ s.dirPlaces then s.finishRoute r f
    else
      let s := s.setRoute r
        { s.route r with
          fate := some f, outcome := some f.outcome, cause := f.cause
          unterminated := f.unterminated }
      if x.state = .halting then s else s.routeTo r .halting
  else s

/-- A route fails (R70). -/
def State.failRoute (s : State) (r : RouteNo) (cause : Cause) : State :=
  s.fixEnd r
    { outcome := .failed, cause := some cause, unterminated := false, close := s.abruptClose r }

/-- A route ends HALTED without a normal close (R73, R75). -/
def State.haltRoute (s : State) (r : RouteNo) : State :=
  s.fixEnd r
    { outcome := .halted, cause := none, unterminated := false, close := s.abruptClose r }

/-- A route's work is complete: DONE, or HALTED where it was halted under FINISH (R70, R74). -/
def State.completeRoute (s : State) (r : RouteNo) (unterminated : Bool) (close : Option PageClose) :
    State :=
  if (s.route r).halt = .finish then
    s.fixEnd r { outcome := .halted, cause := none, unterminated := false, close := close }
  else s.fixEnd r { outcome := .done, cause := none, unterminated := unterminated, close := close }

/-- A sheet jams (R90): the route fails JAM and SCANNER enters FAULT. -/
def State.jam (s : State) (r : RouteNo) : State :=
  { s with engines := { s.engines with scannerFault := true } }.failRoute r .jam

end Sys2Proof.Machine
end

