-- ==== Sys2Proof/Machine/Writers.lean ====
section
/-! DEFINITION. The three writers of pages: opening a page, asking for blocks, stalling (R3, R14, R16), the line
ends they cover, and the Coder's passage from line to line (R47 to R49). -/

namespace Sys2Proof.Machine

/-! ## A writer by its kind -/

/-- The progress of the writer of a kind. -/
def State.writer (s : State) : RouteKind → Writer
  | .scanStore => s.coder.writer
  | .lineReceive => s.line.writer
  | .hostStore => s.hostIn.writer
  | _ => Writer.fresh

def State.setWriter (s : State) (k : RouteKind) (w : Writer) : State :=
  match k with
  | .scanStore => { s with coder := { s.coder with writer := w } }
  | .lineReceive => { s with line := { s.line with writer := w } }
  | .hostStore => { s with hostIn := { s.hostIn with writer := w } }
  | _ => s

/-- The slot of the writer of a kind. -/
def State.writerSlot (s : State) : RouteKind → Option RouteNo
  | .scanStore => s.coder.slot
  | .lineReceive => s.line.slot
  | .hostStore => s.hostIn.slot
  | _ => none

/-- The origin a kind gives its pages (R62). -/
def RouteKind.origin : RouteKind → Origin
  | .scanStore => .scan
  | .lineReceive => .line
  | _ => .host

/-- The writer's block is full and data waits for the next (R48, R68, R137, R139). -/
def State.wantsBlock (s : State) (k : RouteKind) : Bool :=
  (s.writer k).room == 0 &&
    (match k with
      | .scanStore => !s.coder.queue.isEmpty
      | .lineReceive =>
        match s.line.rx with
        | .storing => decide (2 ≤ s.line.rxFifo.length)
        | .flushing => !s.line.rxFifo.isEmpty
        | _ => false
      | .hostStore => !s.hostIn.queue.isEmpty
      | _ => false)

/-! ## Asking (R3, R14, R16) -/

/-- The writer cannot allocate (R16). -/
def State.starve (s : State) (r : RouteNo) (k : RouteKind) : State :=
  let s := { s with pool := { s.pool with alert := .out } }.queueReport .poolOut
  if k = .lineReceive then s.failRoute r .poolOut
  else
    let s := s.setWriter k { s.writer k with starved := true }
    if (s.route r).state = .running then s.routeTo r .stalled else s

/-- A writer whose page waits to open asks for its first block (R3, R136).  With no FREE entry it fails
NO-PAGE, before any other test of the block; where the block is at hand, once the two places an open takes
are free. -/
def State.tryOpen (s : State) (r : RouteNo) (k : RouteKind) : State :=
  match s.askBlock r, s.freeEntry with
  | .wait, _ => s
  | .cannot, none => s.failRoute r .noPage
  | .cannot, some _ => s.starve r k
  | .give, none => if 2 ≤ s.dirPlaces then s.failRoute r .noPage else s
  | .give, some p =>
    if 1 + s.imageNeed p ≤ s.dirPlaces then
      let s := s.openEntry r p k.origin
      s.setWriter k { s.writer k with opening := false, room := Config.blockWords, written := 0 }
    else s

/-- A writer asks for its next block (R4). -/
def State.tryExtend (s : State) (r : RouteNo) (k : RouteKind) (p : PageNo) : State :=
  match s.askBlock r with
  | .wait => s
  | .cannot => s.starve r k
  | .give =>
    if 2 + s.imageNeed p ≤ s.dirPlaces then
      let s := s.extendPage r p
      s.setWriter k { s.writer k with room := Config.blockWords }
    else s

/-- The writer of a kind asks, where it has something to ask. -/
def State.writerTurn (s : State) (k : RouteKind) : State :=
  match s.writerSlot k with
  | none => s
  | some r =>
    let x := s.route r
    if !x.live || (s.writer k).starved then s
    else
      match x.page with
      | some p => if s.wantsBlock k then s.tryExtend r k p else s
      | none => if (s.writer k).opening then s.tryOpen r k else s

/-- The page's first data asks for it (R3): with no FREE entry the route fails at once. -/
def State.askOpen (s : State) (r : RouteNo) (k : RouteKind) : State :=
  match s.freeEntry with
  | none => s.failRoute r .noPage
  | some _ =>
    (s.setWriter k { Writer.fresh with opening := true, ends := (s.writer k).ends }).writerTurn k

/-- A writer that would be answered now, one way or the other. -/
def State.asksNow (s : State) (k : RouteKind) : Bool :=
  match s.writerSlot k with
  | none => false
  | some r =>
    (s.route r).live && !(s.writer k).starved && s.askBlock r != .wait
      && (if (s.route r).page.isSome then s.wantsBlock k else (s.writer k).opening)

/-- The waiting writers are served, several in an order that is a free choice (R14, R67).  A writer that waits
is tested again in every event, so that a fall of availability to 0 meanwhile leaves it unable to allocate at once
(DESIGN CHOICE, log entry 61). -/
def State.writersPass (s : State) : State :=
  let kinds := [RouteKind.scanStore, .lineReceive, .hostStore].filter s.asksNow
  let (i, s) := s.choose kinds.length
  (kinds.drop i ++ kinds.take i).foldl State.writerTurn s

/-! ## Line ends (R4, R137) -/

/-- A line end found: pending, or covered at once where it lies at or below the page bits written already (DESIGN
CHOICE, log entry 55). -/
def Writer.addEnd (w : Writer) (e : LineEnd) : Writer :=
  if e.pos ≤ 16 * w.written then { w with covered := e } else { w with ends := w.ends ++ [e] }

/-- Words have been written: the newest pending line end they pass becomes the covered one. -/
def Writer.wrote (w : Writer) (words : Nat) : Writer :=
  let written := w.written + words
  let passed := w.ends.filter fun e => decide (e.pos ≤ 16 * written)
  { w with
    room := w.room - words, written := written
    ends := w.ends.filter fun e => decide (16 * written < e.pos)
    covered := passed.getLastD w.covered }

/-! ## The Coder (R47, R49) -/

/-- A Coder with nothing in hand. -/
def Coder.waitingFor (r : RouteNo) : Coder :=
  { Coder.idleCoder with state := .waiting, slot := some r }

/-- The Coder in WAITING takes the oldest ready line (R47). -/
def State.coderTake (s : State) (r : RouteNo) : State :=
  let x := s.route r
  match s.scanner.ready with
  | d :: rest =>
    if x.page.isSome ∧ x.halt ≠ .finish ∧ x.state ≠ .stalled then
      { s with
        scanner := { s.scanner with ready := rest, coding := true }
        coder := s.coder.takeLine (s.storage x.code) d }
    else s
  | [] => s

/-- Every captured line of the page has been coded. -/
def Scanner.drained (c : Scanner) : Bool := c.ready.isEmpty && !c.capturing && !c.coding

/-- The Coder in WAITING enters ENDING: at the marked line, or under a FINISH (R49, R92, R93).  With every line
up to one marked last at the maximum coded, the page closes TRUNCATED under a FINISH too; with lines before
the mark uncoded, normally (DESIGN CHOICE, log entry 44). -/
def State.coderEnd (s : State) (r : RouteNo) : State :=
  let x := s.route r
  let table := s.storage x.code
  let whole := s.scanner.mark ≠ .none ∧ s.scanner.drained
  if x.page.isSome ∧ (x.halt = .finish ∨ whole) then
    let short := decide whole && s.scanner.mark == .cutShort
    { s with coder :=
      { s.coder with
        state := .ending, padding := true, cutShort := short
        codes := if short then [] else List.replicate (endCount table) (syncBits table) } }
  else s

/-- The Coder's page is wholly written in ENDING: it closes as soon as there is a place (R5, R6, R49). -/
def State.coderClose (s : State) (r : RouteNo) : State :=
  let c := s.coder
  match (s.route r).page with
  | some p =>
    if c.state = .ending ∧ c.codes.isEmpty ∧ c.padding = false ∧ c.acc.isEmpty ∧ c.queue.isEmpty
        ∧ s.imageNeed p ≤ s.dirPlaces then
      let s := s.closePage r p
        { truncated := c.cutShort, bitLength := c.bitPos
          lineCount := some (s.route r).linesDone, badLines := 0 }
      { s with coder := Coder.waitingFor r }
    else s
  | none => s

/-- The Coder goes on as far as it can. -/
def State.coderPass (s : State) : State :=
  match s.coder.slot with
  | none => s
  | some r =>
    if (s.route r).live then
      let s := if s.coder.state = .waiting then s.coderTake r else s
      let s := if s.coder.state = .waiting then s.coderEnd r else s
      let s := { s with coder := s.coder.pump (s.storage (s.route r).code) }
      s.coderClose r
    else s

end Sys2Proof.Machine
end

