-- ==== Sys2Proof/Machine/Feed.lean ====
section
/-! DEFINITION. The passage of a sheet: line starts, captures, feed phases and SF's line ends (chapter 5, R121 to
R123). -/

namespace Sys2Proof.Machine

def State.setScanner (s : State) (c : Scanner) : State := { s with scanner := c }

/-! ## Line starts (R83, R85, R92, R93) -/

/-- Enough time has passed since the last start pulse (R83). -/
def State.spaced (s : State) : Bool :=
  s.scanner.firstStart ||
    (match s.scanner.lastStart with
      | some t => decide (t + s.scanPeriod ≤ s.now)
      | none => true)

/-- The newest captured line is the page's last, with its mark; EJECT follows at the line end (R92, R93). -/
def Scanner.markLast (c : Scanner) (mark : LastMark) : Scanner :=
  { c with mark := if c.mark = .none then mark else c.mark, lastLine := true }

/-- A slot is claimed and a start pulse issued (R82, R84, R99).  The captured count stands at 65535 from there on
(DESIGN CHOICE, log entry 53). -/
def State.claimSlot (s : State) : State :=
  let c := s.scanner
  let c := { c with
    captureTimer := some (s.now + Config.readoutTime), lastStart := some s.now, firstStart := false
    captured := sat16 (c.captured + 1) }
  match s.engines.scanner with
  | some r =>
    if s.copying then
      let s := s.setRoute r { s.route r with linesDone := sat16 ((s.route r).linesDone + 1) }
      { s with
        scanner := { c with capturing := true }
        head := { s.head with capturing := true, nextSlot := (s.head.nextSlot + 1) % s.head.capacity } }
    else s.setScanner { c with capturing := true, nextSlot := (c.nextSlot + 1) % 4 }
  | none => s

/-- A line is skipped (R85). -/
def State.skipLine (s : State) (r : RouteNo) : State :=
  let n := sat16 ((s.route r).skipped + 1)
  let s := s.setScanner { s.scanner with firstStart := false }
  (s.setRoute r { s.route r with skipped := n }).queueReport (.skip r n)

/-- A line start in CAPTURE or TRAIL (R85): a capture or a skip, the trail's count, the page's last line,
and the page asked for by the first captured line of a SCAN-STORE (R3, R92). -/
def State.lineStart (s : State) (r : RouteNo) : State :=
  let inTrail := s.scanner.phase == .trail
  let trailLeft := if inTrail then s.scanner.trailLeft - 1 else s.scanner.trailLeft
  let trailEnd := inTrail && trailLeft == 0
  let s := s.setScanner { s.scanner with trailLeft := trailLeft }
  let max := (s.route r).maxLines
  if 0 < s.scanFree ∧ s.spaced then
    let s := s.claimSlot
    let s :=
      if trailEnd then s.setScanner (s.scanner.markLast .normal)
      else if 0 < max ∧ s.scanner.captured = max then s.setScanner (s.scanner.markLast .cutShort)
      else s
    if (s.route r).isKind .scanStore ∧ s.scanner.pageAsked = false then
      (s.setScanner { s.scanner with pageAsked := true }).askOpen r .scanStore
    else s
  else
    let s := s.skipLine r
    if trailEnd then s.setScanner (s.scanner.markLast .normal) else s

/-! ## EJECT (R94, R123) -/

/-- EJECT is complete: the sheet is out (R94).  The phase stays EJECT until the sheet's end, as row 9 of section
5.5's table shows it (DEDUCED, log entry 66). -/
def State.sheetIsOut (s : State) : State := s.setScanner { s.scanner with sheetOut := true }

/-- A move's next step, or its overrun, or its rest, at the expiry of a step with `left` counted steps to
come (R123): the state, and whether the move is complete. -/
def State.moveStep (s : State) (m : MotorName) (left : Nat) : State × Bool :=
  if (s.motor m).overrun || left == 0 then
    if s.mayRest m then (s.restMotor m .idle .none, true)
    else ((s.setMotor m { s.motor m with overrun := true }).stepEvent m 0, false)
  else (s.stepEvent m (left - 1), false)

/-- EJECT begins at a line end, SF moving or at rest (R94, R121, R123). -/
def State.beginEject (s : State) (r : RouteNo) : State :=
  let s := s.setScanner { s.scanner with phase := .eject, lastLine := true }
  let count := (s.route r).eject
  if s.sf.state = .moving then
    let s := s.setMotor .sf { s.sf with motion := .move .eject, overrun := false }
    let (s, done) := s.moveStep .sf count
    if done then s.sheetIsOut else s
  else if count = 0 then
    (s.setMotor .sf { s.sf with state := .idle, motion := .none }).sheetIsOut
  else s.restart .sf (.move .eject) (count - 1)

/-! ## SF's line ends (R91, R121, R122) -/

/-- SF takes the next line, moving at a line end or from rest: its step event or restart is the line start
(R121, R122). -/
def State.takeScanLine (s : State) (r : RouteNo) : State :=
  let left := s.splOf .sf - 1
  let s := if s.sf.state = .moving then s.stepEvent .sf left else s.restart .sf .lines left
  s.lineStart r

/-- A line end of SF, the end of LEAD among them (R91, R92, R96, R121). -/
def State.scanLineEnd (s : State) (r : RouteNo) : State :=
  let s := if s.scanner.phase = .lead then
      s.setScanner
        { s.scanner with
          phase := if s.scanner.shortLead then .trail else .capture
          lastLine := s.scanner.shortLead && (s.route r).trail == 0 }
    else s
  if s.scanner.lastLine || (s.route r).halt == .finish then s.beginEject r
  else if 0 < s.scanFree ∨ (s.sf.state = .moving ∧ ¬ s.mayRest .sf) then s.takeScanLine r
  else if s.sf.state = .moving then s.restMotor .sf .waitRoom .lines
  else s.setMotor .sf { s.sf with state := .waitRoom, motion := .lines }

/-- A slot has come free: an SF resting in WAIT-ROOM restarts (R122). -/
def State.roomRaised (s : State) : State :=
  match s.engines.scanner with
  | some r =>
    if s.sf.state = .waitRoom ∧ 0 < s.scanFree ∧ (s.route r).live then s.takeScanLine r else s
  | none => s

/-! ## FEED-IN and LEAD (R90, R91) -/

/-- LEAD begins (R90, R91): the step in progress, if any, is not counted. -/
def State.startLead (s : State) (r : RouteNo) : State :=
  let lead := (s.route r).lead
  let s := s.setScanner
    { s.scanner with phase := .lead, shortLead := false, trailLeft := (s.route r).trail }
  if s.sf.state = .moving then
    s.setMotor .sf { s.sf with motion := .lines, left := lead, overrun := false }
  else if lead = 0 then s.scanLineEnd r
  else s.restart .sf .lines (lead - 1)

/-- FEED-IN of a sheet begins, SF at rest (R89, R90). -/
def State.beginFeed (s : State) (r : RouteNo) : State :=
  let s := s.setScanner
    { s.scanner with
      phase := .feedIn, shortLead := false, captured := 0, mark := .none, lastLine := false
      sheetOut := false, pageAsked := false }
  if s.pins.docEdge then s.startLead r
  else if (s.route r).jam = 0 then s.jam r
  else s.restart .sf (.move .feedIn) ((s.route r).jam - 1)

/-- FEED-IN's move is complete without DOC-EDGE (R90): a jam; or, under a FINISH that shortened it before
its jam steps, the end of the route (R74, R96). -/
def State.feedInDone (s : State) (r : RouteNo) : State :=
  if (s.route r).halt = .finish ∧ s.sf.taken < (s.route r).jam then s.haltRoute r else s.jam r

/-! ## DOC-EDGE (R90 to R92) -/

/-- DOC-EDGE has become asserted: FEED-IN ends (R90); under FINISH the sheet goes on to EJECT (R96). -/
def State.edgeOn (s : State) (r : RouteNo) : State :=
  if s.scanner.phase = .feedIn then
    if (s.route r).halt = .finish then
      let s := s.setScanner { s.scanner with phase := .eject, lastLine := true }
      s.setMotor .sf
        { s.sf with motion := .move .eject, left := (s.route r).eject, overrun := false }
    else s.startLead r
  else s

/-- DOC-EDGE has become deasserted: LEAD is short (R91), CAPTURE passes to TRAIL (R92).  With a trail of 0
the line in hand is the last; at rest at its end EJECT begins at once (log entry 15).  Where the line in hand is
the last already, or under FINISH, CAPTURE stays and the line keeps its mark (DESIGN CHOICE, log entry 54). -/
def State.edgeOff (s : State) (r : RouteNo) : State :=
  match s.scanner.phase with
  | .lead => s.setScanner { s.scanner with shortLead := true }
  | .capture =>
    if s.scanner.lastLine || (s.route r).halt == .finish then s
    else
      let trail := (s.route r).trail
      let s := s.setScanner { s.scanner with phase := .trail, trailLeft := trail }
      if trail = 0 then
        let s := s.setScanner (s.scanner.markLast .normal)
        if s.sf.state = .waitRoom then s.beginEject r else s
      else s
  | _ => s

/-! ## The end of a sheet (R77, R95) -/

/-- The record's counts of a page are set to 0 under CONTINUE, those of the last page kept (R71, R77, R78). -/
def Route.nextPage (x : Route) : Route :=
  { x with
    linesDone := 0, badLines := 0, consecBad := 0, lastLineEnd := 0, badReported := false
    lastCounts := some x.pageCounts }

/-- The next sheet of a CONTINUE begins (R77, R95). -/
def State.nextSheet (s : State) (r : RouteNo) : State :=
  let x := s.route r
  let s := if s.scanner.pageAsked then s.queueReport (.pageDone r x.lastPage x.linesDone) else s
  let s := s.setRoute r { (s.route r).nextPage with skipped := 0 }
  s.beginFeed r

/-- A SCAN-STORE's sheet ends when it is out and its page closed, or none was opened (R94, R95). -/
def State.sheetPass (s : State) : State :=
  match s.engines.scanner with
  | none => s
  | some r =>
    let x := s.route r
    if x.isKind .scanStore && x.live && s.scanner.sheetOut && x.page.isNone
        && !s.coder.writer.opening then
      if x.halt = .finish then s.haltRoute r
      else if x.continues ∧ s.pins.docIn then s.nextSheet r
      else s.completeRoute r false none
    else s

end Sys2Proof.Machine
end

