-- ==== Sys2Proof/Machine/Print.lean ====
section
/-! DEFINITION. Printing: PF's lines (R118 to R120), the Print Decoder (R56, R57), the end of the print side, the
tail and the cut (R76, R111, R130). -/

namespace Sys2Proof.Machine

/-! ## Counts of a decoder (R55) -/

/-- A line is counted in the route record, and the limit tested (R55). -/
def State.countLine (s : State) (r : RouteNo) (good : Bool) : State :=
  let x := s.route r
  let y := if good then { x with linesDone := sat16 (x.linesDone + 1), consecBad := 0 }
    else
      { x with
        linesDone := sat16 (x.linesDone + 1), badLines := sat16 (x.badLines + 1)
        consecBad := sat16 (x.consecBad + 1) }
  if !good && decide (0 < x.badLimit) && y.consecBad == x.badLimit && !x.badReported then
    let s := s.setRoute r { y with badReported := true }
    let s := match x.kind, x.page with
      | some .printPage, some p => s.flagDamaged p (some r)
      | _, _ => s
    s.queueReport (.badLines r y.badLines y.consecBad)
  else s.setRoute r y

/-! ## Fetching (R33, R56) -/

/-- Page words of a bit length (R46). -/
def pageWords (bitLength : Nat) : Nat := (bitLength + 15) / 16

/-- A reader's fetch at the start of its page. -/
def Fetch.start (e : PageEntry) : Fetch :=
  { active := true, block := e.head, offset := 0, left := pageWords e.bitLength, queue := [] }

/-- Words of a burst join the queue (R56). -/
def Fetch.receive (f : Fetch) (ws : List Word) : Fetch :=
  { f with
    offset := f.offset + ws.length, left := f.left - ws.length, queue := f.queue ++ ws }

/-- A link word that passes its test becomes the current block (R33). -/
def Fetch.follow (f : Fetch) (block : Nat) : Fetch := { f with block := block, offset := 0 }

/-- The bits at and after a position from the front two words of a queue whose first word holds it, none at
or beyond the bit length. -/
def bitsAt (queue : List Word) (pos bitLength : Nat) : Bits :=
  (((queue.take 2).flatMap bitsOfWord).drop (pos % 16)).take (bitLength - pos)

/-- The queue after the position has moved on: words it has passed leave. -/
def dropPassed (queue : List Word) (before after : Nat) : List Word :=
  queue.drop (after / 16 - before / 16)

/-! ## The Print Decoder (R56, R57) -/

/-- What stands at the Print Decoder's position. -/
def State.printFinds (s : State) (table : List Byte) : Found :=
  let d := s.printDec
  let bs := bitsAt d.fetch.queue d.dec.pos d.bitLength
  findAt table d.dec bs (d.bitLength ≤ d.dec.pos + bs.length)

/-- The Print Decoder acts on what it finds: dots of a code are painted, a line buffer begins white. -/
def PrintDecoder.act (d : PrintDecoder) (count : Nat) (found : Found) : PrintDecoder × Verdict :=
  let (dec, v) := d.dec.act count found
  let buffer := match found with
    | .code value _ _ =>
      if d.dec.black && decide (d.dec.sum < dec.sum) then Dots.paint d.buffer d.dec.sum value
      else d.buffer
    | .sync _ => Dots.white
    | _ => d.buffer
  ({ d with
      dec := dec, buffer := buffer
      fetch := { d.fetch with queue := dropPassed d.fetch.queue d.dec.pos dec.pos } }, v)

/-- The Print Decoder advances as far as the next line it classifies, its end, or bits it waits for. -/
def State.printAdvance : Nat → State → List Byte → State
  | 0, s, _ => s
  | n + 1, s, table =>
    if s.printDec.held.isSome || s.printDec.told then s
    else
      let (d, v) := s.printDec.act (endCount table) (s.printFinds table)
      if v = .none ∧ d.dec ≠ s.printDec.dec then
        State.printAdvance n { s with printDec := d } table
      else s

/-- A take that lowers the ready count to the watermark withdraws a standing stutter request (R154), and so does one
that leaves it below a watermark raised since (DESIGN CHOICE, log entry 70). -/
def State.lowWater (s : State) : State :=
  if s.power.level = some .run ∧ s.head.ready.length ≤ s.power.watermark then s.withdrawOrdinary else s

/-- PF takes the oldest READY line (R107), and the watermark comes into force (R145). -/
def State.takeLine (s : State) (r : RouteNo) : State :=
  match s.head.ready with
  | l :: rest =>
    let s := s.takeWatermark
    { s with head :=
      { s.head with
        ready := rest, current := some l, burn := some (burnOf s.now r l.plan) } }.lowWater
  | [] => s

/-- A take by PF, moving at a line end or from rest, and the room it gives SF in COPY (R116, R119,
R122). -/
def State.pfTake (s : State) (r : RouteNo) : State :=
  let s := s.takeLine r
  let left := s.splOf .pf - 1
  let s := if s.pf.state = .moving then s.stepEvent .pf left else s.restart .pf .lines left
  if s.copying then s.roomRaised else s

/-- PF at rest takes a line where one is ready, the head is settled and not hot, and PAPER is present
(R120). -/
def State.mayPrint (s : State) : Bool :=
  decide (0 < s.head.ready.length) && s.headReady && !s.headHot && !s.pins.paperOut

/-- The COPY's capture of its sheet has ended (R111). -/
def State.captureEnded (s : State) (r : RouteNo) : Bool :=
  (s.scanner.lastLine || s.scanner.sheetOut || (s.route r).halt == .finish) && !s.scanner.capturing

/-- The print side is complete (R111). -/
def State.printComplete (s : State) (r : RouteNo) : Bool :=
  (if (s.route r).isKind .copy then s.captureEnded r
    else s.printDec.told && s.printDec.held.isNone)
  && s.head.ready.isEmpty && s.head.burnDone

/-- A PF resting in WAIT-DATA or WAIT-COOL is re-examined (R120). -/
def State.pfReexamine (s : State) : State :=
  match s.engines.printer with
  | none => s
  | some r =>
    if (s.pf.state = .waitData ∨ s.pf.state = .waitCool) ∧ (s.route r).live
        ∧ s.printComplete r = false then
      if s.mayPrint then s.pfTake r
      else
        s.setMotor .pf
          { s.pf with
            state := if s.headHot || !s.headSettled then .waitCool else .waitData }
    else s

/-- A PF resting under an uncomplete print side ends its route when PAPER goes out (R120). -/
def State.pfPaperOut (s : State) : State :=
  match s.engines.printer with
  | none => s
  | some r =>
    if (s.pf.state = .waitData ∨ s.pf.state = .waitCool) ∧ (s.route r).live
        ∧ s.printComplete r = false ∧ s.pins.paperOut then
      s.failRoute r .paper
    else s

/-- PF's line end (R119). -/
def State.pfLineEnd (s : State) (r : RouteNo) : State :=
  let asks := decide (0 < s.head.ready.length)
    && (!s.mayRest .pf || (s.headSettled && !s.headHot && !s.pins.paperOut))
  if asks && s.headReady then s.pfTake r
  else
    let complete := s.printComplete r
    let s := { s with head := { s.head with current := none, burn := none } }
    if complete then s.restMotor .pf .waitData .lines
    else if s.pins.paperOut then (s.restMotor .pf .waitPaper .lines).failRoute r .paper
    else if s.headHot || !s.headSettled then s.restMotor .pf .waitCool .lines
    else s.restMotor .pf .waitData .lines

/-- The burn of the current line is complete: a stretched last step ends (R108, R118). -/
def State.burnComplete (s : State) : State :=
  match s.engines.printer with
  | some r => if s.pf.stretched && s.pf.state == .moving then s.pfLineEnd r else s
  | none => s

/-- The last step of a print line has expired: the line end, or a stretch where the burn runs on (R118). -/
def State.pfLineExpiry (s : State) (r : RouteNo) : State :=
  if s.head.burnDone then s.pfLineEnd r
  else
    let high := !s.mayRest .pf
    let burn := (s.head.current.map fun l => l.plan.burn).getD 0
    let s := s.setMotor .pf { s.pf with stretched := true, timer := none }
    if high then s.queueReport (.stretch r s.pf.index burn) else s

/-- The held line of the Print Decoder enters the ring as soon as a slot is free (R57, R98). -/
def State.placeHeld (s : State) : State :=
  match s.printDec.held with
  | some d =>
    if 0 < s.head.freeSlots then
      ({ s with printDec := { s.printDec with held := none } }.enterRing d).pfReexamine
    else s
  | none => s

/-- The Print Decoder goes on as far as it can. -/
def State.printPass (s : State) : State :=
  match s.printDec.slot with
  | some r =>
    let x := s.route r
    if x.live && x.state != .armed && !s.heldByDamage r then
      s.placeHeld.printAdvance 320 (s.storage x.code)
    else s
  | none => s

/-! ## Going RUNNING (R66, R119) -/

/-- PF of a print route that goes RUNNING is placed at rest (R119). -/
def State.placePf (s : State) : State :=
  s.setMotor .pf
    { s.pf with state := if s.headHot then .waitCool else .waitData, motion := .lines }

/-- The arming condition (R66). -/
def State.armed (s : State) (x : Route) : Bool :=
  match x.kind with
  | some .scanStore => s.pins.docIn && s.scanner.lamp == .warm
  | some .copy => s.pins.docIn && s.scanner.lamp == .warm && s.headSettled
  | some .printPage => s.headSettled
  | _ => false

/-- An ARMED route whose condition holds goes RUNNING (R66). -/
def State.armRoute (s : State) (r : RouteNo) : State :=
  let x := s.route r
  if x.state = .armed ∧ x.live ∧ s.armed x then
    let s := s.routeTo r .running
    match x.kind with
    | some .scanStore => s.beginFeed r
    | some .copy => s.placePf.beginFeed r
    | some .printPage =>
      match x.page with
      | some p =>
        let e := s.page p
        { s.placePf with printDec :=
          { PrintDecoder.idleDecoder with
            slot := some r, fetch := Fetch.start e, bitLength := e.bitLength } }
      | none => s
    | _ => s
  else s

def State.armPass (s : State) : State := (allFin 4).foldl State.armRoute s

/-! ## Tail and cut (R76, R130, R131) -/

/-- A cut starts, from IDLE (R130).  A cut under way whose route has ended becomes the new owner's (DESIGN
CHOICE, log entry 50). -/
def State.startCut (s : State) (owner : CutOwner) : State :=
  if s.cutter.state = .idle then
    { s with cutter :=
      { state := if s.pins.home then .out else .back
        timer := some (s.now + 1000 * s.setup.cutter), owner := some owner } }
  else if s.cutter.cutting && s.cutter.owner.isNone then
    { s with cutter := { s.cutter with owner := some owner } }
  else s

/-- The tail's cut (R76). -/
def State.routeCut (s : State) (r : RouteNo) : State :=
  (s.setRoute r { s.route r with cutStage := .cut }).startCut (.route r)

/-- CUT-AFTER begins its tail (R76). -/
def State.beginTail (s : State) (r : RouteNo) : State :=
  let tail := (s.route r).tail
  let s := s.setRoute r { s.route r with cutStage := .tail }
  if tail = 0 then (s.setMotor .pf { s.pf with state := .idle, motion := .none }).routeCut r
  else s.restart .pf (.move .tail) (tail - 1)

/-- A print or copy route whose data is complete ends, or begins its tail (R70, R76, R111). -/
def State.printEndPass (s : State) : State :=
  match s.engines.printer with
  | none => s
  | some r =>
    let x := s.route r
    if x.live && (x.state == .running || x.state == .halting) && x.halt != .nowWaiting
        && x.cutStage == .none && s.printComplete r && s.pf.state != .moving
        && (!x.isKind .copy || s.scanner.sheetOut) then
      if x.cutAfter ∧ x.halt ≠ .finish then s.beginTail r
      else s.completeRoute r s.printDec.unterminated none
    else s

/-- A route halted NOW, waiting on a cut that has no owner any longer, ends HALTED with it (R75). -/
def State.waiterEnds (s : State) : State :=
  match s.engines.printer with
  | some r => if (s.route r).halt = .nowWaiting then s.haltRoute r else s
  | none => s

/-- The cut's owner is told that it has ended (R75, R76, R130); with no owner, the route that waits on it. -/
def State.cutDone (s : State) : State :=
  let owner := s.cutter.owner
  let s := { s with cutter := { state := .idle, timer := none, owner := none } }
  match owner with
  | some .order => s.queueReport .cutDone
  | some (.route r) =>
    if (s.route r).halt = .nowWaiting then s.haltRoute r
    else s.completeRoute r s.printDec.unterminated none
  | none => s.waiterEnds

/-- A route ends by a cut that has failed: HALTED where a NOW waited on the cut, else FAILED(CUTTER) (R75, R130). -/
def State.cutFails (s : State) (r : RouteNo) : State :=
  if (s.route r).halt = .nowWaiting then s.haltRoute r else s.failRoute r .cutter

/-- The cut has failed (R130).  An engine in FAULT is claimed by no route (R80): where the cut had no owner any
longer, the route that claims PRINTER ends as its owner would (DESIGN CHOICE but for a route that waits on the cut,
log entry 50). -/
def State.cutFailed (s : State) : State :=
  let owner := s.cutter.owner
  let slot := match owner with
    | some (.route r) => some r
    | _ => none
  let s := { s with
    cutter := { state := .fault, timer := none, owner := none }
    engines := { s.engines with printerFault := true } }
  let s := s.queueReport (.cutTimeout slot)
  match owner with
  | some (.route r) => s.cutFails r
  | some .order => s
  | none =>
    match s.engines.printer with
    | some r => s.cutFails r
    | none => s

/-- A cut is stopped by a COVER opening or power-fail entry (R131). -/
def State.stopCut (s : State) (report : Bool) : State :=
  if s.cutter.cutting then
    let state : CutterState := if s.cutter.state = .out then .idle else .fault
    let s := { s with cutter := { state := state, timer := none, owner := none } }
    if report then s.queueReport (.cutStopped state) else s
  else s

/-- A move is complete and its owner told (R123, R124). -/
def State.moveDone (s : State) (m : MotorName) (owner : MoveOwner) : State :=
  match owner with
  | .feedIn => match s.engines.scanner with
    | some r => s.feedInDone r
    | none => s
  | .eject => s.sheetIsOut
  | .tail => match s.engines.printer with
    | some r => s.routeCut r
    | none => s
  | .order =>
    let mo := s.motor m
    let s := s.setMotor m { mo with claim := none, slot := none }
    let s := match mo.slot with
      | some t => s.unbind t
      | none => s
    s.queueReport (.moved m mo.taken false)

/-- A motor's step timer expires (R115, R118, R121, R123, R125). -/
def State.stepExpiry (s : State) (m : MotorName) : State :=
  let mo := s.motor m
  match mo.motion with
  | .none => s
  | .runDown =>
    if s.mayRest m then
      let s := s.restMotor m .idle .none
      s.setMotor m { s.motor m with claim := none, copy := none }
    else s.stepEvent m 0
  | .move owner =>
    let (s, done) := s.moveStep m mo.left
    if done then s.moveDone m owner else s
  | .lines =>
    if 0 < mo.left then s.stepEvent m (mo.left - 1)
    else
      match s.motorRoute m, m with
      | some r, .pf => s.pfLineExpiry r
      | some r, .sf => s.scanLineEnd r
      | none, _ => s

end Sys2Proof.Machine
end

