-- ==== Sys2Proof/Machine/Line.lean ====
section
/-! DEFINITION. The Line Port: reception (R136 to R140) and sending (R141 to R144), with the Check Decoder (R58,
R59). -/

namespace Sys2Proof.Machine

def State.setLine (s : State) (l : LinePort) : State := { s with line := l }

/-! ## Reception: the Check Decoder (R58) -/

/-- Storing stops at a position (R139): bytes from it on leave the FIFO, and the bits of the byte it lies in
at and after it are zero. -/
def LinePort.stopAt (l : LinePort) (stop : StopPoint) : LinePort :=
  let gone := l.stored / 8 - l.rxFifo.length
  let keep := (stop.pos + 7) / 8 - gone
  let kept := l.rxFifo.take keep
  let last := stop.pos % 8
  let kept := if last = 0 ∨ keep = 0 ∨ l.rxFifo.length < keep then kept
    else
      kept.dropLast ++
        [byteOfBits ((bitsOfByte (kept.getLastD 0)).take last ++ List.replicate (8 - last) false)]
  { l with
    rxFifo := kept, stop := some stop, rx := .flushing, carrier := none, assembly := [], ahead := [] }

/-- The sync at `x` has ended a line: the route's last line end (R4, R58), a pending line end (R137), and
the stop of a FINISH (R139). -/
def State.rxLineEnd (s : State) (r : RouteNo) (x : Nat) : State :=
  let s := s.setRoute r { s.route r with lastLineEnd := x }
  let e : LineEnd := { pos := x, lines := (s.route r).linesDone, bad := (s.route r).badLines }
  if (s.route r).halt = .finish then
    s.setLine (s.line.stopAt { pos := x, lines := e.lines, bad := e.bad, endPattern := false })
  else
    let w := s.line.writer.addEnd e
    s.setLine { s.line with writer :=
      { w with ends := w.ends.drop (w.ends.length - Config.lineEndCap) } }

/-- The Check Decoder examines the bits that have arrived (R58). -/
def State.rxExamine : Nat → State → RouteNo → State
  | 0, s, _ => s
  | n + 1, s, r =>
    if s.line.stop.isSome || !(s.route r).live then s
    else
      let table := s.storage (s.route r).code
      let d := s.line.dec
      let found := findAt table d s.line.ahead false
      let (d', v) := d.act (endCount table) found
      if found = .wait then s
      else
        let s := s.setLine
          { s.line with dec := d', ahead := s.line.ahead.drop (d'.pos - d.pos) }
        let s := match v with
          | .good => s.countLine r true
          | .bad => s.countLine r false
          | _ => s
        let s := match found with
          | .sync _ => if d.state = .synced then s else s.rxLineEnd r d.pos
          | _ => s
        let s := match v with
          | .ended true =>
            s.setLine (s.line.stopAt
              { pos := d'.pos, lines := (s.route r).linesDone, bad := (s.route r).badLines
                endPattern := true })
          | _ => s
        State.rxExamine n s r

/-- A byte completes with the FIFO full (R138). -/
def State.rxDrop (s : State) (r : RouteNo) : State :=
  let n := sat16 (s.line.dropped + 1)
  let s := s.setLine { s.line with dropped := n, assembly := [] }
  let d := s.line.dec
  let s := if d.state = .line ∨ d.state = .synced then
      (s.setLine
        { s.line with dec := { d with state := .skip, pos := s.line.stored }, ahead := [] }).countLine r
          false
    else s
  s.queueReport (.overrun r n)

/-- A byte completes (R137): it enters the FIFO and its bits are examined, those the decoder has passed
already left out. -/
def State.rxByteDone (s : State) (r : RouteNo) (bits : Bits) : State :=
  if Config.lineFifoCap ≤ s.line.rxFifo.length then s.rxDrop r
  else
    let l := s.line
    let known := l.dec.pos + l.ahead.length - l.stored
    let s := s.setLine
      { l with
        rxFifo := l.rxFifo ++ [byteOfBits bits], stored := l.stored + 8, assembly := []
        ahead := l.ahead ++ bits.drop known }
    s.rxExamine 40 r

/-- A received bit is stored (R137). -/
def State.rxStore (s : State) (r : RouteNo) (b : Bool) : State :=
  let bits := s.line.assembly ++ [b]
  if bits.length = 8 then s.rxByteDone r bits else s.setLine { s.line with assembly := bits }

/-! ## Reception: the first sync (R136, R150) -/

/-- A first sync at DOZE or ENTERING-DOZE moves the level to DOZE-RX, where the blocks that reception does
not need stand still, the converter among them (R104, R150); at another level LINE is recorded where a cause
is (R148). -/
def State.lineWake (s : State) : State :=
  match s.power.level with
  | some .doze | some .enteringDoze =>
    { s with
      power := { s.power.record .line with level := some .dozeRx, step := .none, asleep := true }
      head := { s.head with sampleTimer := none } }.withdrawOrdinary
  | some .waking => { s with power := s.power.record .line }
  | _ => s

/-- The first sync of `bits` is matched (R136). -/
def State.firstSync (s : State) (r : RouteNo) (bits : Bits) : State :=
  let s := s.lineWake
  let bytes := bits.length / 8
  let whole := (List.range bytes).map fun i => byteOfBits ((bits.drop (8 * i)).take 8)
  let s := s.setLine
    { s.line with
      rx := .storing, window := [], assembly := bits.drop (8 * bytes), rxFifo := whole
      stored := 8 * bytes, ahead := [], writer := Writer.fresh, dropped := 0, stop := none
      dec := { Decoder.start with pos := bits.length, state := .synced, syncs := 1 } }
  (s.routeTo r .running).askOpen r .lineReceive

/-- A bit is taken in SEEKING (R136). -/
def State.rxSeek (s : State) (r : RouteNo) (b : Bool) : State :=
  if s.pins.lineValid then
    let sync := syncBits (s.storage (s.route r).code)
    let window := s.line.window ++ [b]
    let window := window.drop (window.length - 16)
    if !sync.isEmpty && sync.isSuffixOf window then s.firstSync r sync
    else s.setLine { s.line with window := window }
  else s

/-- A received bit, by the receive side's state (R135). -/
def State.rxBit (s : State) (b : Bool) : State :=
  match s.line.slot with
  | none => s
  | some r =>
    if !(s.route r).live then s
    else
      match s.line.rx with
      | .seeking => s.rxSeek r b
      | .storing => s.rxStore r b
      | _ => s

/-! ## Reception: the close (R139, R78) -/

/-- The normal close of a received page (R5, R139). -/
def StopPoint.close (p : StopPoint) : PageClose :=
  { truncated := false, bitLength := p.pos, lineCount := some p.lines, badLines := p.bad }

/-- Under CONTINUE the page closes and the route returns to ARMED (R78, R139, R151). -/
def State.rxAgain (s : State) (r : RouteNo) (p : PageNo) (c : PageClose) : State :=
  let lines := (s.route r).linesDone
  let s := s.closePage r p c
  let s := s.queueReport (.pageDone r (some p) lines)
  let s := s.setRoute r { (s.route r).nextPage with received := true }
  let s := s.setLine
    { LinePort.idlePort with
      slot := some r, rx := .seeking, txd := s.line.txd, dropped := s.line.dropped }
  let s := s.routeTo r .armed
  if s.pins.lineValid then s.returnToDoze (some .lineReceive)
  else s.completeRoute r false none

/-- FLUSHING ends with its last word written (R139). -/
def State.rxPass (s : State) : State :=
  match s.line.slot, s.line.stop with
  | some r, some stop =>
    let x := s.route r
    match x.page with
    | some p =>
      if x.live ∧ s.line.rx = .flushing ∧ s.line.rxFifo.isEmpty then
        if stop.endPattern ∧ x.continues ∧ x.halt ≠ .finish then
          if s.imageNeed p ≤ s.dirPlaces then s.rxAgain r p stop.close else s
        else s.completeRoute r false (some stop.close)
      else s
    | none => s
  | _, _ => s

/-! ## Sending: the Check Decoder and the tx FIFO (R59, R141, R142) -/

/-- Page bytes from byte number `first` on, from a queue whose front word holds it. -/
def bytesFrom (queue : List Word) (first n : Nat) : List Byte :=
  ((queue.flatMap fun w => [highByte w, lowByte w]).drop (first % 2)).take n

/-- Bytes enter the tx FIFO, the one that holds the marked position with its mark (R141). -/
def LinePort.enter (l : LinePort) (bytes : List Byte) : LinePort :=
  let mark (i : Nat) : Option (Nat × Nat) :=
    match l.markAt with
    | some (x, fill) => if x / 8 = l.entered + i then some (x, fill) else none
    | none => none
  let entered := l.entered + bytes.length
  { l with
    txFifo := l.txFifo ++ bytes.mapIdx fun i b => TxByte.mk b (mark i)
    entered := entered, inUnderrun := l.inUnderrun && bytes.isEmpty
    markAt := match l.markAt with
      | some (x, fill) => if x / 8 < entered then none else some (x, fill)
      | none => none
    fetch := { l.fetch with queue := dropPassed l.fetch.queue (8 * l.entered) (8 * entered) } }

/-- The fill owed before the sync at `x` (R142): that of the line whose sync was taken last, and with it, where
`lost` says that a sync was lost, that of the line whose sync it was, which has no length: a free value, the sum
within the fill counter's 4800 (R135; log entry 10). -/
def LinePort.fillMark (l : LinePort) (minBits x : Nat) (lost : Bool) : Nat :=
  min Config.fillCap
    ((match l.lineSync with
      | some start => minBits - (l.lineEnd.getD x - start)
      | none => 0)
    + if lost then Config.lostSyncFill x % (minBits + 1) else 0)

/-- The line under SKIP lost its own sync: the line before it had ended, or there was none. -/
def LinePort.lostSync (l : LinePort) (d : Decoder) : Bool :=
  d.state == .skip && (l.lineEnd.isSome || l.lineSync.isNone)

/-- The marks of lines as the Check Decoder moves from `d` to `d'` (R59): where a line begins, where a good
line ends, and the fill mark at a sync that follows a line. -/
def LinePort.note (l : LinePort) (d d' : Decoder) (found : Found) (v : Verdict)
    (sync minBits : Nat) : LinePort :=
  match found with
  | .sync _ =>
    if d.state = .synced then l
    else
      let after := d.state = .line || d.state = .skip || l.lineEnd.isSome
      { l with
        markAt := if after then some (d.pos, l.fillMark minBits d.pos (l.lostSync d)) else l.markAt
        lineSync := none, lineEnd := none }
  | .code .. =>
    let l := if d.state = .synced then { l with lineSync := some (d.pos - sync) } else l
    if v = .good then { l with lineEnd := some d'.pos } else l
  | .noMatch => if d.state = .synced then { l with lineSync := some (d.pos - sync) } else l
  | _ => l

/-- The Check Decoder's counts in LINE-SEND (R55, R59). -/
def State.countVerdict (s : State) (r : RouteNo) : Verdict → State
  | .good => s.countLine r true
  | .bad => s.countLine r false
  | _ => s

/-- The Check Decoder's next move in LINE-SEND, up to its end (R59, R141): none where bits, or places of the
tx FIFO, are wanting; `last` where the move is the one to ENDED. -/
def State.txMove (s : State) (r : RouteNo) (last : Bool) : Option State :=
  let l := s.line
  let x := s.route r
  let table := s.storage x.code
  let bs := bitsAt l.fetch.queue l.dec.pos l.bitLength
  let found := findAt table l.dec bs (l.bitLength ≤ l.dec.pos + bs.length)
  let (d', v) := l.dec.act (endCount table) found
  let ending := match v with
    | .ended _ => true
    | _ => false
  if found = .wait ∨ l.dec.state = .ended ∨ ending ≠ last then none
  else
    let stop := match v with
      | .ended false => l.bitLength
      | _ => d'.pos
    let upTo := if ending then (stop + 7) / 8 else stop / 8
    let n := upTo - l.entered
    if Config.lineFifoCap < l.txFifo.length + n then none
    else
      let l := l.note l.dec d' found v (syncBits table).length x.minBits
      let l := { l with dec := d' }.enter (bytesFrom l.fetch.queue l.entered n)
      let l := if ending then
          { l with endPos := some stop, unterminated := v == .ended false }
        else l
      some ((s.setLine l).countVerdict r v)

/-- The Check Decoder advances as far as it can, short of its end. -/
def State.txAdvance : Nat → State → RouteNo → State
  | 0, s, _ => s
  | n + 1, s, r =>
    match s.txMove r false with
    | some t => State.txAdvance n t r
    | none => s

/-- PRIMING ends (R141): the tx FIFO is full, or has received its last byte. -/
def State.txPrime (s : State) : State :=
  if s.line.tx = .priming ∧
      (Config.lineFifoCap ≤ s.line.txFifo.length ∨ s.line.endPos.isSome) then
    s.setLine { s.line with tx := .sending }
  else s

/-- Every bit before the end position has gone out already when the end is found: of a page of no bits, or of
one that runs out at its last bit (R54, R144).  The route ends DONE. -/
def State.txEnd (s : State) (r : RouteNo) : State :=
  if s.line.tx = .sending ∧ s.line.endPos = some s.line.sent then
    s.completeRoute r s.line.unterminated none
  else s

/-- The send side goes on as far as it can. -/
def State.txPass (s : State) : State :=
  match s.line.slot with
  | some r =>
    let x := s.route r
    if x.isKind .lineSend && x.live && s.line.tx != .idle && x.halt != .finish
        && !s.heldByDamage r then
      (s.txAdvance 320 r).txPrime.txEnd r
    else s
  | none => s

/-! ## Sending: the transmit clock (R142 to R144) -/

/-- What the next transmit clock does. -/
inductive TxNext where
  /-- A zero: PRIMING, or no LINE-SEND is sending. -/
  | zero
  /-- A zero of fill; `load` where the fill of a mark is loaded by it. -/
  | fill (load : Option Nat)
  /-- The FIFO is empty. -/
  | empty
  /-- A page bit; `last` where it is the last before the end. -/
  | bit (b : Bool) (last : Bool)
deriving DecidableEq, Repr

/-- The last page bit has gone out with this one (R144): the end position, or under FINISH the last bit of
the last byte in the FIFO.  Under FINISH with the end position found, the route ends HALTED at the end position, and
the bits of its byte beyond it are not sent (DESIGN CHOICE, log entry 56). -/
def State.txLast (s : State) (r : RouteNo) : Bool :=
  s.line.endPos == some (s.line.sent + 1)
    || ((s.route r).halt == .finish && s.line.endPos.isNone && s.line.txBit == 7
      && s.line.txFifo.length == 1)

/-- What the next transmit clock finds (R142, R143). -/
def State.txNext (s : State) : TxNext :=
  match s.line.slot, s.line.tx with
  | some r, .sending =>
    if (s.route r).live then
      if 0 < s.line.fill then .fill none
      else
        match s.line.txFifo with
        | [] => .empty
        | t :: _ =>
          let fill := match t.mark with
            | some (x, n) => if x = s.line.sent then n else 0
            | none => 0
          if 0 < fill then .fill (some fill)
          else .bit ((bitsOfByte t.byte).getD s.line.txBit false) (s.txLast r)
    else .zero
  | _, _ => .zero

/-- A byte's mark once its fill has been loaded. -/
def TxByte.unmarked (t : TxByte) : TxByte := { t with mark := none }

/-- A page bit goes out: a byte gone out frees its place (R141). -/
def LinePort.sendBit (l : LinePort) (b : Bool) : LinePort :=
  let l := { l with txd := b, sent := l.sent + 1 }
  if l.txBit = 7 then { l with txBit := 0, txFifo := l.txFifo.drop 1 }
  else { l with txBit := l.txBit + 1 }

/-- A transmit clock. -/
def State.txClock (s : State) : State :=
  let l := s.line
  match s.txNext with
  | .zero => s.setLine { l with txd := false }
  | .fill (some n) =>
    s.setLine
      { l with
        txd := false, fill := n - 1
        txFifo := (l.txFifo.take 1).map TxByte.unmarked ++ l.txFifo.drop 1 }
  | .fill none => s.setLine { l with txd := false, fill := l.fill - 1 }
  | .empty =>
    if l.inUnderrun then s.setLine { l with txd := false }
    else
      let n := sat16 (l.underruns + 1)
      let s := s.setLine { l with txd := false, underruns := n, inUnderrun := true }
      match l.slot with
      | some r => s.queueReport (.underrun r n)
      | none => s
  | .bit b last =>
    let s := s.setLine (l.sendBit b)
    match l.slot with
    | some r => if last then s.completeRoute r l.unterminated none else s
    | none => s

/-! ## LINE-VALID (R78, R140) -/

/-- The carrier timer runs only while storing (R140). -/
def State.carrierWatch (s : State) (r : RouteNo) (valid : Bool) : State :=
  if s.line.rx = .storing then
    s.setLine
      { s.line with
        carrier := if valid then none else some (s.now + 1000 * (s.route r).carrierMs) }
  else if s.line.rx = .seeking ∧ valid = false then
    let s := s.setLine { s.line with window := [] }
    if (s.route r).received then s.completeRoute r false none else s
  else s

/-- A debounced change of LINE-VALID. -/
def State.lineValidTo (s : State) (valid : Bool) : State :=
  let s := { s with pins := { s.pins with lineValid := valid } }
  match s.line.slot with
  | some r => if (s.route r).live then s.carrierWatch r valid else s
  | none => s

end Sys2Proof.Machine
end

