-- ==== Sys2Proof/Machine/HostFlow.lean ====
section
/-! DEFINITION. The host flows (R68, R69) and the outbound multiplexer (R183). -/

namespace Sys2Proof.Machine

/-! ## HOST-IN (R68) -/

/-- A byte of a DATA order is placed: none where the queue is full and the byte would complete a word.  A
route that has ended takes no byte, and the byte is discarded. -/
def State.placeByte (s : State) (r : RouteNo) (b : Byte) : Option State :=
  let h := s.hostIn
  if h.slot ≠ some r ∨ (s.route r).live = false then some s
  else
    match h.half with
    | none => some { s with hostIn := { h with half := some b, taken := h.taken + 1 } }
    | some high =>
      if h.queue.length < Config.hostInCap then
        some { s with hostIn :=
          { h with half := none, queue := h.queue ++ [wordOfBytes high b], taken := h.taken + 1 } }
      else none

/-- The last byte of a DATA order has been placed (R68). -/
def State.placedOrder (s : State) (r : RouteNo) (final : Bool) : State :=
  let h := s.hostIn
  if h.slot = some r then
    { s with hostIn :=
      { h with
        finalPlaced := h.finalPlaced || final
        writer := h.writer.addEnd { pos := 8 * h.taken, lines := 0, bad := 0 } } }
  else s

/-- The route's last line end is the covered one (R67, R68). -/
def State.hostInEnds (s : State) (r : RouteNo) : State :=
  s.setRoute r { s.route r with lastLineEnd := s.hostIn.writer.covered.pos }

/-- The last line end advances; once the final bytes are placed a waiting half word is padded, and the route
ends as its queue is written (R67, R68, R74).  Under a FINISH after a final DATA with a line count the page
closes with that count (DESIGN CHOICE, log entry 43).  A route halted under FINISH before its page has opened stays
HALTING until the page opens, and then closes it, empty as it may be (DESIGN CHOICE, log entry 73). -/
def State.hostInPass (s : State) : State :=
  match s.hostIn.slot with
  | some r =>
    let x := s.route r
    let s := if x.live then s.hostInEnds r else s
    if x.live && s.hostFlushing then
      let h := s.hostIn
      let h := match h.half with
        | some high =>
          if h.queue.length < Config.hostInCap then
            { h with half := none, queue := h.queue ++ [wordOfBytes high 0] }
          else h
        | none => h
      let s := { s with hostIn := h }
      if h.queue.isEmpty && h.half.isNone && x.page.isSome then
        s.completeRoute r false
          (some { truncated := false, bitLength := 8 * h.taken, lineCount := h.lineCount
                  badLines := 0 })
      else s
    else s
  | none => s

/-! ## PAGE-HOST (R69) -/

/-- Page bytes of a bit length. -/
def pageBytes (bitLength : Nat) : Nat := (bitLength + 7) / 8

/-- Bits of a page byte at or beyond the bit length are sent as zeros. -/
def maskByte (bitLength sent : Nat) (b : Byte) : Byte :=
  let real := bitLength - 8 * sent
  if 8 ≤ real then b else byteOfBits ((bitsOfByte b).take real ++ List.replicate (8 - real) false)

/-- The next page byte of the queue, and the flow without it. -/
def HostOut.nextByte (h : HostOut) : Option (Byte × HostOut) :=
  match h.fetch.queue with
  | [] => none
  | w :: rest =>
    let b := maskByte h.bitLength h.sent (if h.lowNext then lowByte w else highByte w)
    let sent := h.sent + 1
    let gone := h.lowNext || sent == pageBytes h.bitLength
    some (b,
      { h with
        lowNext := !h.lowNext, sent := sent
        fetch := { h.fetch with queue := if gone then rest else w :: rest } })

/-- The DATA report the PAGE-HOST route would begin (R69), and the flow with it begun. -/
def State.dataReport (s : State) : Option (OutRecord × HostOut) :=
  match s.hostOut.slot with
  | some r =>
    let h := s.hostOut
    let x := s.route r
    if x.live && x.halt == .none && !h.finalBegun then
      let left := pageBytes h.bitLength - h.begun
      let n := min 256 left
      let final := n == left
      some ({ bytes := recordBytes 0x8D (n + 3) (number r.val ++ flagByte final)
              data := some { slot := r, left := n, final := final, cutShort := false } },
        { h with begun := h.begun + n, finalBegun := final })
    else none
  | none => none

/-! ## The multiplexer (R183) -/

/-- The multiplexer may begin a record (R147, R156, R183).  It begins none at WAKING, from whatever level that was
reached (DESIGN CHOICE, log entry 76). -/
def State.mayBegin (s : State) : Bool :=
  s.boot.state == .ready &&
    (match s.power.level with
      | some .run | some .dozeRx | some .enteringRetain => true
      | _ => false)

/-- The multiplexer runs: not before RELEASE, nor while its clocks are stopped (R147, R156). -/
def State.muxRuns (s : State) : Bool :=
  s.boot.state == .ready && s.power.level != some .doze && s.power.level != some .retain

/-- The bytes of the record still to enter the FIFO. -/
def OutRecord.remaining (x : OutRecord) : Nat :=
  x.bytes.length + (x.data.map DataOut.left).getD 0

/-- The next byte of the record under way, and the state with it drawn; none where the page's words have
not come. -/
def State.drawByte (s : State) (x : OutRecord) : Option (Byte × State) :=
  match x.bytes with
  | b :: rest => some (b, { s with port := { s.port with record := some { x with bytes := rest } } })
  | [] =>
    match x.data with
    | some d =>
      let less : OutRecord := { x with data := some { d with left := d.left - 1 } }
      if d.left = 0 then none
      else if d.cutShort then some (0, { s with port := { s.port with record := some less } })
      else if s.heldByDamage d.slot then none
      else
        s.hostOut.nextByte.map fun (b, h) =>
          (b, { s with port := { s.port with record := some less }, hostOut := h })
    | none => none

/-- A byte enters the outbound FIFO. -/
def State.putOut (s : State) (b : Byte) : State :=
  { s with port := { s.port with outFifo := s.port.outFifo ++ [b] } }

/-- The record's bytes but its last enter the FIFO as places and words allow; the last byte's entry is
RECORD_COMPLETE. -/
def State.outPass : Nat → State → State
  | 0, s => s
  | n + 1, s =>
    match s.port.record with
    | some x =>
      if s.muxRuns && decide (1 < x.remaining)
          && decide (s.port.outFifo.length < Config.streamFifoCap) then
        match s.drawByte x with
        | some (b, t) => State.outPass n (t.putOut b)
        | none => s
      else s
    | none => s

/-- The oldest entry that is not withheld, and the queue without it. -/
def oldestShown : List QueueEntry → Option (QueueEntry × List QueueEntry)
  | [] => none
  | e :: rest =>
    if e.withheld then (oldestShown rest).map fun (x, es) => (x, e :: es) else some (e, rest)

/-- At a record boundary a record is begun (R183). -/
def State.beginRecord (s : State) : State :=
  if s.port.record.isNone && s.mayBegin then
    match oldestShown s.reports with
    | some (e, rest) =>
      State.outPass Config.streamFifoCap
        { s with
          reports := rest
          port := { s.port with record := some { bytes := e.record, data := none } } }
    | none =>
      match s.dataReport with
      | some (x, h) =>
        State.outPass Config.streamFifoCap
          { s with port := { s.port with record := some x }, hostOut := h }
      | none => s
  else s

/-- What follows the last byte of a DATA report (R69, R74): DONE at the final one, HALTED under FINISH. -/
def State.dataDone (s : State) (d : Option DataOut) : State :=
  match d with
  | some d =>
    if !d.cutShort && (d.final || (s.route d.slot).halt == .finish) then
      s.completeRoute d.slot false none
    else s
  | none => s

/-- The last byte of the record enters the FIFO (R183). -/
def State.completeRecord (s : State) : State :=
  match s.port.record with
  | some x =>
    if s.muxRuns && x.remaining == 1
        && decide (s.port.outFifo.length < Config.streamFifoCap) then
      match s.drawByte x with
      | some (b, t) =>
        let t := t.putOut b
        { t with port := { t.port with record := none } }.dataDone x.data
      | none => s
    else s
  | none => s

end Sys2Proof.Machine
end

