-- ==== Sys2Proof/Machine/React.lean ====
section
/-! DEFINITION. What follows within one event: everything that a change in one block makes another do at once,
until nothing more follows. -/

namespace Sys2Proof.Machine

/-! ## Readers by name (R33, R34) -/

def State.fetchOf (s : State) : Reader → Fetch
  | .print => s.printDec.fetch
  | .line => s.line.fetch
  | .host => s.hostOut.fetch

def State.setFetch (s : State) (x : Reader) (f : Fetch) : State :=
  match x with
  | .print => { s with printDec := { s.printDec with fetch := f } }
  | .line => { s with line := { s.line with fetch := f } }
  | .host => { s with hostOut := { s.hostOut with fetch := f } }

/-- The page a reader read has had an uncorrectable word of its data or of its link map (R7, R34): the event of
the reader's route, or of none where that route has ended. -/
def State.readDamaged (s : State) (page : Option PageNo) (r : Option RouteNo) : State :=
  match page with
  | some p => s.flagDamaged p r
  | none => s

/-- A link word passes the test of R33. -/
def State.linkPasses (s : State) (link : Option Word) : Bool :=
  match link with
  | some w => s.isData w.toNat
  | none => false

/-- A reader's link word arrives (R33, R34): it is followed while the reader fetches; unreadable or failing its
test it ends the route FAILED(MEMORY), a FINISH notwithstanding (R72), its page DAMAGED.  Where the flag
must wait for its place the route ends in the event nevertheless (DESIGN CHOICE, log entry 34). -/
def State.readerLink (s : State) (x : Reader) (link : Option Word) : State :=
  match s.readerSlot x with
  | none => s
  | some r =>
    if s.linkPasses link then
      if (s.fetchOf x).active then
        s.setFetch x ((s.fetchOf x).follow ((link.map BitVec.toNat).getD 0))
      else s
    else (s.readDamaged (s.readerPage x) (some r)).failRoute r .memory

/-- A reader's link word with a write waiting is answered from the directory write queue (R21). -/
def State.readerLinkPass (s : State) (x : Reader) : State :=
  if s.flowing (s.readerSlot x) then
    match fetchBurst x (s.fetchOf x) with
    | some (.fetchLink _ b) => match s.waitingLink b with
      | some w => s.readerLink x (some w)
      | none => s
    | _ => s
  else s

def State.linkPass (s : State) : State :=
  [Reader.print, .line, .host].foldl State.readerLinkPass s

/-! ## Stutter and self-refresh (R38, R39, R153, R154) -/

/-- A print or copy route is RUNNING, or HALTING under FINISH (R153). -/
def State.printing (s : State) : Bool :=
  match s.engines.printer with
  | some r =>
    let x := s.route r
    x.fate.isNone && (x.state == .running || (x.state == .halting && x.halt == .finish))
  | none => false

/-- The Print Decoder's input queue is full (R56); COPY has none.  With every page word fetched it counts as full
(u = 0), and so does the queue that a FINISH has emptied with page words unfetched, since the decoder has none yet to
use (DESIGN CHOICE, log entry 75). -/
def State.inputFull (s : State) : Bool :=
  match s.engines.printer with
  | some r =>
    (s.route r).isKind .copy
      || decide (Config.wordQueueCap ≤ s.printDec.fetch.queue.length)
      || s.printDec.fetch.left == 0
  | none => false

/-- The conditions of a stutter request (R153). -/
def State.mayStutter (s : State) : Bool :=
  s.power.level == some .run && s.power.stutter && s.printing && s.head.full && s.inputFull
    && s.store.state == .on && !s.requestWaits && s.store.burst.isNone
    && s.power.request == .none

/-- A standing stutter request is to be withdrawn: the enable is clear, or no print route runs (R154).  A take
that reaches the watermark withdraws it in `State.lowWater`. -/
def State.endStutter (s : State) : Bool :=
  s.power.level == some .run && s.power.request == .ordinary && (!s.power.stutter || !s.printing)

/-- What the store's clients, the print ring and the entries of Power Control bring about (R39, R153, R154,
R156). -/
def State.powerPass (s : State) : State :=
  let s := if s.store.state = .selfRefresh ∧ s.store.request ≠ .retain ∧ s.urgentWaits then
      s.startExit
    else s
  let s := if s.endStutter then s.withdrawOrdinary else s
  let s := if s.mayStutter then s.placeRequest else s
  let s := s.entryAdvance
  if s.power.level = some .enteringRetain ∧ s.power.step = .retainOn ∧ s.store.state = .on then
    { s with power := { s.power with step := .retainDrain } }
  else s

/-- The geometry clear begins once the directory write queue is empty (R167). -/
def State.geometryPass (s : State) : State :=
  if s.boot.task = .geometryWait ∧ s.pool.dirQueue.isEmpty then
    { s with boot := { s.boot with task := .geometryClear 0 } }
  else s

/-! ## To the end of the event -/

/-- One round of every block. -/
def State.pass (s : State) : State :=
  let s := (State.rebuildPass 160 (State.refillPass Config.spareCap s)).damagePass.linkPass
  let s := s.writersPass.coderPass.printPass.txPass.rxPass.hostInPass
  let s := State.outPass Config.streamFifoCap s
  s.geometryPass.armPass.sheetPass.printEndPass.powerPass

/-- Rounds until one changes nothing. -/
def State.settle : Nat → State → State
  | 0, s => s
  | n + 1, s =>
    let t := s.pass
    if t = s then s else State.settle n t

/-- All that follows in the event. -/
def State.react (s : State) : State := State.settle 12 s

end Sys2Proof.Machine
end

