-- ==== Sys2Proof/Machine/BootSteps.lean ====
section
/-! DEFINITION. The Boot Controller: warm or cold, the warm rebuild, the clears, RELEASE, FAIL-SAFE (chapter
10). -/

namespace Sys2Proof.Machine

def State.setBoot (s : State) (b : Boot) : State := { s with boot := b }

/-- A retain request is placed (R41, R156, R166); SELF-REFRESH is entered at once where nothing is left to
do. -/
def State.placeRetain (s : State) : State :=
  let state : StoreState := if s.store.state = .on then .entering else s.store.state
  { s with store := { s.store with state := state, request := .retain } }.entryAdvance

/-! ## Warm or cold (R161) -/

/-- COLD-CLEAR is chosen (R161, R164). -/
def State.goCold (s : State) (reason : ColdReason) : State :=
  s.setBoot
    { s.boot with
      state := .coldClear, warm := some false, coldReason := some reason, task := .clear 0 }

/-- Replay has ended (R161). -/
def State.decideBoot (s : State) : State :=
  if s.boot.retained then s.setBoot { s.boot with task := .readHeader } else s.goCold .flag

/-- The reason a header gives for a cold clear, the first found in R161's order. -/
def coldReasonOf (geometry : Nat) (words : List ReadWord) : Option ColdReason :=
  let w (i : Nat) : Word := (words.map ReadWord.data).getD i 0
  if words.any fun x => x.cls = some .uncorrectable then some .headerError
  else if w 0 ≠ Config.signature0 ∨ w 1 ≠ Config.signature1 then some .signature
  else if (w 2).toNat ≠ geometry then some .geometry
  else if w 3 ≠ Config.markerClean then some .marker
  else none

/-- The header has been read (R161). -/
def State.headerRead (s : State) (words : List ReadWord) : State :=
  match coldReasonOf s.store.geometry words with
  | some reason => s.goCold reason
  | none =>
    s.setBoot
      { s.boot with
        state := .warmRebuild, warm := some true, coldReason := none
        task := .readImage 0 none false }

/-! ## The warm rebuild (R162, R163) -/

/-- How an image is classified (R162). -/
inductive ImageClass where
  | discarded | free | walked (entry : PageEntry)
deriving DecidableEq, Repr

/-- The persistent fields of a CLOSED image in form. -/
def entryOfImage (w : Nat → Nat) : PageEntry :=
  { state := .closed
    origin := if w 1 = 0 then .scan else if w 1 = 1 then .line else .host
    pitch := w 2, codeSlot := w 3, head := w 4, tail := w 5, blockCount := w 6
    bitLength := w 7 + 65536 * w 8, lineCount := if w 10 = 1 then some (w 9) else none
    badLines := w 11, truncated := decide (w 12 % 2 = 1), damaged := decide (2 ≤ w 12)
    readers := 0, owner := none }

/-- A CLOSED image is in form (R162). -/
def State.imageInForm (s : State) (w : Nat → Nat) : Bool :=
  decide (w 1 ≤ 2) && decide (1 ≤ w 2) && decide (w 2 ≤ 3) && decide (w 3 ≤ 15)
    && s.isData (w 4) && s.isData (w 5) && decide (1 ≤ w 6) && decide (w 6 ≤ s.dataBlocks)
    && decide (w 7 + 65536 * w 8 ≤ w 6 * 8192) && decide (w 10 ≤ 1) && decide (w 12 ≤ 3)
    && decide (w 13 = 0) && decide (w 14 = 0)

/-- The table of R162. -/
def State.classify (s : State) (words : List Word) (spoilt : Bool) : ImageClass :=
  let w (i : Nat) : Nat := (words.getD i 0).toNat
  if spoilt then .discarded
  else if wordSum (words.take 15) ≠ w 15 then .discarded
  else if w 0 = 0 then .free
  else if w 0 = 2 ∧ s.imageInForm w then .walked (entryOfImage w)
  else .discarded

/-- The pool is set balanced around the kept pages (R163), and RELEASE begins. -/
def State.warmEnd (s : State) : State :=
  let free := (List.range' Config.systemBlocks s.dataBlocks).filter fun b =>
    !s.boot.marks.contains b
  { s with
    pool :=
      { s.pool with
        state := .inService, freeHead := free.head?, freeTail := free.getLast?
        freeCount := free.length, spare := [], stranded := 0, alert := .none }
    boot :=
      { s.boot with
        state := .release, task := .releaseHeader
        kept := (s.pages.toList.filter fun e => e.state != .free).length
        discarded := s.boot.dropList.length } }

/-- The sweep goes on from a block, or is over (R163).  With no unmarked block there is no write whose end sets
the pool, and the pool is set at once (DESIGN CHOICE, log entry 47). -/
def State.sweepFrom (s : State) (b : Nat) : State :=
  match nextFree s.boot.marks s.store.geometry b with
  | some n => s.setBoot { s.boot with task := .sweep n }
  | none => s.warmEnd

/-- The discarded images are written, then the free list (R163). -/
def State.zeroFrom (s : State) (pages : List Nat) : State :=
  match pages with
  | [] => s.sweepFrom Config.systemBlocks
  | _ => s.setBoot { s.boot with task := .zeroImage pages false }

/-- The next entry is taken, or all have been (R162, R163). -/
def State.nextImage (s : State) (page : Nat) : State :=
  if page + 1 < 32 then s.setBoot { s.boot with task := .readImage (page + 1) none false }
  else s.zeroFrom s.boot.dropList

/-- An entry is discarded (R162). -/
def State.discard (s : State) (page : Nat) : State :=
  (s.setBoot { s.boot with dropList := s.boot.dropList ++ [page] }).nextImage page

/-- The walk of an entry reaches a block (R162). -/
def State.bootWalk (s : State) (page : Nat) (e : PageEntry) (block left : Nat) (own : List Nat) :
    State :=
  if own.contains block || s.boot.marks.contains block then s.discard page
  else s.setBoot { s.boot with task := .walk page e block left (own ++ [block]) }

/-- Half an image has been read (R162). -/
def State.imageRead (s : State) (page : Nat) (first : Option (List Word)) (spoilt : Bool)
    (words : List ReadWord) : State :=
  let spoilt := spoilt || words.any fun x => x.cls = some .uncorrectable
  let data := words.map ReadWord.data
  match first with
  | none => s.setBoot { s.boot with task := .readImage page (some data) spoilt }
  | some before =>
    match s.classify (before ++ data) spoilt with
    | .discarded => s.discard page
    | .free => s.nextImage page
    | .walked e => s.bootWalk page e e.head e.blockCount []

/-- A kept entry (R162). -/
def State.keepEntry (s : State) (page : Nat) (e : PageEntry) (own : List Nat) : State :=
  let s := match asFin 32 page with
    | some p => s.setPage p e
    | none => s
  (s.setBoot { s.boot with marks := s.boot.marks ++ own }).nextImage page

/-- A link word of a walk has been read (R162). -/
def State.bootLinkRead (s : State) (page : Nat) (e : PageEntry) (block left : Nat)
    (own : List Nat) (x : ReadWord) : State :=
  let v := x.data.toNat
  if x.cls = some .uncorrectable then s.discard page
  else if 1 < left then
    if s.isData v then s.bootWalk page e v (left - 1) own else s.discard page
  else if block = e.tail ∧ v = Config.endWord then s.keepEntry page e own
  else s.discard page

/-! ## The clears (R164, R167) -/

/-- The free list of an empty store (R164). -/
def State.emptyPool (s : State) : State :=
  { s with
    pages := Vector.replicate 32 PageEntry.freeEntry
    pool :=
      { s.pool with
        state := .inService, freeHead := some Config.systemBlocks
        freeTail := some (s.store.geometry - 1), freeCount := s.dataBlocks, spare := []
        stranded := 0, alert := .none }
    store := { s.store with scrubPos := 0 } }

/-- COLD-CLEAR ends (R164), and RELEASE begins. -/
def State.coldEnd (s : State) : State :=
  let s := s.emptyPool
  s.setBoot { s.boot with state := .release, task := .releaseHeader, kept := 0, discarded := 0 }

/-- The scrub timer from a full interval, where its interval is above 0 (R35). -/
def State.startScrub (s : State) : State :=
  { s with store :=
    { s.store with
      scrubTimer := if 0 < s.setup.scrub then some (s.now + 1000 * s.setup.scrub) else none } }

/-- The header burst of a geometry clear ends (R167): the pool is as R164 leaves it, its alert NONE, and CLEARED
is queued alone, no OK with it (DESIGN CHOICE, log entry 42). -/
def State.geometryEnd (s : State) : State :=
  let s := (s.emptyPool.setBoot { s.boot with task := .none }).startScrub
  s.queueReport (.poolCleared s.pool.freeCount)

/-- A clearing or sweep burst ends. -/
def State.bootWritten (s : State) (words : Nat) : State :=
  match s.boot.task with
  | .zeroImage (p :: rest) half =>
    if half then
      let s := match asFin 32 p with
        | some q => s.setPage q PageEntry.freeEntry
        | none => s
      s.zeroFrom rest
    else s.setBoot { s.boot with task := .zeroImage (p :: rest) true }
  | .sweep next => s.sweepFrom (next + words)
  | .clear a =>
    if a + words < s.store.geometry * Config.blockWords then
      s.setBoot { s.boot with task := .clear (a + words) }
    else s.coldEnd
  | .geometryClear a =>
    if a + words < s.store.geometry * Config.blockWords then
      s.setBoot { s.boot with task := .geometryClear (a + words) }
    else s.setBoot { s.boot with task := .geometryHeader }
  | _ => s

/-! ## RELEASE (R165) -/

/-- The BOOT report (R165). -/
def State.bootReport (s : State) : Report :=
  .boot (s.boot.warm.getD false) s.boot.coldReason (s.boot.romOutcome.getD .absent) s.boot.kept
    s.boot.discarded s.pool.freeCount
    (s.tables.toList.filter fun x => x.state == .ready).length

/-- The LIVE header burst of RELEASE ends (R165). -/
def State.releaseHost (s : State) : State :=
  let s := s.setBoot { s.boot with state := .ready, task := .none, retained := false, hostHold := false }
  let s := { s with
    parser := { Parser.start with source := .port }
    power := { s.power with
      level := some .run, stutter := false, quietReceive := false, quietErrors := false }
    engines :=
      { s.engines with
        scannerFault := s.pins.coverOpen, printerFault := s.pins.coverOpen } }
  s.supplyOn.startScrub.queueReport s.bootReport

/-! ## FAIL-SAFE (R166) -/

/-- PFAIL during boot (R166). -/
def State.failSafe (s : State) : State :=
  let found := s.boot.state
  let s := s.setBoot { s.boot with state := .failSafe, hostHold := true, task := .none }
  match found with
  | .memoryStart => s.setBoot { s.boot with task := .failOn }
  | .release => s.setBoot { s.boot with task := .failLive }
  | _ => s.placeRetain

/-- A header burst ends (R24, R156, R165 to R167).  FAIL-SAFE from RELEASE sets the retained flag as its CLEAN burst
ends (DESIGN CHOICE, log entry 71). -/
def State.headerWritten (s : State) (purpose : HeaderFor) : State :=
  match purpose with
  | .release =>
    if s.boot.state = .failSafe then s.setBoot { s.boot with task := .failClean }
    else s.releaseHost
  | .failSafe => (s.setBoot { s.boot with task := .none, retained := true }).placeRetain
  | .geometryClear => if s.boot.task = .geometryHeader then s.geometryEnd else s
  | .power =>
    let s := s.setBoot { s.boot with retained := true }
    { s with power := { s.power with step := .retainRequest, request := .retain } }.placeRetain

/-! ## The controller reports ON (R37, R40, R149, R158) -/

/-- MEMORY-START ends (R158); FAIL-SAFE goes on to its request (R166). -/
def State.bootOn (s : State) : State :=
  if s.boot.state = .memoryStart then s.setBoot { s.boot with state := .romReplay }
  else if s.boot.task = .failOn then (s.setBoot { s.boot with task := .none }).placeRetain
  else s

/-- The controller enters ON from INIT or WAKING: its timers start, and Power Control and the Boot
Controller are told; a request kept through WAKING leads on to ENTERING (R40). -/
def State.storeOn (s : State) : State :=
  let s := { s with store :=
    { s.store with
      state := .on, backlog := 0, wakeTimer := none
      refreshTimer := some (s.now + s.setup.refresh) } }
  let s := if s.boot.state = .ready ∧ s.pool.state ≠ .clearing then s.startScrub else s
  let s := if s.store.request = .none then { s with power := { s.power with request := .none } } else s
  let s := s.bootOn
  let s := if s.power.level = some .waking then s.completeRun else s
  if s.store.request ≠ .none ∧ s.store.state = .on then
    { s with store := { s.store with state := .entering } }.entryAdvance
  else s

end Sys2Proof.Machine
end

