-- ==== Sys2Proof/Machine/Bursts.lean ====
section
/-! DEFINITION. What the end of a burst does: reads, writes, the error log, delivery (R29 to R36). -/

namespace Sys2Proof.Machine

/-! ## Reads and the error log (R30, R31) -/

/-- The client the error log names for a burst that reads (R31). -/
def BurstKind.logClient : BurstKind → Option LogClient
  | .scrub => some .scrub
  | .refill _ | .walk _ => some .directory
  | .bootHeader | .bootImage .. | .bootLink _ => some .boot
  | .fetchWords reader _ _ | .fetchLink reader _ =>
    match reader with
    | .print => some .printFetch
    | .line => some .lineTx
    | .host => some .hostOut
  | _ => none

/-- The log takes an offer (R31). -/
def logTakes (log : Option LogRecord) (cls : ErrorClass) : Bool :=
  match log, cls with
  | none, _ => true
  | some x, .uncorrectable => x.cls == .corrected
  | some _, .corrected => false

/-- One word is offered to the log (R31). -/
def State.offer (s : State) (client : LogClient) (a : Nat) (x : ReadWord) : State :=
  match x.cls with
  | none => s
  | some cls =>
    if logTakes s.store.log cls then
      let entry : LogRecord :=
        { cls := cls, block := a / Config.blockWords, offset := a % Config.blockWords
          syndrome := x.syndrome, client := client }
      { s with store := { s.store with log := some entry } }.queueReport (.memory entry)
    else s

/-- The words of a burst are offered, in the order they are read. -/
def State.offerAll (s : State) (client : Option LogClient) (a : Nat) (xs : List ReadWord) : State :=
  match client with
  | some c => (xs.mapIdx fun i x => (a + i, x)).foldl (fun s (b, x) => s.offer c b x) s
  | none => s

/-! ## Writing -/

/-- The DRAM is replaced. -/
def State.setDram (s : State) (m : List (Nat × StoreWord)) : State :=
  { s with store := { s.store with dram := m } }

/-- Words are written from an address on (R29). -/
def State.writeWords (s : State) (a : Nat) (ws : List Word) : State :=
  s.setDram (dramWriteWords s.store.dram a ws)

/-- Scrub writes back each corrected word (R36). -/
def scrubWords : List (Nat × StoreWord) → Nat → List ReadWord → List (Nat × StoreWord)
  | m, _, [] => m
  | m, a, x :: xs =>
    scrubWords (if x.cls = some .corrected then dramWrite m a (encodeWord x.data) else m) (a + 1) xs

/-- What a burst leaves in the DRAM, its reads having been made. -/
def State.burstStores (s : State) (b : BurstKind) (xs : List ReadWord) : State :=
  match b with
  | .dirLink blk v => s.writeWords (Config.linkBase + blk) [v]
  | .dirImage p half ws =>
    s.writeWords (Config.imageBase + 16 * p.val + (if half then 8 else 0)) ws
  | .header _ ws => s.writeWords 0 ws
  | .bootWrite a ws | .coderWrite a ws | .lineWrite a ws _ | .hostWrite a ws => s.writeWords a ws
  | .scrub => s.setDram (scrubWords s.store.dram s.store.scrubPos xs)
  | _ => s

/-! ## Delivery -/

/-- The oldest item of the directory write queue has had a burst (R2, R21). -/
def State.dirWritten (s : State) : State :=
  match s.pool.dirQueue with
  | .link _ _ :: rest => { s with pool := { s.pool with dirQueue := rest } }
  | .image p ws half :: rest =>
    { s with pool :=
      { s.pool with dirQueue := if half then rest else .image p ws true :: rest } }
  | [] => s

/-- The data of a link word read, none where uncorrectable; a write that waits by now answers it (R21). -/
def State.linkOf (s : State) (block : Nat) (xs : List ReadWord) : Option Word :=
  match s.waitingLink block, xs.head? with
  | some w, _ => some w
  | none, some x => if x.cls = some .uncorrectable then none else some x.data
  | none, none => none

/-- Scrub's position after its burst (R36). -/
def State.scrubbed (s : State) : State :=
  let p := s.store.scrubPos + 8
  { s with store :=
    { s.store with scrubPos := if s.store.geometry * Config.blockWords ≤ p then 0 else p } }

/-- An initialisation row ends (R37). -/
def State.rowDone (s : State) : State :=
  let s := { s with store := { s.store with initLeft := s.store.initLeft - 1 } }
  if s.store.initLeft = 0 then s.storeOn else s

/-- The final row of an entry ends (R38). -/
def State.finalRowDone (s : State) : State :=
  if s.store.state = .entering ∧ (s.store.request = .retain ∨ s.urgentWaits = false) then
    s.enterSelfRefresh
  else s

/-- Page words arrive for a reader (R56, R69, R141), and are discarded where it has stopped fetching (R74); an
uncorrectable one flags the page (R7, R34). -/
def State.wordsFetched (s : State) (x : Reader) (xs : List ReadWord) : State :=
  let s := if (s.fetchOf x).active then
      s.setFetch x ((s.fetchOf x).receive (xs.map ReadWord.data))
    else s
  if xs.any fun w => w.cls = some .uncorrectable then
    s.readDamaged (s.readerPage x) (s.readerSlot x)
  else s

/-- The end of a burst is told to whoever asked for it.  A reader's burst whose route has ended flags its page
all the same where it was uncorrectable (R7, R34). -/
def State.deliver (s : State) (burst : Burst) (xs : List ReadWord) : State :=
  let orphan := burst.orphan
  match burst.kind with
  | .initRow => s.rowDone
  | .refreshRow final => if final then s.finalRowDone else s
  | .scrub => s.scrubbed
  | .dirLink .. | .dirImage .. => s.dirWritten
  | .refill h =>
    if s.pool.state = .inService ∧ s.pool.freeHead = some h ∧ 0 < s.pool.freeCount
        ∧ s.pool.spare.length < Config.spareCap then
      s.refill (s.linkOf h xs)
    else s
  | .walk h =>
    match s.pool.rebuild with
    | some { at_ := .walking _ at_ _, .. } => if at_ = h then s.walkLink (s.linkOf h xs) else s
    | _ => s
  | .header purpose _ => s.headerWritten purpose
  | .bootHeader => if s.boot.task = .readHeader then s.headerRead xs else s
  | .bootImage .. =>
    match s.boot.task with
    | .readImage page first spoilt => s.imageRead page first spoilt xs
    | _ => s
  | .bootLink _ =>
    match s.boot.task, xs.head? with
    | .walk page e block left own, some x => s.bootLinkRead page e block left own x
    | _, _ => s
  | .bootWrite _ ws => s.bootWritten ws.length
  | .coderWrite _ ws =>
    if orphan then s
    else
      { s with coder :=
        { s.coder with
          queue := s.coder.queue.drop ws.length, writer := s.coder.writer.wrote ws.length } }
  | .lineWrite _ ws n =>
    if orphan then s
    else
      s.setLine
        { s.line with rxFifo := s.line.rxFifo.drop n, writer := s.line.writer.wrote ws.length }
  | .hostWrite _ ws =>
    if orphan then s
    else
      { s with hostIn :=
        { s.hostIn with
          queue := s.hostIn.queue.drop ws.length, writer := s.hostIn.writer.wrote ws.length } }
  | .fetchWords x _ _ =>
    if orphan then
      if xs.any fun w => w.cls = some .uncorrectable then s.readDamaged burst.page none else s
    else s.wordsFetched x xs
  | .fetchLink x h =>
    if orphan then
      if s.linkPasses (s.linkOf h xs) then s else s.readDamaged burst.page none
    else s.readerLink x (s.linkOf h xs)

/-- A burst ends (R26): bit errors that have struck the words it reads stand in the DRAM, reads are made and
offered, writes are made, and the data is delivered. -/
def State.endBurst (s : State) (b : Burst) (flips : List StoreWord) : State :=
  let (a, n) := b.kind.span s.store.scrubPos
  let reads := b.kind.logClient.isSome
  let s := if reads then s.setDram (dramFlip s.store.dram a (flips.take n)) else s
  let xs := if reads then dramReadWords s.store.dram a n else []
  let s := (s.offerAll b.kind.logClient a xs).burstStores b.kind xs
  let s := { s with store := { s.store with burst := none } }
  s.deliver b xs

end Sys2Proof.Machine
end

