-- ==== Sys2Proof/Machine/Orders.lean ====
section
/-! DEFINITION. The orders as they are taken: their tests, in order, and their effects (R177). -/

namespace Sys2Proof.Machine

/-- A refused order queues its REFUSED report and changes nothing else (R177). -/
def State.refuse (s : State) (k : OrderKind) (c : Refused) (fields : List Byte) : State :=
  s.queueReport (.refused k c fields)

/-- The first refusal whose condition holds, of tests made in order. -/
def firstRefusal (tests : List (Refused × Bool)) : Option Refused :=
  (tests.find? fun t => t.2).map Prod.fst

/-! ## SETUP (R179, R167) -/

/-- Every field in its range (R175, R23). -/
def setupInRange (b : SetupBody) : Bool :=
  [1024, 2048, 4096].contains b.geometry.toNat
    && decide (8 ≤ b.refresh.toNat) && decide (b.refresh.toNat ≤ 60)
    && decide (b.lowMark.toNat ≤ 1023) && decide (10 ≤ b.cutter.toNat)
    && decide (1 ≤ b.watermark.toNat) && decide (b.watermark.toNat ≤ 3)

/-- The SETUP values of a body, in µs and ms (R175). -/
def setupValues (b : SetupBody) : Setup :=
  { refresh := b.refresh.toNat, scrub := b.scrub.toNat, lowMark := b.lowMark.toNat
    lamp := 10 * b.lamp.toNat, settle := b.settle.toNat, cutter := 10 * b.cutter.toNat
    watermark := b.watermark.toNat }

/-- The first refusal of a SETUP, from ROM or port (R179, R167). -/
def State.setupRefusal (s : State) (b : SetupBody) (rom : Bool) : Option Refused :=
  let other := b.geometry.toNat != s.store.geometry
  firstRefusal
    [(.badField, !setupInRange b),
      (.bootOnly, !rom && b.refresh.toNat != s.setup.refresh),
      (.busy, !rom && other && s.pool.state != .inService),
      (.slotBusy, !rom && other && !s.routesInUse.isEmpty),
      (.pagesPresent, !rom && other && s.pages.toList.any fun e => e.state != .free)]

/-- The scrub timer may run (R35). -/
def State.scrubbing (s : State) : Bool :=
  (s.store.state == .on || s.store.state == .entering) && s.boot.state == .ready
    && s.pool.state != .clearing

/-- A new scrub interval (R35). -/
def State.setScrub (s : State) (interval : Nat) : State :=
  let before := s.setup.scrub
  let s := { s with setup := { s.setup with scrub := interval } }
  if interval = 0 then
    { s with store := { s.store with scrubTimer := none, scrubWaiting := false } }
  else if before = 0 ∧ s.scrubbing then s.startScrub
  else s

/-- A new geometry after release (R167).  Availability falls at the start of the clear, and a POOL report LOW that
R17 gives for it is queued in the SETUP's event, though R179 says that an accepted SETUP queues no report (DESIGN
CHOICE, log entry 59). -/
def State.changeGeometry (s : State) (geometry : Nat) : State :=
  let before := s.available
  let s := { s with
    pool :=
      { s.pool with
        state := .clearing, stranded := s.pool.stranded + s.pool.spare.length, spare := [] }
    store :=
      { s.store with geometry := geometry, scrubTimer := none, scrubWaiting := false }
    boot := { s.boot with task := .geometryWait } }
  (s.availChange before).react

/-- SETUP is taken (R179). -/
def State.takeSetup (s : State) (b : SetupBody) (rom : Bool) : State :=
  match s.setupRefusal b rom with
  | some c => s.refuse .setup c (number b.geometry.toNat)
  | none =>
    let other := b.geometry.toNat != s.store.geometry
    let scrub := b.scrub.toNat
    let s := s.setScrub scrub
    let s := { s with setup := setupValues b }
    if !other then s
    else if rom then { s with store := { s.store with geometry := b.geometry.toNat } }
    else s.changeGeometry b.geometry.toNat

/-! ## TABLE LOAD, TABLE DROP (R170, R174) -/

/-- The kind a byte names (R175). -/
def tableKindOf (b : Byte) : Option TableKind :=
  [TableKind.code, .heat, .ramp, .shade][b.toNat]?

/-- The first refusal of a TABLE LOAD of a data length (R170). -/
def State.loadRefusal (s : State) (slot kind : Byte) (dataLength : Nat) : Option Refused :=
  match asFin 16 slot.toNat with
  | none => some .badField
  | some t =>
    firstRefusal
      [(.badField, (tableKindOf kind).isNone || decide (1024 < dataLength)),
        (.tableBound, decide (0 < (s.table t).binds))]

/-- A slot named by a replayed load joins the loaded-slot set (R159). -/
def State.noteLoaded (s : State) (t : TableNo) (rom : Bool) : State :=
  if rom ∧ t ∉ s.boot.loaded then
    { s with boot := { s.boot with loaded := s.boot.loaded ++ [t] } }
  else s

/-- TABLE LOAD is taken at its fourth body byte: the state, and the slot now LOADING where it is accepted
(R170). -/
def State.takeLoad (s : State) (slot kind : Byte) (dataLength : Nat) (rom : Bool) :
    State × Option TableNo :=
  match s.loadRefusal slot kind dataLength with
  | some c => (s.refuse .tableLoad c (number slot.toNat), none)
  | none =>
    match asFin 16 slot.toNat, tableKindOf kind with
    | some t, some k => ((s.setTable t ((s.table t).startLoad k)).noteLoaded t rom, some t)
    | _, _ => (s, none)

/-- The first refusal of a TABLE DROP (R174). -/
def State.dropTableRefusal (s : State) (slot : Byte) : Option Refused :=
  match asFin 16 slot.toNat with
  | none => some .badField
  | some t => firstRefusal [(.tableBound, decide (0 < (s.table t).binds))]

/-- TABLE DROP is taken (R174). -/
def State.takeTableDrop (s : State) (slot : Byte) : State :=
  match s.dropTableRefusal slot, asFin 16 slot.toNat with
  | none, some t => s.setTable t TableSlot.emptySlot
  | some c, _ => s.refuse .tableDrop c (number slot.toNat)
  | none, none => s

/-! ## PAGE DROP (R9) -/

/-- The first refusal of a PAGE DROP (R9). -/
def State.dropPageRefusal (s : State) (page : Byte) : Option Refused :=
  match asFin 32 page.toNat with
  | none => some .badField
  | some p =>
    firstRefusal
      [(.busy, s.pool.state != .inService), (.pageState, (s.page p).state != .closed)]

/-- The page an accepted PAGE DROP acts on: freed, or made DROPPING (R9). -/
def State.pageDropped (s : State) (p : PageNo) : State :=
  if (s.page p).readers = 0 then (s.freePage p).react else s.dropPage p

/-- PAGE DROP is taken; none where it is held for places (R9, R178). -/
def State.takePageDrop (s : State) (page : Byte) : Option State :=
  match s.dropPageRefusal page, asFin 32 page.toNat with
  | some c, _ => some (s.refuse .pageDrop c (number page.toNat))
  | none, some p =>
    let need := if (s.page p).readers = 0 then s.freeNeed p else s.imageNeed p
    if need ≤ s.dirPlaces then some (s.pageDropped p) else none
  | none, none => some s

/-! ## ROUTE START (R64 to R66) -/

/-- The kind a byte names (R175). -/
def routeKindOf (b : Byte) : Option RouteKind :=
  [RouteKind.scanStore, .copy, .printPage, .lineReceive, .lineSend, .hostStore,
    .pageHost][b.toNat]?

/-- Option bits of a ROUTE START (R175). -/
def startOption (b : StartBody) (i : Nat) : Bool := b.options.getLsbD i

/-- The option bits a kind accepts (R62). -/
def RouteKind.optionMask : RouteKind → Nat
  | .scanStore => 1 | .copy => 4 | .printPage => 6 | .lineReceive => 1 | .lineSend => 2
  | .hostStore => 0 | .pageHost => 2

/-- The table slots a kind binds, each with the kind it is bound as (R62). -/
def startBindings (b : StartBody) (k : RouteKind) : List (Nat × TableKind) :=
  let code := (b.code.toNat, TableKind.code)
  let heat := (b.heat.toNat, TableKind.heat)
  let pf := (b.pfRamp.toNat, TableKind.ramp)
  let sf := (b.sfRamp.toNat, TableKind.ramp)
  let shade := (b.shade.toNat, TableKind.shade)
  match k with
  | .scanStore => [code, sf, shade]
  | .copy => [heat, pf, sf, shade]
  | .printPage => [code, heat, pf]
  | .lineReceive | .lineSend => [code]
  | .hostStore | .pageHost => []

/-- A field outside its range, or not allowed for the kind (R65). -/
def startBadField (b : StartBody) (k : RouteKind) : Bool :=
  decide (3 < b.slot.toNat)
    || (startBindings b k).any (fun x => decide (15 < x.1))
    || (k == .hostStore && decide (15 < b.code.toNat))
    || (k.isReader && decide (31 < b.page.toNat))
    || (k != .printPage && (decide (b.pitch.toNat < 1) || decide (3 < b.pitch.toNat)))
    || ((k.usesScanner || k.usesPrinter) && decide (127 < b.top.toNat))
    || (k == .lineReceive && (decide (1008 < b.reservation.toNat) || b.carrier == 0))
    || (k == .lineSend && decide (4800 < b.minBits.toNat))
    || (b.options.toNat &&& k.optionMask) != b.options.toNat

/-- A motor's or the cutter's motion claim stands on an engine of the kind (R63). -/
def State.claimBusy (s : State) (k : RouteKind) : Bool :=
  (k.usesScanner && s.sf.claim.isSome)
    || (k.usesPrinter && (s.pf.claim.isSome || s.cutter.claim.isSome))

/-- A binding's slot, EMPTY where the number names none. -/
def State.slotAt (s : State) (n : Nat) : TableSlot :=
  match asFin 16 n with
  | some t => s.table t
  | none => TableSlot.emptySlot

/-- The first refusal of a ROUTE START, by the ten tests of R64. -/
def State.startRefusal (s : State) (b : StartBody) : Option Refused :=
  match routeKindOf b.kind, asFin 4 b.slot.toNat with
  | none, _ | _, none => some .badField
  | some k, some r =>
    firstRefusal
      [(.badField, startBadField b k),
        (.busy, s.pool.state == .clearing),
        (.slotBusy, (s.route r).inUse),
        (.engineBusy, s.engines.busy k || s.claimBusy k),
        (.engineFault, (k.usesScanner && s.engines.scannerFault)
          || (k.usesPrinter && s.engines.printerFault)),
        (.noPaper, k.usesPrinter && s.pins.paperOut),
        (.tableNotReady, (startBindings b k).any fun x => (s.slotAt x.1).state != .ready),
        (.tableKind, (startBindings b k).any fun x => (s.slotAt x.1).kind != some x.2),
        (.pageState, k.isReader &&
          (match asFin 32 b.page.toNat with
            | some p => (s.page p).state != .closed
            | none => true)),
        (.noRoom, k == .lineReceive && decide (s.available < b.reservation.toNat))]

/-- The record of an accepted start: the fields its kind uses, the rest at 0 or absent (R60, R65, R66). -/
def State.startRecord (s : State) (b : StartBody) (k : RouteKind) : Route :=
  let slot (used : Bool) (x : Byte) : Option TableNo := if used then asFin 16 x.toNat else none
  let num (used : Bool) (n : Nat) : Nat := if used then n else 0
  let page := if k.isReader then asFin 32 b.page.toNat else none
  let moves := k.usesScanner || k.usesPrinter
  { Route.idleRecord with
    kind := some k
    page := page
    code := slot (k == .scanStore || k == .printPage || k.usesLine) b.code
    heat := slot k.usesPrinter b.heat
    pfRamp := slot k.usesPrinter b.pfRamp
    sfRamp := slot k.usesScanner b.sfRamp
    shade := slot k.usesScanner b.shade
    continues := startOption b 0, dropAfter := startOption b 1, cutAfter := startOption b 2
    top := num moves b.top.toNat
    pitch := if k = .printPage then (page.map fun p => (s.page p).pitch).getD 0 else b.pitch.toNat
    remainder := num (k == .lineReceive) b.reservation.toNat
    badLimit := num (k == .printPage || k.usesLine) b.badLimit.toNat
    minBits := num (k == .lineSend) b.minBits.toNat
    carrierMs := num (k == .lineReceive) (10 * b.carrier.toNat)
    jam := num k.usesScanner b.jam.toNat
    lead := num k.usesScanner b.lead.toNat
    eject := num k.usesScanner b.eject.toNat
    trail := num k.usesScanner b.trail.toNat
    maxLines := num k.usesScanner b.maxLines.toNat
    tail := num k.usesPrinter b.tail.toNat
    namedCode := num (k == .hostStore) b.code.toNat }

/-- The lamp is turned on (R88). -/
def State.lampOn (s : State) : State :=
  s.setScanner
    { s.scanner with
      lamp := if s.setup.lamp = 0 then .warm else .warming
      lampTimer := if s.setup.lamp = 0 then none else some (s.now + 1000 * s.setup.lamp) }

/-- The blocks of a kind at an accepted start (R47, R68, R69, R83, R98, R99, R135), the Line Port's underrun count at 0
(DESIGN CHOICE, log entry 67). -/
def State.startBlocks (s : State) (r : RouteNo) (k : RouteKind) : State :=
  let e := match (s.route r).page with
    | some p => s.page p
    | none => PageEntry.freeEntry
  match k with
  | .scanStore =>
    ({ s with coder := Coder.waitingFor r }.setScanner
      { Scanner.idlePort with
        nextSlot := s.scanner.nextSlot, lastStart := s.scanner.lastStart }).lampOn
  | .copy =>
    ({ s with head := { s.head.emptyRing with capacity := 8 } }.setScanner
      { Scanner.idlePort with lastStart := s.scanner.lastStart }).lampOn
  | .printPage => { s with head := s.head.emptyRing }
  | .lineReceive =>
    s.setLine { LinePort.idlePort with slot := some r, rx := .seeking, txd := s.line.txd }
  | .lineSend =>
    s.setLine
      { LinePort.idlePort with
        slot := some r, tx := .priming, fetch := Fetch.start e, bitLength := e.bitLength
        txd := s.line.txd }
  | .hostStore => { s with hostIn := { HostIn.idleFlow with slot := some r } }
  | .pageHost =>
    { s with hostOut :=
      { HostOut.idleFlow with slot := some r, fetch := Fetch.start e, bitLength := e.bitLength } }

/-- A reader's page gains the route as reader (R8). -/
def State.addReader (s : State) (page : Option PageNo) : State :=
  match page with
  | some p => s.setPage p { s.page p with readers := (s.page p).readers + 1 }
  | none => s

/-- An accepted start, all in one event (R66).  A LOW for a reservation (R17) precedes the ROUTE report (DEDUCED, log
entry 78). -/
def State.startRoute (s : State) (r : RouteNo) (b : StartBody) (k : RouteKind) : State :=
  let before := s.available
  let s := s.setRoute r (s.startRecord b k)
  let s := (s.route r).boundSlots.foldl State.bind s
  let s := { s with engines := s.engines.claim k r }
  let s := s.availChange before
  let s := s.addReader (s.route r).page
  let s := { s with head := s.head.disown r }.startBlocks r k
  let s := s.routeTo r (if k.arms then .armed else .running)
  let s := if k = .hostStore then s.askOpen r k else s
  s.react

/-- ROUTE START is taken; none where a HOST-STORE's is held for places (R64, R66, R178). -/
def State.takeStart (s : State) (b : StartBody) : Option State :=
  if routeKindOf b.kind = some .hostStore ∧ Config.dirCap < s.pool.dirQueue.length + 2 then none
  else
    match s.startRefusal b, routeKindOf b.kind, asFin 4 b.slot.toNat with
    | none, some k, some r => some (s.startRoute r b k)
    | some c, _, _ => some (s.refuse .routeStart c (number b.slot.toNat))
    | _, _, _ => some s

/-! ## ROUTE HALT (R73 to R75) -/

/-- What FINISH does to the feed, by its phase (R96). -/
def State.finishFeed (s : State) (r : RouteNo) : State :=
  match s.scanner.phase with
  | .feedIn => s.setMotor .sf { s.sf with left := 0 }
  | .lead =>
    if s.sf.state = .moving then
      (s.setScanner { s.scanner with phase := .eject, lastLine := true }).setMotor .sf
        { s.sf with motion := .move .eject, left := (s.route r).eject, overrun := false }
    else s.beginEject r
  | .capture | .trail => if s.sf.state = .moving then s else s.beginEject r
  | _ => s

/-- The words a PAGE-HOST route still fetches under FINISH: those of the DATA report under way (R74). -/
def HostOut.finish (h : HostOut) (left : Nat) : HostOut :=
  let words := (left + h.lowNext.toNat + 1) / 2
  { h with fetch :=
    { h.fetch with
      queue := h.fetch.queue.take words
      left := min h.fetch.left (words - h.fetch.queue.length) } }

/-- Page bytes the DATA report under way has still to send for a slot. -/
def State.dataUnderWay (s : State) (r : RouteNo) : Option Nat :=
  match s.port.record with
  | some { data := some d, .. } => if d.slot = r ∧ d.cutShort = false then some d.left else none
  | _ => none

/-- FINISH on a RUNNING or STALLED route, by its kind (R74, R144).  A reader that stops fetching discards the
words of a burst in progress, and still flags its page or fails by what it reads (R34, R72). -/
def State.finishKind (s : State) (r : RouteNo) : State :=
  match (s.route r).kind with
  | some .scanStore =>
    { s with coder :=
      { s.coder with writer := { s.coder.writer with opening := false } } }.finishFeed r
  | some .copy => s.finishFeed r
  | some .printPage =>
    { s with printDec := { s.printDec with fetch := Fetch.idle, held := none, told := true } }
  | some .lineSend =>
    if s.line.txFifo.isEmpty then s.completeRoute r false none
    else s.setLine { s.line with fetch := Fetch.idle, tx := .sending }
  | some .pageHost =>
    match s.dataUnderWay r with
    | some left => { s with hostOut := s.hostOut.finish left }
    | none => s.completeRoute r false none
  | _ => s

/-- ROUTE HALT in mode FINISH on a slot in use (R73). -/
def State.haltFinish (s : State) (r : RouteNo) : State :=
  match (s.route r).state with
  | .armed => (s.haltRoute r).react
  | .running | .stalled =>
    let s := s.setRoute r { s.route r with halt := .finish }
    ((s.routeTo r .halting).finishKind r).react
  | _ => s

/-- The motors and rings of a route halted NOW stop (R75, R127). -/
def State.stopNow (s : State) (r : RouteNo) : State :=
  let x := s.route r
  let s := if x.usesPrinter then s.haltMotor .pf else s
  if x.usesScanner then s.haltMotor .sf else s

/-- ROUTE HALT in mode NOW on a slot in use (R73, R75).  A route that waits on a cut has no outcome yet: a burst
of its reader goes on as the route's own, and a link word of it that fails ends the route FAILED(MEMORY) (R72).
It has stopped RUNNING, so a stutter request is withdrawn in the event (R154). -/
def State.haltNow (s : State) (r : RouteNo) : State :=
  let x := s.route r
  if !x.live || x.halt == .nowWaiting then s
  else if x.state = .armed then (s.haltRoute r).react
  else
    let s := s.stopNow r
    if x.usesPrinter ∧ s.cutter.cutting then
      let s := s.stopFlows r
      let s := s.setRoute r { s.route r with halt := .nowWaiting }
      (if x.state = .halting then s else s.routeTo r .halting).react
    else (s.haltRoute r).react

/-- ROUTE HALT is taken, with its mode byte (R73). -/
def State.takeHalt (s : State) (slot mode : Byte) : State :=
  match asFin 4 slot.toNat with
  | none => s.refuse .routeHalt .badField (number slot.toNat)
  | some r =>
    if 1 < mode.toNat then s.refuse .routeHalt .badField (number slot.toNat)
    else if (s.route r).inUse = false then s.refuse .routeHalt .noRoute (number slot.toNat)
    else if mode = 0 then s.haltFinish r
    else s.haltNow r

/-! ## DATA (R68) -/

/-- The first refusal of a DATA order carrying `n` page bytes (R68). -/
def State.dataRefusal (s : State) (slot flags : Byte) (n : Nat) : Option Refused :=
  match asFin 4 slot.toNat with
  | none => some .badField
  | some r =>
    let x := s.route r
    firstRefusal
      [(.badField, n == 0 || decide (1024 < n)
          || (flags.getLsbD 1 && !flags.getLsbD 0) || decide (3 < flags.toNat)),
        (.noRoute, !(x.isKind .hostStore && x.fate.isNone
            && (x.state == .running || x.state == .stalled)) || s.hostIn.finalTaken)]

/-- DATA is taken at its fourth body byte: the state, and the slot its bytes are placed for where it is
accepted (R68). -/
def State.takeData (s : State) (slot flags : Byte) (lines : Word) (n : Nat) :
    State × Option RouteNo :=
  match s.dataRefusal slot flags n, asFin 4 slot.toNat with
  | none, some r =>
    let final := flags.getLsbD 0
    ({ s with hostIn :=
      { s.hostIn with
        finalTaken := final
        lineCount := if final && flags.getLsbD 1 then some lines.toNat else none } }, some r)
  | some c, _ => (s.refuse .data c (number slot.toNat), none)
  | none, none => (s, none)

/-! ## MOVE, CUT (R124, R132) -/

/-- The motor a byte names (R175). -/
def motorOf (b : Byte) : Option MotorName := [MotorName.pf, .sf][b.toNat]?

/-- The first refusal of a MOVE (R124). -/
def State.moveRefusal (s : State) (b : MoveBody) : Option Refused :=
  match motorOf b.motor with
  | none => some .badField
  | some m =>
    firstRefusal
      [(.badField, b.steps == 0 || decide (1 < b.direction.toNat) || decide (15 < b.slot.toNat)
          || decide (127 < b.top.toNat)),
        (.engineBusy, (s.motorRoute m).isSome || (s.motor m).claim.isSome),
        (.engineFault, s.pins.coverOpen),
        (.tableNotReady, (s.slotAt b.slot.toNat).state != .ready),
        (.tableKind, (s.slotAt b.slot.toNat).kind != some .ramp)]

/-- An accepted MOVE (R123, R124). -/
def State.startMove (s : State) (m : MotorName) (t : TableNo) (b : MoveBody) : State :=
  let s := s.bind t
  let s := s.setMotor m
    { s.motor m with
      claim := some .move, slot := some t, top := b.top.toNat, back := b.direction == 1 }
  s.restart m (.move .order) (b.steps.toNat - 1)

/-- MOVE is taken (R124). -/
def State.takeMove (s : State) (b : MoveBody) : State :=
  match s.moveRefusal b, motorOf b.motor, asFin 16 b.slot.toNat with
  | none, some m, some t => s.startMove m t b
  | some c, _, _ => s.refuse .move c (setByte b.motor.toNat)
  | _, _, _ => s

/-- The first refusal of a CUT (R132). -/
def State.cutRefusal (s : State) : Option Refused :=
  firstRefusal
    [(.engineBusy, s.engines.printer.isSome || s.cutter.claim.isSome),
      (.engineFault, s.pins.coverOpen || s.cutter.state == .fault)]

/-- CUT is taken (R130, R132). -/
def State.takeCut (s : State) : State :=
  match s.cutRefusal with
  | some c => s.refuse .cut c []
  | none => s.startCut .order

/-! ## LEVEL (R146) -/

/-- The first refusal of a LEVEL (R146). -/
def State.levelRefusal (s : State) (level options : Byte) : Option Refused :=
  let doze := level == 1
  let inUse := s.routesInUse
  let lone := match inUse with
    | [] => true
    | [r] => (s.route r).isKind .lineReceive && (s.route r).state == .armed
    | _ => false
  let bad := decide (1 < level.toNat) || (doze && options.getLsbD 2)
    || (!doze && (options.getLsbD 0 || options.getLsbD 1)) || decide (7 < options.toNat)
  firstRefusal
    [(.badField, bad), (.level, doze && !lone), (.busy, doze && s.pool.state != .inService),
      (.motion, doze &&
        (s.pf.state != .idle || s.sf.state != .idle || s.pf.claim.isSome || s.sf.claim.isSome
          || s.cutter.cutting))]

/-- LEVEL RUN accepted (R146, R154). -/
def State.levelToRun (s : State) (options : Byte) : State :=
  let stutter := options.getLsbD 2
  let s := { s with power := { s.power with stutter := stutter } }
  if stutter then s.powerPass else s.withdrawOrdinary

/-- LEVEL DOZE accepted (R146): a byte or a WAKE level already present is taken at once (R148), the byte first
where both are (DESIGN CHOICE, log entry 45); else the entry's steps begin (R147). -/
def State.levelToDoze (s : State) (options : Byte) : State :=
  let s := s.withdrawOrdinary
  let s := { s with power :=
    { s.power with
      quietReceive := options.getLsbD 0, quietErrors := options.getLsbD 1, wakeFirst := none
      wakeSet := [], level := some .enteringDoze, step := .none, drivesOff := false } }
  if s.port.inFifo.isEmpty = false then
    let s := s.takeWake .stream
    if s.pins.wake then s.takeWake .wake else s
  else if s.pins.wake then s.takeWake .wake
  else s.beginDoze

/-- LEVEL is taken (R146). -/
def State.takeLevel (s : State) (level options : Byte) : State :=
  match s.levelRefusal level options with
  | some c => s.refuse .level c (setByte level.toNat)
  | none => if level = 0 then s.levelToRun options else s.levelToDoze options

/-! ## MARK, CLEAR (R181, R80, R19) -/

/-- A report of a kind waits in the queue. -/
def State.holdsKind (s : State) (kind : Nat) : Bool :=
  s.reports.any fun e => e.report.kindCode == kind

/-- MARK is taken; none where a MARK report is in the queue (R181). -/
def State.takeMark (s : State) (value : Word) : Option State :=
  if s.holdsKind 0x8C then none else some (s.queueReport (.mark value))

/-- The first refusal of a CLEAR (R19, R80). -/
def State.clearRefusal (s : State) (subject : Byte) : Option Refused :=
  match subject.toNat with
  | 0 | 1 => firstRefusal [(.engineFault, s.pins.coverOpen)]
  | 2 =>
    firstRefusal
      [(.busy, s.pool.state != .inService),
        (.slotBusy, s.routesInUse.any fun r => (s.route r).isWriter)]
  | _ => some .badField

/-- CLEAR PRINTER: the engine, and a cutter in FAULT (R80). -/
def State.clearPrinterFault (s : State) : State :=
  { s with
    engines := { s.engines with printerFault := false }
    cutter := { s.cutter with
      state := if s.cutter.state = .fault then .idle else s.cutter.state } }

/-- CLEAR is taken (R19, R80). -/
def State.takeClear (s : State) (subject : Byte) : State :=
  match s.clearRefusal subject with
  | some c => s.refuse .clear c (setByte subject.toNat)
  | none =>
    match subject.toNat with
    | 0 => { s with engines := { s.engines with scannerFault := false } }
    | 1 => s.clearPrinterFault
    | _ => s.startRebuild.react

end Sys2Proof.Machine
end

