-- ==== Sys2Proof/Machine/Queries.lean ====
section
/-! DEFINITION. QUERY and its answers (R180): the fields of each subject as they stand. -/

namespace Sys2Proof.Machine

/-- A slot or page that may be absent. -/
def slotOpt {n : Nat} (x : Option (Fin n)) : List Byte := numberOpt (x.map Fin.val)

/-- All fields of an entry (R1). -/
def PageEntry.answer (e : PageEntry) : List Byte :=
  setByte e.state.ctorIdx ++ setByte e.origin.ctorIdx ++ number e.pitch ++ number e.codeSlot
    ++ number e.head ++ number e.tail ++ number e.blockCount ++ position e.bitLength
    ++ numberOpt e.lineCount ++ number e.badLines ++ flagByte e.truncated ++ flagByte e.damaged
    ++ number e.readers ++ slotOpt e.owner

/-- Every field of a route record (R60). -/
def Route.answer (x : Route) : List Byte :=
  setByteOpt (x.kind.map RouteKind.ctorIdx) ++ setByte x.state.ctorIdx ++ slotOpt x.page
    ++ slotOpt x.code ++ slotOpt x.heat ++ slotOpt x.pfRamp ++ slotOpt x.sfRamp ++ slotOpt x.shade
    ++ flagByte x.continues ++ flagByte x.dropAfter ++ flagByte x.cutAfter ++ number x.top
    ++ number x.pitch ++ number x.linesDone ++ number x.badLines ++ number x.consecBad
    ++ number x.badLimit ++ number x.overPhases ++ number x.skipped ++ number x.remainder
    ++ number x.minBits ++ number x.carrierMs ++ number x.jam ++ number x.lead ++ number x.eject
    ++ number x.tail ++ number x.trail ++ number x.maxLines ++ position x.lastLineEnd
    ++ setByteOpt (x.outcome.map Outcome.ctorIdx) ++ setByteOpt (x.cause.map Cause.ctorIdx)
    ++ flagByte x.unterminated

/-- A motion claim (R63). -/
def claimByte (x : Option MotionClaim) : List Byte := setByteOpt (x.map MotionClaim.ctorIdx)

/-- The engine claim map, the motion claims and the two fault states (R63). -/
def State.claimAnswer (s : State) : List Byte :=
  let e := s.engines
  slotOpt e.scanner ++ slotOpt e.coder ++ slotOpt e.printer ++ slotOpt e.decoder ++ slotOpt e.line
    ++ slotOpt e.hostIn ++ slotOpt e.hostOut ++ claimByte s.pf.claim ++ claimByte s.sf.claim
    ++ claimByte s.cutter.claim ++ flagByte e.scannerFault ++ flagByte e.printerFault

/-- The pool's counts (R22). -/
def State.poolAnswer (s : State) : List Byte :=
  setByte s.pool.state.ctorIdx ++ number s.pool.freeCount ++ number s.pool.spare.length
    ++ number s.pool.stranded ++ number s.available
    ++ s.routes.toList.flatMap (fun x => number x.remainder) ++ number s.setup.lowMark
    ++ setByte s.pool.alert.ctorIdx ++ number s.pool.dirQueue.length

/-- The error log's record, every field absent where it is empty, the scrub position and the scrub interval (R32):
SETUP's value, also before the expiry at which it takes effect (DESIGN CHOICE, log entry 63). -/
def State.logAnswer (s : State) : List Byte :=
  (match s.store.log with
    | some x => x.fields
    | none => setByteOpt none ++ numberOpt none ++ numberOpt none ++ numberOpt none
        ++ setByteOpt none)
    ++ number s.store.scrubPos ++ number s.setup.scrub

/-- The recorded failure of a BAD slot: the outcome, and for TABLE-FORM the test (R168). -/
def failureAnswer : Option LoadFailure → List Byte
  | none => setByteOpt none ++ numberOpt none
  | some .check => setByte 0 ++ numberOpt none
  | some (.form test) => setByte 1 ++ number test

/-- A slot record (R168). -/
def TableSlot.answer (x : TableSlot) : List Byte :=
  setByteOpt (x.kind.map TableKind.ctorIdx) ++ setByte x.state.ctorIdx ++ number x.length
    ++ number x.check ++ number x.binds ++ failureAnswer x.failure

/-- A motor's items (R133); the hold time remaining in whole ms. -/
def Motor.answer (m : Motor) (now : Nat) : List Byte :=
  setByte m.state.ctorIdx ++ number m.index ++ number m.phase ++ setByte m.hold.ctorIdx
    ++ number (((m.holdTimer.getD now) - now) / 1000) ++ flagByte m.claim.isSome

/-- The items of R145 and R133.  The level has its place in R145's list (DESIGN CHOICE, log entry 48); the
watermark is SETUP's (DESIGN CHOICE, log entry 49). -/
def State.levelAnswer (s : State) : List Byte :=
  setByteOpt (s.power.level.map Level.ctorIdx) ++ flagByte s.power.stutter
    ++ flagByte s.power.quietReceive ++ flagByte s.power.quietErrors
    ++ setByteOpt (s.power.wakeFirst.map WakeCause.ctorIdx) ++ causeSet s.power.wakeSet
    ++ setByte s.power.request.ctorIdx ++ setByte s.store.state.ctorIdx
    ++ number s.setup.watermark ++ number s.head.theta.toNat ++ number s.head.volts.toNat
    ++ setByte s.head.supply.ctorIdx ++ s.pf.answer s.now ++ s.sf.answer s.now
    ++ setByte s.cutter.state.ctorIdx ++ flagByte s.pins.home ++ flagByte (!s.pins.paperOut)

/-- The fields of a subject and argument, none where either is out of range (R180). -/
def State.answerFields (s : State) (subject arg : Byte) : Option (List Byte) :=
  match subject.toNat with
  | 0 => (asFin 32 arg.toNat).map fun p => (s.page p).answer
  | 1 => (asFin 4 arg.toNat).map fun r => (s.route r).answer ++ s.claimAnswer
  | 2 => if arg = 0 then some s.poolAnswer else none
  | 3 => if arg = 0 then some s.logAnswer else none
  | 4 => (asFin 16 arg.toNat).map fun t => (s.table t).answer
  | 5 => if arg = 0 then some s.levelAnswer else none
  | _ => none

/-- QUERY LOG empties the log (R32). -/
def State.emptyLog (s : State) : State := { s with store := { s.store with log := none } }

/-- QUERY is taken; none where an ANSWER report is in the queue (R178, R180).  The ANSWER gives its argument back as
the one byte the QUERY has (DESIGN CHOICE, log entry 58). -/
def State.takeQuery (s : State) (subject arg : Byte) : Option State :=
  if s.holdsKind 0x8B then none
  else
    some
      (match s.answerFields subject arg with
        | none => s.refuse .query .badField (setByte subject.toNat)
        | some fields =>
          let s := s.queueReport (.answer ([subject, arg] ++ fields))
          if subject.toNat = 3 then s.emptyLog else s)

end Sys2Proof.Machine
end

