-- ==== Sys2Proof/Machine/Parser.lean ====
section
/-! DEFINITION. The Order Parser (R176 to R178), the replay of the boot ROM (R159, R160), and the inbound
side of the stream port. -/

namespace Sys2Proof.Machine

/-! ## Orders by their bodies (R175, R177) -/

/-- The first body field a refusal carries, all ones where the body does not reach it; CUT has none
(R177). -/
def firstField (k : OrderKind) (body : List Byte) : List Byte :=
  match k with
  | .cut | .malformed => []
  | .setup | .mark | .imageEnd => if 2 ≤ body.length then body.take 2 else [0xFF, 0xFF]
  | .level | .query | .clear | .move => [body.headD 0xFF]
  | _ => numberOpt (body.head?.map BitVec.toNat)

/-- A little-endian word of two bytes. -/
def le (low high : Byte) : Word := wordOfBytes high low

/-- A ROUTE START body of 30 bytes (R175). -/
def startOf (bs : List Byte) : StartBody :=
  let b (i : Nat) : Byte := bs.getD i 0
  let w (i : Nat) : Word := le (b i) (b (i + 1))
  { slot := b 0, kind := b 1, options := b 2, pitch := b 3, top := b 4, code := b 5, heat := b 6
    pfRamp := b 7, sfRamp := b 8, shade := b 9, page := b 10, reservation := w 11
    badLimit := w 13, minBits := w 15, carrier := b 17, jam := w 18, lead := w 20, trail := w 22
    eject := w 24, tail := w 26, maxLines := w 28 }

/-- The bytes of a ROUTE START body (R175). -/
def startBytes (b : StartBody) : List Byte :=
  [b.slot, b.kind, b.options, b.pitch, b.top, b.code, b.heat, b.pfRamp, b.sfRamp, b.shade, b.page]
    ++ le16 b.reservation.toNat ++ le16 b.badLimit.toNat ++ le16 b.minBits.toNat ++ [b.carrier]
    ++ le16 b.jam.toNat ++ le16 b.lead.toNat ++ le16 b.trail.toNat ++ le16 b.eject.toNat
    ++ le16 b.tail.toNat ++ le16 b.maxLines.toNat

/-- The bytes of a SETUP body (R175). -/
def setupBytes (b : SetupBody) : List Byte :=
  le16 b.geometry.toNat ++ [b.refresh, b.scrub] ++ le16 b.lowMark.toNat
    ++ [b.lamp, b.settle, b.cutter, b.watermark]

/-- The bytes of a MOVE body (R175). -/
def moveBytes (b : MoveBody) : List Byte :=
  b.motor :: le16 b.steps.toNat ++ [b.direction, b.slot, b.top]

/-- A SETUP body of ten bytes (R175). -/
def setupOf (bs : List Byte) : SetupBody :=
  let b (i : Nat) : Byte := bs.getD i 0
  { geometry := le (b 0) (b 1), refresh := b 2, scrub := b 3, lowMark := le (b 4) (b 5), lamp := b 6
    settle := b 7, cutter := b 8, watermark := b 9 }

/-- A MOVE body of six bytes (R175). -/
def moveOf (bs : List Byte) : MoveBody :=
  let b (i : Nat) : Byte := bs.getD i 0
  { motor := b 0, steps := le (b 1) (b 2), direction := b 3, slot := b 4, top := b 5 }

/-- The body length of the orders that have one length; TABLE LOAD and DATA have four bytes or more (R175). -/
def OrderKind.bodyLength : OrderKind → Option Nat
  | .setup => some 10
  | .tableDrop | .pageDrop | .clear => some 1
  | .routeStart => some 30
  | .routeHalt | .level | .query | .mark | .imageEnd => some 2
  | .move => some 6
  | .cut => some 0
  | .tableLoad | .data | .malformed => none

/-- The parser holds the order before any of its tests (R178): a QUERY while an ANSWER waits, a MARK while a MARK
report does, a ROUTE START of HOST-STORE while fewer than two places are free. -/
def State.orderHeld (s : State) (k : OrderKind) (body : List Byte) : Bool :=
  match k with
  | .query => s.holdsKind 0x8B
  | .mark => s.holdsKind 0x8C
  | .routeStart =>
    (body[1]?.bind routeKindOf) == some .hostStore && decide (Config.dirCap < s.pool.dirQueue.length + 2)
  | _ => false

/-- An order from PORT is taken by its body; none where it is held, its tests then made when the hold ends (R177,
R178).  A length its row does not allow is refused BAD-FIELD, END before any other test. -/
def State.takeOrder (s : State) (k : OrderKind) (body : List Byte) : Option State :=
  let b (i : Nat) : Byte := body.getD i 0
  if k = .imageEnd then some (s.refuse .imageEnd .notInBoot (firstField .imageEnd body))
  else if s.orderHeld k body then none
  else if k.bodyLength ≠ some body.length then some (s.refuse k .badField (firstField k body))
  else
    match k with
    | .setup => some (s.takeSetup (setupOf body) false)
    | .tableDrop => some (s.takeTableDrop (b 0))
    | .pageDrop => s.takePageDrop (b 0)
    | .routeStart => s.takeStart (startOf body)
    | .routeHalt => some (s.takeHalt (b 0) (b 1))
    | .move => some (s.takeMove (moveOf body))
    | .cut => some s.takeCut
    | .level => some (s.takeLevel (b 0) (b 1))
    | .query => s.takeQuery (b 0) (b 1)
    | .mark => s.takeMark (le (b 0) (b 1))
    | .clear => some (s.takeClear (b 0))
    | .tableLoad | .data | .imageEnd | .malformed => some s

/-! ## The end of replay (R160) -/

/-- A BAD outcome undoes what replay loaded and set. -/
def State.undoReplay (s : State) : State :=
  let s := s.boot.loaded.foldl (fun s t => s.setTable t TableSlot.emptySlot) s
  { s with setup := Setup.default, store := { s.store with geometry := defaultGeometry } }

/-- Replay ends with an outcome, and the boot decides between warm and cold (R160, R161). -/
def State.replayEnd (s : State) (outcome : RomOutcome) : State :=
  let s := { s with boot := { s.boot with romOutcome := some outcome }, parser := Parser.start }
  (if outcome = .bad then s.undoReplay else s).decideBoot

/-- END's two bytes against the running image sum. -/
def State.replayCheck (s : State) (check : Word) : State :=
  s.replayEnd (if check = s.boot.imageSum then .good else .bad)

/-- An order from ROM is taken by its body: SETUP, TABLE LOAD of under four bytes, END; the rest is refused
(R159, R177). -/
def State.takeReplayed (s : State) (k : OrderKind) (body : List Byte) : State :=
  match k with
  | .setup =>
    if body.length = 10 then s.takeSetup (setupOf body) true
    else s.refuse .setup .badField (firstField .setup body)
  | .tableLoad => s.refuse .tableLoad .badField (firstField .tableLoad body)
  | .imageEnd => s.replayCheck (le (body.getD 0 0) (body.getD 1 0))
  | _ => s.refuse k .notInBoot (firstField k body)

/-- An order whose body is complete is taken, from either source. -/
def State.dispatch (s : State) (kind : Byte) (body : List Byte) : Option State :=
  match OrderKind.ofByte kind, s.parser.source with
  | some k, .port => s.takeOrder k body
  | some k, .rom => some (s.takeReplayed k body)
  | none, _ => some s

/-! ## HEAD, BODY and HUNT (R176) -/

/-- The parser at the start of a record. -/
def State.parserHead (s : State) : State :=
  { s with parser := { Parser.start with source := s.parser.source } }

/-- A malformed header: HUNT and a REFUSED report from PORT, a framing fault from ROM (R160, R176). -/
def State.badHeader (s : State) (kind : Byte) (length : Word) : State :=
  match s.parser.source with
  | .port =>
    { s with parser := { Parser.start with source := .port, state := .hunt } }.queueReport
      (.refused .malformed .badField (kind :: le16 length.toNat))
  | .rom => s.replayEnd .bad

/-- A complete header (R176): BODY; at once the order, for a length of 0. -/
def State.headerDone (s : State) (kind low high : Byte) : Option State :=
  let length := le low high
  if (OrderKind.ofByte kind).isNone || decide (1040 < length.toNat) then some (s.badHeader kind length)
  else if s.parser.source = .rom ∧ kind = 0x0E ∧ length ≠ 2 then some (s.replayEnd .bad)
  else if length = 0 then s.parserHead.dispatch kind []
  else
    some { s with parser :=
      { s.parser with
        state := .body, header := [], kind := kind, length := length.toNat, body := [], taken := 0
        use := .collect } }

/-- A byte taken in HEAD (R176). -/
def State.headByte (s : State) (b : Byte) : Option State :=
  let held := { s with parser := { s.parser with header := s.parser.header ++ [b] } }
  match s.parser.header with
  | [] => some held
  | [kind] => if kind = 0x7E ∧ b ≠ 0x81 then some (s.badHeader kind (Config.halfLength b)) else some held
  | [kind, low] =>
    if kind = 0x7E then
      if b = 0x7E then some held else some (s.badHeader kind (le low b))
    else s.headerDone kind low b
  | kind :: low :: high :: _ =>
    if b = 0x81 then some s.parserHead else some (s.badHeader kind (le low high))

/-- TABLE LOAD or DATA is taken at its fourth body byte: the state, and what becomes of the bytes left
(R170, R177). -/
def State.fourthUse (s : State) (kind a b c d : Byte) (n : Nat) : State × BodyUse :=
  if s.parser.source = .rom ∧ kind ≠ 0x02 then (s.refuse .data .notInBoot (number a.toNat), .skip)
  else if kind = 0x02 then
    let x := s.takeLoad a b n (s.parser.source == .rom)
    (x.1, (x.2.map fun t => BodyUse.load t (le c d)).getD .skip)
  else
    let x := s.takeData a b (le c d) n
    (x.1, (x.2.map fun r => BodyUse.place r (b.getLsbD 0)).getD .skip)

/-- The parser at the `n` bytes left of the body, or at the end of the order for none (R171). -/
def State.bytesFollow (s : State) (use : BodyUse) (n : Nat) : State :=
  if n = 0 then
    match use with
    | .load t check => s.parserHead.endLoad t check
    | _ => s.parserHead
  else { s with parser := { s.parser with body := [], taken := 4, use := use } }

/-- The fourth body byte of a TABLE LOAD or a DATA (R170, R177). -/
def State.fourthByte (s : State) (kind a b c d : Byte) (length : Nat) : State :=
  let x := s.fourthUse kind a b c d (length - 4)
  x.1.bytesFollow x.2 (length - 4)

/-- A data byte is written into the slot's storage (R170). -/
def State.storeByte (s : State) (t : TableNo) (b : Byte) : State :=
  s.setTable t { s.table t with storage := (s.table t).storage ++ [b] }

/-- A byte taken in BODY; none where the order, or the byte, is held (R176 to R178). -/
def State.bodyByte (s : State) (b : Byte) : Option State :=
  let p := s.parser
  let taken := p.taken + 1
  let last := decide (p.length ≤ taken)
  let counted (t : State) : State :=
    if last then t.parserHead else { t with parser := { t.parser with taken := taken } }
  match p.use with
  | .skip => some (counted s)
  | .load t check =>
    let s := s.storeByte t b
    some (if last then s.parserHead.endLoad t check else counted s)
  | .place r final =>
    (s.placeByte r b).map fun s => if last then (s.parserHead.placedOrder r final).react else counted s
  | .collect =>
    let body := p.body ++ [b]
    match body with
    | [x, y, z, w] =>
      if p.kind = 0x02 ∨ p.kind = 0x07 then some (s.fourthByte p.kind x y z w p.length)
      else if last then s.parserHead.dispatch p.kind body
      else some { s with parser := { p with body := body, taken := taken } }
    | _ =>
      if last then s.parserHead.dispatch p.kind body
      else some { s with parser := { p with body := body, taken := taken } }

/-- The sequence HUNT looks for (R176). -/
def resyncBytes : List Byte := [0x7E, 0x81, 0x7E, 0x81]

/-- Bytes of the sequence matched after one more byte. -/
def huntMatched (matched : Nat) (b : Byte) : Nat :=
  if resyncBytes[matched]? = some b then matched + 1 else if b = 0x7E then 1 else 0

/-- A byte taken in HUNT (R176). -/
def State.huntByte (s : State) (b : Byte) : State :=
  let m := huntMatched s.parser.matched b
  if m = 4 then s.parserHead else { s with parser := { s.parser with matched := m } }

/-- The parser takes a byte; none where it stalls (R176, R178). -/
def State.takeByte (s : State) (b : Byte) : Option State :=
  if s.parser.source = .port ∧ s.power.level ≠ some .run then none
  else
    match s.parser.state with
    | .head => s.headByte b
    | .body => s.bodyByte b
    | .hunt => some (s.huntByte b)

/-! ## The boot ROM (R159, R160) -/

/-- The byte belongs to an END record, and not to the image sum (R160). -/
def Parser.inEnd (p : Parser) (b : Byte) : Bool :=
  match p.state with
  | .head => (p.header ++ [b]).headD 0 == 0x0E
  | .body => p.kind == 0x0E
  | .hunt => false

/-- Replay is under way. -/
def State.replaying (s : State) : Bool := s.boot.state == .romReplay && s.boot.romOutcome.isNone

/-- The running image sum with a byte handed to the parser: it covers every byte up to the END record's kind
byte (R160). -/
def State.romSum (s : State) (b : Byte) : Word :=
  if s.parser.inEnd b then s.boot.imageSum else s.boot.imageSum + b.setWidth 16

/-- A byte handed to the parser, its address before the read position's advance (R159, R160).  After the byte of
address 65535 the position stands at 65536 (DESIGN CHOICE, log entry 46). -/
def State.replayByte (s : State) (b : Byte) : State :=
  let at_ := s.boot.romPos
  match { s with boot := { s.boot with romPos := at_ + 1, imageSum := s.romSum b } }.takeByte b with
  | none => s
  | some t => if t.replaying && at_ == 65535 then t.replayEnd .bad else t

/-- A byte read from the boot ROM (R159): FFh first is no image, and a first record other than a SETUP a
framing fault (R160). -/
def State.romByte (s : State) (b : Byte) : State :=
  if s.replaying then
    if s.boot.romPos = 0 ∧ b = 0xFF then { s with boot := { s.boot with romPos := 1 } }.replayEnd .absent
    else if s.boot.romPos = 0 ∧ b ≠ 0x01 then
      { s with boot := { s.boot with romPos := 1, imageSum := s.romSum b } }.replayEnd .bad
    else s.replayByte b
  else s

/-! ## The inbound side of the port (R178) -/

/-- Inbound ready: the port is open and the FIFO has a place (R155, R156, R178). -/
def State.inboundReady (s : State) : Bool :=
  s.boot.state == .ready && s.power.level != some .enteringRetain
    && s.power.level != some .retain && decide (s.port.inFifo.length < Config.streamFifoCap)

/-- The parser takes bytes from the FIFO until it stalls. -/
def State.pump : Nat → State → State
  | 0, s => s
  | n + 1, s =>
    match s.port.inFifo with
    | [] => s
    | b :: rest =>
      match { s with port := { s.port with inFifo := rest } }.takeByte b with
      | some t => State.pump n t
      | none => s

/-- A level that a full wake leads to RUN (R148, R149). -/
def wakes (level : Option Level) : Bool :=
  level == some .enteringDoze || level == some .doze || level == some .waking || level == some .dozeRx

/-- In the event in which a full wake reaches RUN the parser resumes with the first byte in the inbound FIFO
(R149); `before` is the level at the event's beginning. -/
def State.resume (s : State) (before : Option Level) : State :=
  if wakes before && s.power.level == some .run && !s.port.inFifo.isEmpty then
    (State.pump Config.streamFifoCap s).react
  else s

/-- A byte written by the host (R178): one that stays in the FIFO is the wake cause STREAM (R148). -/
def State.inbound (s : State) (b : Byte) : State :=
  if s.inboundReady then
    let t := State.pump Config.streamFifoCap
      { s with port := { s.port with inFifo := s.port.inFifo ++ [b] } }
    ((if t.port.inFifo.isEmpty then t else t.takeWake .stream).react).resume s.power.level
  else s

/-- A record's bytes as the boot ROM or the host brings them. -/
def State.bring (s : State) (bytes : List Byte) : State :=
  if s.boot.state = .romReplay then bytes.foldl State.romByte s else bytes.foldl State.inbound s

/-- The parser is at RUN, at the start of a record from PORT, with nothing in the FIFO before it. -/
def State.atHead (s : State) : Bool :=
  s.boot.state == .ready && s.power.level == some .run && s.parser.source == .port
    && s.parser.state == .head && s.parser.header.isEmpty && s.port.inFifo.isEmpty

/-- An order's record of a stated length, of which `body` is brought: taken at once where the parser is at the
start of a record and does not hold it, and as its bytes otherwise. -/
def State.order (s : State) (kind length : Nat) (body : List Byte) (taken : Option State) : State :=
  match s.atHead, taken with
  | true, some t => t
  | _, _ => s.bring (recordBytes kind length body)

/-! ## Orders with bodies of many bytes -/

/-- TABLE LOAD up to its fourth body byte, its header in form (R170). -/
def State.loadOrder (s : State) (slot kind : Byte) (check : Word) (n : Nat) : State :=
  { s with parser :=
    { Parser.start with source := .port, state := .body, kind := 0x02, length := n + 4 } }.fourthByte
    0x02 slot kind (lowByte check) (highByte check) (n + 4)

/-- The slot and check of a load the parser is in, where `n` more bytes complete it. -/
def State.loadEnding (s : State) (n : Nat) : Option (TableNo × Word) :=
  match s.parser.use with
  | .load t check =>
    if s.boot.state = .ready ∧ s.power.level = some .run ∧ s.parser.source = .port
        ∧ s.parser.state = .body ∧ s.port.inFifo.isEmpty ∧ 0 < n
        ∧ s.parser.taken + n = s.parser.length then
      some (t, check)
    else none
  | _ => none

/-- Data bytes are written into the slot's storage (R170). -/
def State.storeBytes (s : State) (t : TableNo) (data : List Byte) : State :=
  s.setTable t { s.table t with storage := (s.table t).storage ++ data }

/-- A DATA order whose bytes the HOST-IN queue can take; none where the parser would stall on one
(R68, R178). -/
def State.dataWhole (s : State) (slot flags : Byte) (lines : Word) (bytes : List Byte) :
    Option State :=
  if 1036 < bytes.length then none
  else
    match s.takeData slot flags lines bytes.length with
    | (t, none) => some t
    | (t, some r) =>
      (bytes.foldlM (fun (u : State) b => u.placeByte r b) t).map fun (u : State) =>
        (u.placedOrder r (flags.getLsbD 0)).react

/-- END stands next in the image: its five bytes lie before the last address. -/
def State.replayHead (s : State) : Bool :=
  s.replaying && s.parser.source == .rom && s.parser.state == .head && s.parser.header.isEmpty
    && decide (0 < s.boot.romPos) && decide (s.boot.romPos + 5 ≤ 65536)

/-- END is replayed (R160). -/
def State.replayImageEnd (s : State) (check : Word) : State :=
  { s with boot := { s.boot with romPos := s.boot.romPos + 5 } }.replayCheck check

end Sys2Proof.Machine
end

