-- ==== Sys2Proof/Machine/BootCommands.lean ====
section
/-! DEFINITION. The meanings of reset, the end of HOLD and the boot ROM's bytes (chapter 10). -/

namespace Sys2Proof.Machine

/-- Power-on or the reset pin (R157): the retained flag stands where the backup domain kept its supply. -/
def execReset (backupHeld : Bool) (s : State) : Host.Outcome State Fault Refusal :=
  .next
    (State.afterReset s.pending s.now s.choices s.pins s.store.dram
      (s.boot.retained && backupHeld))

/-- MEMORY-START begins (R158).  INIT's rows run and ON is entered also in HOLD, and MEMORY-START then ends in the
event it begins in (DESIGN CHOICE, log entry 57). -/
def State.memoryStart (s : State) : State :=
  let s := s.setBoot { s.boot with state := .memoryStart }
  if s.boot.retained then s.storeWithdraw
  else if s.store.state = .on then s.bootOn
  else s

/-- Reset is released and PFAIL deasserted (R158). -/
def execHoldRelease (s : State) : Host.Outcome State Fault Refusal :=
  let s := { s with pins := { s.pins with pfail := false } }
  .next (if s.boot.state = .hold then s.memoryStart else s)

/-- A byte read from the boot ROM (R159). -/
def execRomByte (byte : Byte) (s : State) : Host.Outcome State Fault Refusal :=
  .next (s.romByte byte)

end Sys2Proof.Machine
end

