-- ==== Sys2Proof/Machine/CodingCommands.lean ====
section
/-! DEFINITION. The meanings of the Coder's and the decoders' commands (chapter 3). -/

namespace Sys2Proof.Machine

/-- The Coder's line is complete with its last code: counted, its slot freed, its end the route's last line
end (R4, R47). -/
def State.codeLine (s : State) (r : RouteNo) (last : Bits) : State :=
  let c := s.coder.append last
  let x := s.route r
  let lines := sat16 (x.linesDone + 1)
  let s := s.setRoute r { x with linesDone := lines, lastLineEnd := c.bitPos }
  let writer := c.writer.addEnd { pos := c.bitPos, lines := lines, bad := 0 }
  { s with
    coder := { c with state := .waiting, codes := [], writer := writer }
    scanner := { s.scanner with coding := false } }.roomRaised

/-- The Coder completes its line with the last code of its last run (R47). -/
def execCoderLineComplete (s : State) : Host.Outcome State Fault Refusal :=
  match s.coder.slot, s.coder.state, s.coder.codes with
  | some r, .coding, [last] =>
    if s.coder.runs = [] ∧ (s.route r).live ∧ last.length ≤ s.coder.space then .next (s.codeLine r last).react
    else .next s
  | _, _, _ => .next s

/-- The Print Decoder's next move, where it decodes and holds no line (R57). -/
def State.printMove (s : State) : Option (RouteNo × PrintDecoder × Verdict) :=
  match s.printDec.slot with
  | some r =>
    let x := s.route r
    if x.live && x.state != .armed && !s.heldByDamage r && s.printDec.held.isNone
        && !s.printDec.told then
      let table := s.storage x.code
      let (d, v) := s.printDec.act (endCount table) (s.printFinds table)
      some (r, d, v)
    else none
  | none => none

/-- A classified line is handed to the print ring: as decoded, or as the previous good line, white where
there is none (R57). -/
def State.handLine (s : State) (r : RouteNo) (d : PrintDecoder) (good : Bool) : State :=
  let line := if good then d.buffer else s.printDec.prevGood.getD Dots.white
  let d := if good then { d with prevGood := some d.buffer } else d
  let s := { s with printDec := d }.countLine r good
  if 0 < s.head.freeSlots then (s.enterRing line).pfReexamine
  else { s with printDec := { s.printDec with held := some line } }

/-- The Print Decoder classifies a line (R57). -/
def execDecoderLine (s : State) : Host.Outcome State Fault Refusal :=
  match s.printMove with
  | some (r, d, .good) => .next (s.handLine r d true).react
  | some (r, d, .bad) => .next (s.handLine r d false).react
  | _ => .next s

/-- The Print Decoder enters ENDED and tells its route (R54, R57). -/
def State.printEnded (s : State) : State :=
  match s.printMove with
  | some (_, d, .ended pattern) =>
    { s with printDec := { d with told := true, unterminated := !pattern } }.react
  | _ => s

/-- The Check Decoder of a LINE-SEND route enters ENDED (R54, R59). -/
def State.checkEnded (s : State) : State :=
  match s.line.slot with
  | some r =>
    let x := s.route r
    if x.isKind .lineSend && x.live && x.halt != .finish && !s.heldByDamage r then
      match s.txMove r true with
      | some t => t.react
      | none => s
    else s
  | none => s

/-- A decoder enters ENDED (R54). -/
def execDecodingEnd (decoder : DecoderName) (s : State) : Host.Outcome State Fault Refusal :=
  match decoder with
  | .print => .next s.printEnded
  | .check => .next s.checkEnded

end Sys2Proof.Machine
end

