-- ==== Sys2Proof/Machine/LineCommands.lean ====
section
/-! DEFINITION. The meanings of the Line Port's commands (chapter 8). -/

namespace Sys2Proof.Machine

/-- Received bits, to the completion of a byte (R137). -/
def execRxByte (bits : Bits) (s : State) : Host.Outcome State Fault Refusal :=
  .next ((bits.foldl State.rxBit s).react.resume s.power.level)

/-- Received bits, to the first sync (R136). -/
def execFirstSync (bits : Bits) (s : State) : Host.Outcome State Fault Refusal :=
  .next ((bits.foldl State.rxBit s).react.resume s.power.level)

/-- LINE-VALID changes (R140). -/
def execLineValidChange (level : Bool) (s : State) : Host.Outcome State Fault Refusal :=
  .next
    (if s.pins.lineValid = level then s else (s.lineValidTo level).react.resume s.power.level)

/-- The carrier timer expires (R140). -/
def execCarrierTimerExpiry (s : State) : Host.Outcome State Fault Refusal :=
  match s.line.slot, s.line.carrier with
  | some r, some d => .next (((s.reach d).failRoute r .carrier).react.resume s.power.level)
  | _, _ => .next s

/-- A transmit clock begins an underrun (R143). -/
def execUnderrun (s : State) : Host.Outcome State Fault Refusal :=
  .next (if s.txNext = .empty ∧ s.line.inUnderrun = false then s.txClock.react else s)

/-- The last page bit before the end leaves TXD (R144). -/
def execLineSendEnd (s : State) : Host.Outcome State Fault Refusal :=
  match s.txNext with
  | .bit _ true => .next s.txClock.react
  | _ => .next s

/-- A transmit clock (R142). -/
def execTransmitClock (s : State) : Host.Outcome State Fault Refusal :=
  .next s.txClock.react

end Sys2Proof.Machine
end

