-- ==== Sys2Proof/Machine/MotionCommands.lean ====
section
/-! DEFINITION. The meanings of the motors', the cutter's and PAPER's commands (chapter 7). -/

namespace Sys2Proof.Machine

/-- A motor's step timer expires (R115). -/
def execStepTimerExpiry (motor : MotorName) (s : State) : Host.Outcome State Fault Refusal :=
  match (s.motor motor).timer with
  | some d => .next ((s.reach d).stepExpiry motor).react
  | none => .next s

/-- A motor's hold timer expires (R126). -/
def execHoldTimerExpiry (motor : MotorName) (s : State) : Host.Outcome State Fault Refusal :=
  match (s.motor motor).holdTimer with
  | some d =>
    let s := s.reach d
    .next (s.setMotor motor { s.motor motor with hold := .off, holdTimer := none })
  | none => .next s

/-- The ARMED print or copy routes, which a lost PAPER fails (R66, R120). -/
def State.armedPrinters (s : State) : List RouteNo :=
  (allFin 4).filter fun r => (s.route r).usesPrinter && (s.route r).state == .armed

/-- PAPER changes: reported, a resting PF re-examined, an ARMED route failed (R66, R120). -/
def State.paperTo (s : State) (present : Bool) : State :=
  let s := { s with pins := { s.pins with paperOut := !present } }
  if s.boot.state = .ready ∧ s.power.level ≠ some .retain then
    let s := s.queueReport (.sensor .paper present)
    let s := if present then s.pfReexamine
      else s.armedPrinters.foldl (fun u r => u.failRoute r .paper) s.pfPaperOut
    s.react
  else s

/-- A debounced change of PAPER (R120). -/
def execPaperChange (present : Bool) (s : State) : Host.Outcome State Fault Refusal :=
  .next (if s.pins.paperOut = !present then s else s.paperTo present)

/-- HOME changes: the blade leaves HOME, or is back (R129, R130). -/
def State.homeTo (s : State) (level : Bool) : State :=
  let s := { s with pins := { s.pins with home := level } }
  match s.cutter.state with
  | .out => if level then s else { s with cutter := { s.cutter with state := .back } }
  | .back => if level then s.cutDone.react else s
  | _ => s

/-- A change of HOME (R129). -/
def execHomeChange (level : Bool) (s : State) : Host.Outcome State Fault Refusal :=
  .next (if s.pins.home = level then s else s.homeTo level)

/-- The cutter timer expires (R130). -/
def execCutterTimeout (s : State) : Host.Outcome State Fault Refusal :=
  match s.cutter.timer with
  | some d => .next ((s.reach d).cutFailed).react
  | none => .next s

end Sys2Proof.Machine
end

