-- ==== Sys2Proof/Machine/OrderCommands.lean ====
section
/-! DEFINITION. The meanings of the orders and of the parser's commands (chapters 11 and 12). -/

namespace Sys2Proof.Machine

/-- SETUP (R179). -/
def execSetup (body : SetupBody) (s : State) : Host.Outcome State Fault Refusal :=
  .next (s.order 0x01 10 (setupBytes body) (some (s.takeSetup body false)))

/-- TABLE LOAD up to its fourth body byte (R170). -/
def execTableLoad (slot kind : Byte) (check : Word) (dataLength : Nat) (s : State) :
    Host.Outcome State Fault Refusal :=
  .next
    (s.order 0x02 (dataLength + 4) ([slot, kind] ++ le16 check.toNat)
      (if dataLength ≤ 1036 then some (s.loadOrder slot kind check dataLength) else none))

/-- The data bytes of a TABLE LOAD, to the last (R171). -/
def execTableLoadEnd (data : List Byte) (s : State) : Host.Outcome State Fault Refusal :=
  match s.loadEnding data.length with
  | some (t, check) => .next (((s.storeBytes t data).parserHead).endLoad t check)
  | none => .next (s.bring data)

/-- TABLE DROP (R174). -/
def execTableDrop (slot : Byte) (s : State) : Host.Outcome State Fault Refusal :=
  .next (s.order 0x03 1 [slot] (some (s.takeTableDrop slot)))

/-- PAGE DROP (R9). -/
def execPageDrop (page : Byte) (s : State) : Host.Outcome State Fault Refusal :=
  .next (s.order 0x04 1 [page] (s.takePageDrop page))

/-- ROUTE START (R64 to R66). -/
def execRouteStart (body : StartBody) (s : State) : Host.Outcome State Fault Refusal :=
  .next (s.order 0x05 30 (startBytes body) (s.takeStart body))

/-- ROUTE HALT in mode FINISH (R73, R74). -/
def execRouteHaltFinish (slot : Byte) (s : State) : Host.Outcome State Fault Refusal :=
  .next (s.order 0x06 2 [slot, 0] (some (s.takeHalt slot 0)))

/-- ROUTE HALT in mode NOW (R73, R75). -/
def execRouteHaltNow (slot : Byte) (s : State) : Host.Outcome State Fault Refusal :=
  .next (s.order 0x06 2 [slot, 1] (some (s.takeHalt slot 1)))

/-- DATA (R68). -/
def execData (slot flags : Byte) (lines : Word) (bytes : List Byte) (s : State) :
    Host.Outcome State Fault Refusal :=
  .next
    (s.order 0x07 (bytes.length + 4) ([slot, flags] ++ le16 lines.toNat ++ bytes)
      (s.dataWhole slot flags lines bytes))

/-- MOVE (R124). -/
def execMove (body : MoveBody) (s : State) : Host.Outcome State Fault Refusal :=
  .next (s.order 0x08 6 (moveBytes body) (some (s.takeMove body)))

/-- CUT (R132). -/
def execCut (s : State) : Host.Outcome State Fault Refusal :=
  .next (s.order 0x09 0 [] (some s.takeCut))

/-- LEVEL naming RUN (R146). -/
def execLevelRun (options : Byte) (s : State) : Host.Outcome State Fault Refusal :=
  .next (s.order 0x0A 2 [0, options] (some (s.takeLevel 0 options)))

/-- LEVEL naming DOZE (R146, R147). -/
def execLevelDoze (options : Byte) (s : State) : Host.Outcome State Fault Refusal :=
  .next (s.order 0x0A 2 [1, options] (some (s.takeLevel 1 options)))

/-- QUERY with subject PAGE (R1, R180). -/
def execQueryPage (page : Byte) (s : State) : Host.Outcome State Fault Refusal :=
  .next (s.order 0x0B 2 [0, page] (s.takeQuery 0 page))

/-- QUERY with subject ROUTE (R60, R180). -/
def execQueryRoute (slot : Byte) (s : State) : Host.Outcome State Fault Refusal :=
  .next (s.order 0x0B 2 [1, slot] (s.takeQuery 1 slot))

/-- QUERY with subject POOL (R22, R180). -/
def execQueryPool (arg : Byte) (s : State) : Host.Outcome State Fault Refusal :=
  .next (s.order 0x0B 2 [2, arg] (s.takeQuery 2 arg))

/-- QUERY with subject LOG (R32, R180). -/
def execQueryLog (arg : Byte) (s : State) : Host.Outcome State Fault Refusal :=
  .next (s.order 0x0B 2 [3, arg] (s.takeQuery 3 arg))

/-- QUERY with subject TABLE (R168, R180). -/
def execQueryTable (slot : Byte) (s : State) : Host.Outcome State Fault Refusal :=
  .next (s.order 0x0B 2 [4, slot] (s.takeQuery 4 slot))

/-- QUERY with subject LEVEL (R145, R180). -/
def execQueryLevel (arg : Byte) (s : State) : Host.Outcome State Fault Refusal :=
  .next (s.order 0x0B 2 [5, arg] (s.takeQuery 5 arg))

/-- MARK (R181). -/
def execMark (value : Word) (s : State) : Host.Outcome State Fault Refusal :=
  .next (s.order 0x0C 2 (le16 value.toNat) (s.takeMark value))

/-- CLEAR SCANNER (R80). -/
def execClearScanner (s : State) : Host.Outcome State Fault Refusal :=
  .next (s.order 0x0D 1 [0] (some (s.takeClear 0)))

/-- CLEAR PRINTER (R80). -/
def execClearPrinter (s : State) : Host.Outcome State Fault Refusal :=
  .next (s.order 0x0D 1 [1] (some (s.takeClear 1)))

/-- CLEAR POOL (R19). -/
def execClearPool (s : State) : Host.Outcome State Fault Refusal :=
  .next (s.order 0x0D 1 [2] (some (s.takeClear 2)))

/-- END: from ROM it ends replay (R160), from PORT it is refused (R177). -/
def execImageEnd (check : Word) (s : State) : Host.Outcome State Fault Refusal :=
  if s.replayHead then .next (s.replayImageEnd check)
  else
    .next
      (s.order 0x0E 2 (le16 check.toNat)
        (some (s.refuse .imageEnd .notInBoot (number check.toNat))))

/-- RESYNC: a no-op in HEAD (R176). -/
def execResync (s : State) : Host.Outcome State Fault Refusal :=
  .next (if s.atHead then s else s.bring resyncBytes)

/-- A header that is malformed (R176). -/
def execMalformed (kind : Byte) (length : Word) (s : State) : Host.Outcome State Fault Refusal :=
  let bad := kind != 0x7E && ((OrderKind.ofByte kind).isNone || decide (1040 < length.toNat))
  .next (if s.atHead && bad then s.badHeader kind length else s.bring (kind :: le16 length.toNat))

/-- A byte taken in HUNT (R176). -/
def execHunt (byte : Byte) (s : State) : Host.Outcome State Fault Refusal :=
  .next
    (if s.parser.state = .hunt ∧ s.power.level = some .run ∧ s.port.inFifo.isEmpty then
      s.huntByte byte
    else s)

end Sys2Proof.Machine
end

