-- ==== Sys2Proof/Machine/PortCommands.lean ====
section
/-! DEFINITION. The meanings of the stream port's commands (R178, R183). -/

namespace Sys2Proof.Machine

/-- A byte written by the host (R178). -/
def execInboundByte (byte : Byte) (s : State) : Host.Outcome State Fault Refusal :=
  .next (s.inbound byte)

/-- The parser resumes after a stall (R178). -/
def execStallEnd (s : State) : Host.Outcome State Fault Refusal :=
  .next (State.pump Config.streamFifoCap s).react

/-- The multiplexer begins a record (R183). -/
def execReportRecordBegin (s : State) : Host.Outcome State Fault Refusal :=
  .next s.beginRecord

/-- The last byte of a record enters the outbound FIFO (R183), which may end a PAGE-HOST route (R69). -/
def execRecordComplete (s : State) : Host.Outcome State Fault Refusal :=
  .next s.completeRecord.react

/-- The host reads the oldest byte of the outbound FIFO (R183). -/
def execOutboundRead (s : State) : Host.Outcome State Fault Refusal :=
  match s.port.outFifo with
  | [] => .next s
  | b :: rest =>
    .next
      (State.outPass Config.streamFifoCap
        { s with port := { s.port with outFifo := rest, lastRead := some b } })

end Sys2Proof.Machine
end

