-- ==== Sys2Proof/Machine/PowerCommands.lean ====
section
/-! DEFINITION. The meanings of the commands of COVER, WAKE, PFAIL and the entries of Power Control (chapters 4
and 9). -/

namespace Sys2Proof.Machine

/-- The motors, the cutter and the head stop at once (R79, R105, R109, R127, R131, R155). -/
def State.stopMechanics (s : State) (report : Bool) : State :=
  (((s.dropMotor .pf report).dropMotor .sf report).stopCut report).supplyOff

/-- Every route claiming SCANNER or PRINTER whose outcome is not fixed fails COVER (R79). -/
def State.failMechanics (s : State) : State :=
  (allFin 4).foldl
    (fun u r =>
      if (u.route r).usesScanner || (u.route r).usesPrinter then u.failRoute r .cover else u) s

/-- COVER opens (R79, R148). -/
def State.coverOpens (s : State) : State :=
  let s := { s with pins := { s.pins with coverOpen := true } }
  if s.boot.state = .ready ∧ s.power.level ≠ some .retain then
    let s := (s.stopMechanics true).failMechanics
    let s := { s with engines := { s.engines with scannerFault := true, printerFault := true } }
    ((s.queueReport (.sensor .cover true)).takeWake .cover).react
  else s

/-- COVER changes to open (R79). -/
def execCoverOpening (s : State) : Host.Outcome State Fault Refusal :=
  .next (if s.pins.coverOpen then s else s.coverOpens.resume s.power.level)

/-- COVER closes (R79, R105, R148). -/
def State.coverCloses (s : State) : State :=
  let s := { s with pins := { s.pins with coverOpen := false } }
  if s.boot.state = .ready ∧ s.power.level ≠ some .retain then
    let s := s.queueReport (.sensor .cover false)
    let s := if s.power.level = some .run then s.supplyOn else s
    (s.takeWake .cover).react
  else s

/-- COVER changes to closed (R79). -/
def execCoverClosing (s : State) : Host.Outcome State Fault Refusal :=
  .next (if s.pins.coverOpen then s.coverCloses.resume s.power.level else s)

/-- WAKE changes; its assertion is a wake cause (R148). -/
def execWake (asserted : Bool) (s : State) : Host.Outcome State Fault Refusal :=
  let s := { s with pins := { s.pins with wake := asserted } }
  .next (if asserted then (s.takeWake .wake).react.resume s.power.level else s)

/-- DOZE entry's drain is over (R147). -/
def execDozeDrainDone (s : State) : Host.Outcome State Fault Refusal :=
  .next
    (if s.power.level = some .enteringDoze ∧ s.power.step = .drain ∧ s.pool.dirQueue.isEmpty then
      ({ s with power := { s.power with step := .selfRefresh } }.placeRequest.entryAdvance).react
    else s)

/-- A geometry clear is left where it stands (R155, R156). -/
def Boot.leaveClear (b : Boot) : Boot :=
  match b.task with
  | .geometryWait | .geometryClear _ | .geometryHeader => { b with task := .none }
  | _ => b

/-- Power-fail entry begins (R155). -/
def State.beginRetain (s : State) : State :=
  let s := { s with power :=
    { s.power with
      level := some .enteringRetain, step := .retainOn, drivesOff := false, abandoned := false } }
  let s := s.converterOn.clearWithheld
  let s := (s.setBoot s.boot.leaveClear).stopMechanics false
  let s := (allFin 4).foldl State.haltRoute s
  (s.withdrawOrdinary.queueReport .levelRetain).react

/-- PFAIL asserts (R155, R166). -/
def execPfailAssert (s : State) : Host.Outcome State Fault Refusal :=
  let s := { s with pins := { s.pins with pfail := true } }
  match s.boot.state with
  | .hold | .failSafe => .next s
  | .ready =>
    .next
      (match s.power.level with
        | some .enteringRetain | some .retain => s
        | _ => s.beginRetain)
  | _ => .next s.failSafe

/-- The drain of power-fail entry is over (R156): the CLEAN header is asked for, or passed over in a
geometry clear. -/
def State.retainDrained (s : State) : State :=
  if s.pool.state = .clearing then
    { s with
      boot := { s.boot with retained := true }
      power := { s.power with step := .retainRequest, request := .retain } }.placeRetain
  else { s with power := { s.power with step := .retainHeader } }

/-- Every route is IDLE and the directory write queue empty in power-fail entry (R156). -/
def execRetainDrainDone (s : State) : Host.Outcome State Fault Refusal :=
  .next
    (if s.power.level = some .enteringRetain ∧ s.power.step = .retainDrain
        ∧ s.routesInUse.isEmpty ∧ s.pool.dirQueue.isEmpty then
      s.retainDrained
    else s)

end Sys2Proof.Machine
end

