-- ==== Sys2Proof/Machine/PrintCommands.lean ====
section
/-! DEFINITION. The meanings of the Print Head Controller's commands (chapter 6). -/

namespace Sys2Proof.Machine

/-- The strobe timer expires: the load, a width or a gap ends; PF is told where the burn is complete (R108). -/
def State.strobeExpiry (s : State) (b : Burn) : State :=
  let s := s.strobeNext b
  match s.head.burn with
  | some c => if c.stage = .complete then s.burnComplete else s
  | none => s

/-- The burn whose strobe timer runs, with its time. -/
def Head.running (h : Head) : Option (Burn × Nat) :=
  match h.burn with
  | some b => b.timer.map fun d => (b, d)
  | none => none

/-- The strobe timer expires (R108): the burn's, or that of a phase cut off (R109), the earlier first. -/
def execStrobeTimerExpiry (s : State) : Host.Outcome State Fault Refusal :=
  match s.head.firstCut, s.head.running with
  | some (i, c), some (b, d) =>
    if c.ends ≤ d then .next ((s.reach c.ends).cutNext i c).react
    else .next ((s.reach d).strobeExpiry b).react
  | some (i, c), none => .next ((s.reach c.ends).cutNext i c).react
  | none, some (b, d) => .next ((s.reach d).strobeExpiry b).react
  | none, none => .next s

/-- The converter's sample replaces the held value of its channel; a θ sample re-tests the hot condition
(R104, R106). -/
def State.takeSample (s : State) (value : Byte) : State :=
  let next : Timer := some (s.now + Config.sampleTime)
  if s.head.thetaNext then
    { s with head :=
      { s.head with theta := value, thetaNext := false, sampleTimer := next } }.pfReexamine
  else { s with head := { s.head with volts := value, thetaNext := true, sampleTimer := next } }

/-- The converter completes a sample (R104). -/
def execConverterSample (value : Byte) (s : State) : Host.Outcome State Fault Refusal :=
  match s.head.sampleTimer with
  | some d => .next ((s.reach d).takeSample value).react
  | none => .next s

/-- The head settle timer expires (R105). -/
def execHeadSettled (s : State) : Host.Outcome State Fault Refusal :=
  match s.head.settleTimer with
  | some d =>
    let s := s.reach d
    .next
      ({ s with head :=
        { s.head with supply := .settled, settleTimer := none } }.pfReexamine).react
  | none => .next s

end Sys2Proof.Machine
end

