-- ==== Sys2Proof/Machine/ScanCommands.lean ====
section
/-! DEFINITION. The meanings of the Scanner Port's commands (chapter 5). -/

namespace Sys2Proof.Machine

/-- A debounced sensor is watched and reported: from READY on, at any level short of RETAIN (R87). -/
def State.sensing (s : State) : Bool := s.boot.state == .ready && s.power.level != some .retain

/-- The dots of a readout: black where the sample is below its segment's threshold (R82). -/
def thresholdLine (shade samples : List Byte) : Dots :=
  dotsOfBools ((List.range Config.lineDots).map fun x =>
    decide ((samples.getD x 255).toNat < shadeThreshold shade (x / 64)))

/-- A readout is complete: its slot holds a READY line (R82, R84, R98). -/
def State.capture (s : State) (r : RouteNo) (samples : List Byte) : State :=
  let d := thresholdLine (s.storage (s.route r).shade) samples
  let s := s.setScanner { s.scanner with capturing := false, captureTimer := none }
  if s.copying then
    ({ s with head := { s.head with capturing := false } }.enterRing d).pfReexamine
  else s.setScanner { s.scanner with ready := s.scanner.ready ++ [d] }

/-- A slot is CAPTURING: of the scan ring, or in COPY of the copy ring (R84, R99). -/
def State.capturing (s : State) : Bool :=
  if s.copying then s.head.capturing else s.scanner.capturing

/-- A sensor readout completes (R82), into the slot that it was claimed for. -/
def execCaptureComplete (samples : List Byte) (s : State) : Host.Outcome State Fault Refusal :=
  match s.engines.scanner, s.scanner.captureTimer with
  | some r, some d => .next (if s.capturing then ((s.reach d).capture r samples).react else s)
  | _, _ => .next s

/-- DOC-IN changes: reported, and its assertion wakes the part (R87, R148). -/
def State.docInTo (s : State) (level : Bool) : State :=
  let s := { s with pins := { s.pins with docIn := level } }
  if s.sensing then
    let s := s.queueReport (.sensor .docIn level)
    (if level then s.takeWake .docIn else s).react
  else s

/-- A debounced change of DOC-IN (R87). -/
def execDocInChange (level : Bool) (s : State) : Host.Outcome State Fault Refusal :=
  .next (if s.pins.docIn = level then s else (s.docInTo level).resume s.power.level)

/-- DOC-EDGE changes: reported, and FEED-IN, LEAD or CAPTURE goes on (R87, R90 to R92). -/
def State.docEdgeTo (s : State) (level : Bool) : State :=
  let s := { s with pins := { s.pins with docEdge := level } }
  if s.sensing then
    let s := s.queueReport (.sensor .docEdge level)
    let s := match s.engines.scanner with
      | some r => if (s.route r).live then (if level then s.edgeOn r else s.edgeOff r) else s
      | none => s
    s.react
  else s

/-- A debounced change of DOC-EDGE (R87). -/
def execDocEdgeChange (level : Bool) (s : State) : Host.Outcome State Fault Refusal :=
  .next (if s.pins.docEdge = level then s else s.docEdgeTo level)

/-- The lamp warm-up time passes (R88). -/
def execLampWarm (s : State) : Host.Outcome State Fault Refusal :=
  match s.scanner.lampTimer with
  | some d =>
    let s := s.reach d
    .next (s.setScanner { s.scanner with lamp := .warm, lampTimer := none }).react
  | none => .next s

end Sys2Proof.Machine
end

