-- ==== Sys2Proof/Machine/StoreCommands.lean ====
section
/-! DEFINITION. The meanings of the Page Store Controller's commands (chapter 2) and of a deferred route end
(R71). -/

namespace Sys2Proof.Machine

/-- A grant of the arbiter, with no burst in progress (R26). -/
def execArbiterGrant (s : State) : Host.Outcome State Fault Refusal :=
  match s.grantNext with
  | some t => .next (t.react.resume s.power.level)
  | none => .fault .outsideStore

/-- A burst ends, and the next grant is made (R26). -/
def execBurstEnd (flips : List StoreWord) (s : State) : Host.Outcome State Fault Refusal :=
  match s.store.burst with
  | none => .next s
  | some b =>
    match ((s.endBurst b flips).react.resume s.power.level).grantNext with
    | some t => .next t
    | none => .fault .outsideStore

/-- The refresh timer expires (R28). -/
def execRefreshTimerExpiry (s : State) : Host.Outcome State Fault Refusal :=
  match s.store.refreshTimer with
  | none => .next s
  | some d =>
    let s := s.reach d
    .next
      { s with store :=
        { s.store with
          backlog := s.store.backlog + 1, refreshTimer := some (s.now + s.setup.refresh) } }

/-- The scrub timer expires (R35). -/
def execScrubTimerExpiry (s : State) : Host.Outcome State Fault Refusal :=
  match s.store.scrubTimer with
  | none => .next s
  | some d =>
    let s := s.reach d
    .next
      { s with store :=
        { s.store with
          scrubWaiting := true, scrubTimer := some (s.now + 1000 * s.setup.scrub) } }

/-- WAKING ends (R40). -/
def execWakingEnd (s : State) : Host.Outcome State Fault Refusal :=
  match s.store.state, s.store.wakeTimer with
  | .waking, some d => .next ((s.reach d).storeOn.react.resume s.power.level)
  | _, _ => .next s

/-- A route held in HALTING for directory places ends (R71). -/
def execRouteEndDeferred (slot : Fin 4) (s : State) : Host.Outcome State Fault Refusal :=
  match (s.route slot).fate with
  | some f =>
    if s.endNeed slot f ≤ s.dirPlaces then
      .next ((s.finishRoute slot f).react.resume s.power.level)
    else .next s
  | none => .next s

end Sys2Proof.Machine
end

