-- ==== Sys2Proof/Machine/Dispatch.lean ====
section
/-! DEFINITION. The effect of each command: one arm per constructor, one meaning per arm. -/

namespace Sys2Proof.Machine

def exec (i : Instr) (s : State) : Host.Outcome State Fault Refusal :=
  match i with
  | .setup body => Sys2Proof.Machine.execSetup body s
  | .tableLoad slot kind check dataLength => Sys2Proof.Machine.execTableLoad slot kind check dataLength s
  | .tableLoadEnd data => Sys2Proof.Machine.execTableLoadEnd data s
  | .tableDrop slot => Sys2Proof.Machine.execTableDrop slot s
  | .pageDrop page => Sys2Proof.Machine.execPageDrop page s
  | .routeStart body => Sys2Proof.Machine.execRouteStart body s
  | .routeHaltFinish slot => Sys2Proof.Machine.execRouteHaltFinish slot s
  | .routeHaltNow slot => Sys2Proof.Machine.execRouteHaltNow slot s
  | .data slot flags lines bytes => Sys2Proof.Machine.execData slot flags lines bytes s
  | .move body => Sys2Proof.Machine.execMove body s
  | .cut => Sys2Proof.Machine.execCut s
  | .levelRun options => Sys2Proof.Machine.execLevelRun options s
  | .levelDoze options => Sys2Proof.Machine.execLevelDoze options s
  | .queryPage page => Sys2Proof.Machine.execQueryPage page s
  | .queryRoute slot => Sys2Proof.Machine.execQueryRoute slot s
  | .queryPool arg => Sys2Proof.Machine.execQueryPool arg s
  | .queryLog arg => Sys2Proof.Machine.execQueryLog arg s
  | .queryTable slot => Sys2Proof.Machine.execQueryTable slot s
  | .queryLevel arg => Sys2Proof.Machine.execQueryLevel arg s
  | .mark value => Sys2Proof.Machine.execMark value s
  | .clearScanner => Sys2Proof.Machine.execClearScanner s
  | .clearPrinter => Sys2Proof.Machine.execClearPrinter s
  | .clearPool => Sys2Proof.Machine.execClearPool s
  | .imageEnd check => Sys2Proof.Machine.execImageEnd check s
  | .resync => Sys2Proof.Machine.execResync s
  | .malformed kind length => Sys2Proof.Machine.execMalformed kind length s
  | .hunt byte => Sys2Proof.Machine.execHunt byte s
  | .inboundByte byte => Sys2Proof.Machine.execInboundByte byte s
  | .stallEnd => Sys2Proof.Machine.execStallEnd s
  | .reportRecordBegin => Sys2Proof.Machine.execReportRecordBegin s
  | .recordComplete => Sys2Proof.Machine.execRecordComplete s
  | .arbiterGrant => Sys2Proof.Machine.execArbiterGrant s
  | .burstEnd flips => Sys2Proof.Machine.execBurstEnd flips s
  | .refreshTimerExpiry => Sys2Proof.Machine.execRefreshTimerExpiry s
  | .scrubTimerExpiry => Sys2Proof.Machine.execScrubTimerExpiry s
  | .wakingEnd => Sys2Proof.Machine.execWakingEnd s
  | .routeEndDeferred slot => Sys2Proof.Machine.execRouteEndDeferred slot s
  | .coderLineComplete => Sys2Proof.Machine.execCoderLineComplete s
  | .decoderLine => Sys2Proof.Machine.execDecoderLine s
  | .decodingEnd decoder => Sys2Proof.Machine.execDecodingEnd decoder s
  | .rxByte bits => Sys2Proof.Machine.execRxByte bits s
  | .firstSync bits => Sys2Proof.Machine.execFirstSync bits s
  | .lineValidChange level => Sys2Proof.Machine.execLineValidChange level s
  | .carrierTimerExpiry => Sys2Proof.Machine.execCarrierTimerExpiry s
  | .underrun => Sys2Proof.Machine.execUnderrun s
  | .lineSendEnd => Sys2Proof.Machine.execLineSendEnd s
  | .captureComplete samples => Sys2Proof.Machine.execCaptureComplete samples s
  | .docInChange level => Sys2Proof.Machine.execDocInChange level s
  | .docEdgeChange level => Sys2Proof.Machine.execDocEdgeChange level s
  | .lampWarm => Sys2Proof.Machine.execLampWarm s
  | .strobeTimerExpiry => Sys2Proof.Machine.execStrobeTimerExpiry s
  | .converterSample value => Sys2Proof.Machine.execConverterSample value s
  | .headSettled => Sys2Proof.Machine.execHeadSettled s
  | .stepTimerExpiry motor => Sys2Proof.Machine.execStepTimerExpiry motor s
  | .holdTimerExpiry motor => Sys2Proof.Machine.execHoldTimerExpiry motor s
  | .paperChange present => Sys2Proof.Machine.execPaperChange present s
  | .homeChange level => Sys2Proof.Machine.execHomeChange level s
  | .cutterTimeout => Sys2Proof.Machine.execCutterTimeout s
  | .coverOpening => Sys2Proof.Machine.execCoverOpening s
  | .coverClosing => Sys2Proof.Machine.execCoverClosing s
  | .wake asserted => Sys2Proof.Machine.execWake asserted s
  | .dozeDrainDone => Sys2Proof.Machine.execDozeDrainDone s
  | .pfailAssert => Sys2Proof.Machine.execPfailAssert s
  | .retainDrainDone => Sys2Proof.Machine.execRetainDrainDone s
  | .reset backupHeld => Sys2Proof.Machine.execReset backupHeld s
  | .holdRelease => Sys2Proof.Machine.execHoldRelease s
  | .romByte byte => Sys2Proof.Machine.execRomByte byte s
  | .transmitClock => Sys2Proof.Machine.execTransmitClock s
  | .outboundRead => Sys2Proof.Machine.execOutboundRead s

end Sys2Proof.Machine
end

