-- ==== Sys2Proof/Safety.lean ====
section
/-! DEFINITION. What every step keeps: the form of the DRAM's list and of the Report Queue, the capacities of the
FIFOs, queues and rings, the range of the motors' phases, of the route records' counts and of the other counters; and
the books of the pages, of the blocks, and of the claims and bindings. -/

namespace Sys2Proof.Machine

/-! ## The Report Queue (R182) -/

/-- The place a report takes in the queue: its key, or its kind where it has none (R180 to R182). -/
def Report.place (x : Report) : Nat × Nat := x.key.getD (x.kindCode, 0)

/-- No two entries share a place, so one ANSWER and one MARK at most wait, and every count is 1 to 255
(R180 to R182). -/
def queueWf (q : List QueueEntry) : Prop :=
  (q.map fun e => e.report.place).Nodup ∧ ∀ e ∈ q, 1 ≤ e.count ∧ e.count ≤ 255

/-! ## Capacities and ranges -/

/-- The counts of a route record saturate at 65535 (R55, R60). -/
def Route.countsWf (x : Route) : Prop :=
  x.linesDone ≤ 65535 ∧ x.badLines ≤ 65535 ∧ x.consecBad ≤ 65535 ∧ x.skipped ≤ 65535
    ∧ x.overPhases ≤ 65535

/-- The stream FIFOs (R178, R183), the HOST-IN queue (R68), the rx and tx FIFOs (R135), the Coder's queue and
accumulator (R47) are within their capacities, and the motors' phases are 0 to 7 (R114). -/
def State.capsWf (s : State) : Prop :=
  s.port.inFifo.length ≤ Config.streamFifoCap ∧ s.port.outFifo.length ≤ Config.streamFifoCap
    ∧ s.hostIn.queue.length ≤ Config.hostInCap
    ∧ s.line.rxFifo.length ≤ Config.lineFifoCap ∧ s.line.txFifo.length ≤ Config.lineFifoCap
    ∧ s.coder.queue.length ≤ Config.wordQueueCap ∧ s.coder.acc.length ≤ 15
    ∧ s.pf.phase < 8 ∧ s.sf.phase < 8

/-- What every step keeps but for the DRAM. -/
def State.Lite (s : State) : Prop :=
  queueWf s.reports ∧ s.capsWf ∧ ∀ r, (s.route r).countsWf

/-- What every step keeps. -/
def State.Inv (s : State) : Prop := dramWf s.store.dram = true ∧ s.Lite

/-! ## Queues within their capacities -/

/-- The words of a fetch burst in progress for a reader, else 0. -/
def State.coming (s : State) (x : Reader) : Nat :=
  match s.store.burst with
  | some { kind := .fetchWords y _ n, .. } => if x = y then n else 0
  | _ => 0

/-- The spare queue holds 4 (R13), the directory write queue 16 (R21), the scan ring 4 (R84), the print ring 4
and the copy ring 8 (R97, R99), the words fetched by each reader, those of its burst in progress among them, 16
(R56, R69, R135).  A COPY's lines stand in the copy ring alone (R99).  The fill counter is at most 4800, and so is
every fill still to be loaded (R135, R142); the captured count is at most 65535 (R92). -/
def State.queuesWf (s : State) : Prop :=
  s.pool.spare.length ≤ Config.spareCap ∧ s.pool.dirQueue.length ≤ Config.dirCap
    ∧ s.scanner.coding.toNat + s.scanner.ready.length + s.scanner.capturing.toNat ≤ 4
    ∧ (s.copying = true → s.scanner.coding = false ∧ s.scanner.ready = [])
    ∧ s.head.ready.length + s.head.capturing.toNat ≤ s.head.capacity
    ∧ (s.head.capacity = 4 ∨ s.head.capacity = 8)
    ∧ s.printDec.fetch.queue.length + s.coming .print ≤ Config.wordQueueCap
    ∧ s.line.fetch.queue.length + s.coming .line ≤ Config.wordQueueCap
    ∧ s.hostOut.fetch.queue.length + s.coming .host ≤ Config.wordQueueCap
    ∧ s.line.fill ≤ Config.fillCap ∧ (∀ m ∈ s.line.markAt, m.2 ≤ Config.fillCap)
    ∧ (∀ b ∈ s.line.txFifo, ∀ m ∈ b.mark, m.2 ≤ Config.fillCap)
    ∧ s.scanner.captured ≤ 65535

/-! ## The books of the pages: readers and writers (R1, R3, R8) -/

/-- Reader routes in use that name a page (R8). -/
def State.readersOf (s : State) (p : PageNo) : Nat :=
  (allFin 4).countP fun r =>
    (s.route r).inUse && (s.route r).isReader && (s.route r).page == some p

/-- The route is the page's writer: in use, of a kind that writes, and the page its current page (R3). -/
def State.writes (s : State) (r : RouteNo) (p : PageNo) : Prop :=
  (s.route r).inUse = true ∧ (s.route r).isWriter = true ∧ (s.route r).page = some p

/-- An entry's books: a FREE one has every other field at zero or absent (R1); the reader count is the number of
reader routes in use that name the page, and such a page is CLOSED or DROPPING; a DROPPING page has readers (R8,
R10); a page is OPEN while it has a writer, the route that owns it, and its writer is that one route (R3). -/
def State.entryBooked (s : State) (p : PageNo) : Prop :=
  ((s.page p).state = .free → s.page p = PageEntry.freeEntry)
    ∧ (s.page p).readers = s.readersOf p
    ∧ (0 < (s.page p).readers → (s.page p).state = .closed ∨ (s.page p).state = .dropping)
    ∧ ((s.page p).state = .dropping → 0 < (s.page p).readers)
    ∧ ((s.page p).state = .opened ↔ (s.page p).owner.isSome = true)
    ∧ ∀ r, (s.page p).owner = some r ↔ s.writes r p

/-- A record's books: one that is not in use holds no page, no fixed outcome and no reservation (R71); one in use
has its kind; only a LINE-RECEIVE holds a reservation (R15); a writer whose outcome is fixed knows how its OPEN
page closes (R5, R6). -/
def Route.booked (x : Route) : Prop :=
  (x.inUse = false → x.page = none ∧ x.fate = none ∧ x.remainder = 0)
    ∧ (x.inUse = true → x.kind.isSome = true)
    ∧ (0 < x.remainder → x.kind = some .lineReceive)
    ∧ ∀ f ∈ x.fate, x.isWriter = true → x.page.isSome = true → f.close.isSome = true

/-- A slot held by a block is that of a route in use, of a kind the block serves. -/
def State.serves (s : State) (slot : Option RouteNo) (kinds : RouteKind → Bool) : Prop :=
  ∀ r ∈ slot, (s.route r).inUse = true ∧ ((s.route r).kind.map kinds).getD false = true

/-- The blocks serve routes in use of their kinds (R62, R63); the receive side works for a LINE-RECEIVE, without
a page while it is SEEKING, and the send side for a LINE-SEND (R135); the page bytes of the record being written
are those of a PAGE-HOST that moves data (R69). -/
def State.slotsBooked (s : State) : Prop :=
  s.serves s.engines.scanner RouteKind.usesScanner ∧ s.serves s.engines.printer RouteKind.usesPrinter
    ∧ s.serves s.coder.slot (· == .scanStore) ∧ s.serves s.line.slot RouteKind.usesLine
    ∧ s.serves s.hostIn.slot (· == .hostStore) ∧ s.serves s.hostOut.slot (· == .pageHost)
    ∧ (∀ r, s.cutter.owner = some (.route r) →
        (s.route r).inUse = true ∧ (s.route r).usesPrinter = true)
    ∧ (s.line.rx ≠ .idle → s.serves s.line.slot (· == .lineReceive))
    ∧ (s.line.tx ≠ .idle → s.serves s.line.slot (· == .lineSend))
    ∧ (s.line.rx = .seeking → ∀ r ∈ s.line.slot, (s.route r).live = true → (s.route r).page = none)
    ∧ (s.line.writer.opening = true → s.line.rx = .storing ∨ s.line.rx = .flushing)
    ∧ ∀ x ∈ s.port.record, ∀ d ∈ x.data, d.cutShort = false →
        (s.route d.slot).live = true ∧ (s.route d.slot).kind = some .pageHost

/-- The work the Boot Controller has in hand in each of its states (R157 to R167). -/
def taskFits (pool : PoolState) : BootState → BootTask → Bool
  | .hold, .none | .memoryStart, .none => true
  | .romReplay, .none | .romReplay, .readHeader => true
  | .warmRebuild, .readImage .. | .warmRebuild, .walk .. => true
  | .warmRebuild, .zeroImage .. | .warmRebuild, .sweep _ => true
  | .coldClear, .clear _ => true
  | .release, .releaseHeader => true
  | .ready, .none => true
  | .ready, .geometryWait | .ready, .geometryClear _ | .ready, .geometryHeader => pool == .clearing
  | .failSafe, .none | .failSafe, .failOn | .failSafe, .failLive | .failSafe, .failClean => true
  | _, _ => false

/-- Before RELEASE no route is in use, the level is absent, no byte waits and the pool stands still (R157, R165);
the parser reads the boot ROM in a replay alone (R159, R176); in a geometry clear no route is in use (R167). -/
def State.bootBooked (s : State) : Prop :=
  taskFits s.pool.state s.boot.state s.boot.task = true
    ∧ (s.boot.state ≠ .ready → s.routesInUse = [] ∧ s.power.level = none ∧ s.port.inFifo = []
        ∧ s.pool.state = .inService ∧ s.pool.spare = [])
    ∧ (s.parser.source = .rom → s.boot.state ≠ .ready)
    ∧ (s.pool.state = .clearing → s.routesInUse = [])
    ∧ (s.pool.rebuild.isSome = true → s.pool.state = .rebuilding)

/-- The books of the pages, their readers and their writers. -/
def State.PageBooks (s : State) : Prop :=
  (∀ p, s.entryBooked p) ∧ (∀ r, (s.route r).booked) ∧ s.slotsBooked ∧ s.bootBooked

/-! ## The books of the blocks (R12, R15) -/

/-- Blocks of the pages of the first `n` entries; a FREE entry holds none (R1). -/
def State.heldBelow (s : State) (n : Nat) : Nat :=
  (((allFin 32).filter fun p => decide (p.val < n)).map fun p => (s.page p).blockCount).sum

/-- Blocks of the pages (R12). -/
def State.blocksHeld (s : State) : Nat := s.heldBelow 32

/-- Blocks of the chains freed after they were walked (R20). -/
def Rebuild.joinedBlocks (b : Rebuild) : Nat := (b.joined.map Chain.count).sum

/-- Data blocks below a block that bear no mark (R19). -/
def unmarkedBelow (marks : List Nat) (n : Nat) : Nat :=
  ((List.range' Config.systemBlocks (n - Config.systemBlocks)).filter fun b =>
    !marks.contains b).length

/-- Marks stand on data blocks, each once. -/
def State.marksBooked (s : State) (marks : List Nat) : Prop :=
  marks.Nodup ∧ ∀ b ∈ marks, s.isData b = true

/-- A rebuild's books: the marks are the blocks of the chains walked, those freed since among them, and the new
list takes every block they leave (R19, R20). -/
def State.rebuildBooked (s : State) (b : Rebuild) : Prop :=
  s.marksBooked b.marks ∧ (∀ c ∈ b.joined, s.isData c.head = true)
    ∧ match b.at_ with
      | .entry k => b.marks.length = s.heldBelow k + b.joinedBlocks
      | .walking k _ left =>
        2 ≤ left ∧ b.marks.length + (left - 1) = s.heldBelow (k + 1) + b.joinedBlocks
      | .sweeping next first _ count =>
        (∀ f ∈ first, s.isData f = true)
          ∧ (next ≤ s.store.geometry → Config.systemBlocks ≤ next
              ∧ b.marks.length = s.blocksHeld + b.joinedBlocks
              ∧ count = unmarkedBelow b.marks next)
          ∧ (s.store.geometry < next → count + s.blocksHeld + b.joinedBlocks = s.dataBlocks)

/-- Entries from `n` on are FREE, and so are those discarded (R162). -/
def State.freeFrom (s : State) (n : Nat) (dropped : List Nat) : Prop :=
  ∀ p : PageNo, n ≤ p.val ∨ p.val ∈ dropped → (s.page p).state = .free

/-- The warm rebuild's books: the marks are the blocks of the entries kept, and a walk's own marks are beside
them (R162, R163). -/
def State.warmBooked (s : State) : Prop :=
  s.marksBooked s.boot.marks ∧ s.blocksHeld = s.boot.marks.length
    ∧ match s.boot.task with
      | .readImage k _ _ => s.freeFrom k s.boot.dropList
      | .walk k e _ left own =>
        s.freeFrom k s.boot.dropList ∧ s.marksBooked (s.boot.marks ++ own)
          ∧ own.length + left = e.blockCount + 1 ∧ 1 ≤ left ∧ e.state = .closed ∧ e.readers = 0
          ∧ e.owner = none ∧ 1 ≤ e.blockCount ∧ s.isData e.head = true
      | .zeroImage pages _ => s.freeFrom 32 pages
      | _ => True

/-- A header burst in progress is one of its boot state (R165, R166). -/
def headerFits (boot : BootState) : BurstKind → Bool
  | .header .release _ => boot == .release || boot == .failSafe
  | .header .failSafe _ => boot == .failSafe
  | _ => true

/-- The books of the blocks.  From RELEASE on, but for a geometry clear, the free count, the spare queue, the
stranded count and the blocks of the pages make up the data blocks (R12); the remainders never sum to more than
the free count and the spare queue (R15); and what these rest on.  The scrub position is a multiple of 8 below
N × 512 (R36), but that a geometry clear may begin with one beyond its new N, and sets it to 0 (R164, R167). -/
def State.PoolBooks (s : State) : Prop :=
  (s.boot.state = .release ∨ s.boot.state = .ready → s.pool.state ≠ .clearing →
      s.pool.freeCount + s.pool.spare.length + s.pool.stranded + s.blocksHeld = s.dataBlocks
        ∧ ∀ h ∈ s.pool.freeHead, s.isData h = true)
    ∧ s.remainders ≤ s.pool.freeCount + s.pool.spare.length
    ∧ (s.pool.state ≠ .inService → s.pool.spare = [] ∧ s.remainders = 0)
    ∧ (s.pool.state = .rebuilding → s.pool.freeCount = 0)
    ∧ (∀ p, (s.page p).state ≠ .free → 1 ≤ (s.page p).blockCount ∧ s.isData (s.page p).head = true)
    ∧ (∀ b ∈ s.pool.spare, s.isData b = true)
    ∧ s.store.geometry ∈ [1024, 2048, 4096]
    ∧ s.store.scrubPos % 8 = 0
    ∧ (s.pool.state ≠ .clearing → s.store.scrubPos < s.store.geometry * Config.blockWords)
    ∧ (∀ b ∈ s.pool.rebuild, s.rebuildBooked b)
    ∧ (∀ b ∈ s.store.burst, headerFits s.boot.state b.kind = true)
    ∧ (s.boot.state = .hold ∨ s.boot.state = .memoryStart ∨ s.boot.state = .romReplay →
        s.freeFrom 0 [] ∧ s.boot.marks = [] ∧ s.boot.dropList = [])
    ∧ (s.boot.state = .warmRebuild → s.warmBooked)

/-! ## The books of the claims and the bindings (R62, R63, R80, R173) -/

/-- An engine is claimed by the route in use whose kind uses it, and by no other (R62, R63). -/
def State.claimBooked (s : State) (claim : Option RouteNo) (uses : RouteKind → Bool) : Prop :=
  ∀ r, claim = some r ↔
    (s.route r).inUse = true ∧ ((s.route r).kind.map uses).getD false = true

/-- Routes in use and MOVEs in progress that name a table slot (R173). -/
def State.bindersOf (s : State) (t : TableNo) : Nat :=
  ((allFin 4).countP fun r => (s.route r).inUse && (s.route r).boundSlots.contains t)
    + ([MotorName.pf, .sf].countP fun m => (s.motor m).slot == some t)

/-- A motor's books: a ramp slot is held by a MOVE in progress alone, which holds the motor's claim, while no route
claims its engine (R63, R124, R173). -/
def State.motorBooked (s : State) (m : MotorName) : Prop :=
  ((s.motor m).slot.isSome = true ↔ (s.motor m).claim = some .move)
    ∧ ((s.motor m).slot.isSome = true →
        (s.motor m).motion = .move .order ∧ s.motorRoute m = none ∧ s.boot.state = .ready)

/-- The books of the claims and the bindings.  The seven engines' claims are the kinds' of the routes in use (R62,
R63).  A slot's bind count is the number of routes in use and MOVEs in progress that name it, at most 5, and a
bound slot is READY (R173).  An engine in FAULT is claimed by no route, but for one whose outcome is fixed and
whose end waits for the directory write queue (R71, R80).  A live route that a NOW has wait for a cut waits on one
under way (R75).  With what these rest on: a CUT holds the cutter while PRINTER is free (R132), a cut's route claims
PRINTER (R130), and the slot of the load under way is LOADING (R170). -/
def State.BindBooks (s : State) : Prop :=
  s.claimBooked s.engines.scanner RouteKind.usesScanner
    ∧ s.claimBooked s.engines.printer RouteKind.usesPrinter
    ∧ s.claimBooked s.engines.coder (· == .scanStore)
    ∧ s.claimBooked s.engines.decoder (· == .printPage)
    ∧ s.claimBooked s.engines.line RouteKind.usesLine
    ∧ s.claimBooked s.engines.hostIn (· == .hostStore)
    ∧ s.claimBooked s.engines.hostOut (· == .pageHost)
    ∧ (∀ t, (s.table t).binds = s.bindersOf t ∧ (s.table t).binds ≤ 5
        ∧ (0 < (s.table t).binds → (s.table t).state = .ready))
    ∧ s.motorBooked .pf ∧ s.motorBooked .sf
    ∧ (s.engines.scannerFault = true → ∀ r ∈ s.engines.scanner, (s.route r).live = false)
    ∧ (s.engines.printerFault = true → ∀ r ∈ s.engines.printer, (s.route r).live = false)
    ∧ (s.cutter.owner = some .order → s.engines.printer = none)
    ∧ (∀ r, s.cutter.owner = some (.route r) → s.engines.printer = some r)
    ∧ (∀ r, (s.route r).live = true → (s.route r).halt = .nowWaiting →
        s.engines.printer = some r ∧ s.cutter.cutting = true)
    ∧ ∀ t check, s.parser.state = .body → s.parser.use = .load t check →
        (s.table t).state = .loading

/-! ## Sources of commands -/

/-- Commands that bring bytes to the Order Parser, or free it: the orders, and the events of the stream
port's inbound side and of the boot ROM (R159, R176 to R178). -/
def parses : Instr → Bool
  | .setup _ | .tableLoad .. | .tableLoadEnd _ | .tableDrop _ | .pageDrop _ | .routeStart _
  | .routeHaltFinish _ | .routeHaltNow _ | .data .. | .move _ | .cut | .levelRun _ | .levelDoze _
  | .queryPage _ | .queryRoute _ | .queryPool _ | .queryLog _ | .queryTable _ | .queryLevel _
  | .mark _ | .clearScanner | .clearPrinter | .clearPool | .imageEnd _ | .resync | .malformed ..
  | .hunt _ | .inboundByte _ | .stallEnd | .romByte _ => true
  | _ => false

/-- The levels of the inputs after a command: each changes by its own events alone. -/
def pinsAfter (p : Pins) : Instr → Pins
  | .docInChange level => { p with docIn := level }
  | .docEdgeChange level => { p with docEdge := level }
  | .lineValidChange level => { p with lineValid := level }
  | .paperChange present => { p with paperOut := !present }
  | .homeChange level => { p with home := level }
  | .coverOpening => { p with coverOpen := true }
  | .coverClosing => { p with coverOpen := false }
  | .wake asserted => { p with wake := asserted }
  | .pfailAssert => { p with pfail := true }
  | .holdRelease => { p with pfail := false }
  | _ => p

end Sys2Proof.Machine
end

