-- ==== Sys2Proof/Certificates/Slice0/Obligations.lean ====
section
/-! DEFINITION. What is claimed of the part, rule by rule.  In the statements about one command, `react` is all that
follows within the command's event (95_what_each_step_holds.md): it comes after the effect that is written out, and
what it can never change is said by `EventsKeepSetupAndTables`, `OnlyBurstEndsWriteTheStore` and the others on every
command. -/

section

open Sys2Proof Sys2Proof.Machine

/-! ## The step, the reset, and what every step keeps -/

/-- A step carries out the command at the front of the queue, on the state with the queue's rest. On an empty
queue the model's clock advances by 1 µs: the model's choice (log entry 1). -/
def Obligations.StepRunsFrontCommand : Prop :=
  (∀ (s : State) (c : Instr) (rest : List Instr), s.pending = c :: rest →
    step s = exec c { s with pending := rest })
  ∧ ∀ s : State, s.pending = [] → step s = .next { s with now := s.now + 1 }

/-- The state after reset meets the invariants that every step keeps: the forms and ranges of `StepKeepsInvariant`,
the capacities of `StepKeepsQueuesWithin`, the books of the pages, those of the blocks, and those of the claims and
bindings. -/
def Obligations.ResetStateMeetsInvariant : Prop :=
  State.reset.Inv ∧ State.reset.queuesWf ∧ State.reset.PageBooks ∧ State.reset.PoolBooks
    ∧ State.reset.BindBooks

/-- Every step from a state that meets the invariant leads to one that meets it: the DRAM's list keeps its form,
the Report Queue keeps one entry a place with a count of 1 to 255 (R182), the stream FIFOs, the HOST-IN queue, the
rx and tx FIFOs and the Coder's queue and accumulator stay within their capacities (R47, R68, R135, R178, R183), the
phases of the motors within 0 to 7 (R114), the counts of the route records within 65535 (R55, R60). The other
queues and the rings are those of `StepKeepsQueuesWithin`. -/
def Obligations.StepKeepsInvariant : Prop :=
  ∀ s t : State, s.Inv → step s = .next t → t.Inv

/-- Every step from a state with these queues within their capacities leads to one with them within: the spare
queue's 4 (R13), the directory write queue's 16 (R21), the scan ring's 4 lines (R84), the print ring's 4 and the
copy ring's 8 (R97, R99), and the 16 words of each reader's queue, the words of its burst in progress among them
(R56, R69, R135). A COPY's lines stand in the copy ring alone (R99). The fill counter stays within 4800, and every fill
still to be loaded with it (R135, R142); the captured count stays within 65535 (R92; that it stands there is the
model's choice, log entry 53). -/
def Obligations.StepKeepsQueuesWithin : Prop :=
  ∀ s t : State, s.queuesWf → step s = .next t → t.queuesWf

/-- Every step from a state in which the books of the pages hold leads to one in which they hold: a page's reader
count is the number of the reader routes in use that name it (R8), an OPEN page is the current page of one writer,
the route that owns it (R3), a DROPPING page has readers (R8, R10), and a FREE entry has every other field at zero
or absent (R1); with what these rest on: a route that is not in use holds no page and no reservation (R71), each
block serves a route in use of a kind it serves (R62, R63), and the Boot Controller's work in hand is its state's
(R157 to R167). -/
def Obligations.StepKeepsThePageBooks : Prop :=
  ∀ s t : State, s.PageBooks → step s = .next t → t.PageBooks

/-- Every step from a state in which the books of the pages and of the blocks hold leads to one in which those of
the blocks hold: from RELEASE on, but for a geometry clear, the free count, the spare queue, the stranded count and
the blocks of the pages make up the data blocks (R12), and the sum of the remainders is at most the free count and
the spare queue (R15); with what these rest on: the marks of a rebuild and of a warm rebuild are the blocks of the
chains they have walked (R19, R20, R162, R163). The scrub position is a multiple of 8 below N × 512, but for one that a
geometry clear begins with (R36, R167). -/
def Obligations.StepKeepsTheBlockBooks : Prop :=
  ∀ s t : State, s.PageBooks → s.PoolBooks → step s = .next t → t.PoolBooks

/-- Every step from a state in which the books of the pages and those of the claims and bindings hold leads to one in
which the latter hold: each engine is claimed by the route in use whose kind uses it, and by no other (R62, R63); a
table slot's bind count is the number of routes in use and MOVEs in progress that name it, at most 5, and a bound slot
is READY (R173); and an engine in FAULT is claimed by no route (R80), but for one whose outcome is fixed and which
keeps its claims until the directory write queue has places for its end (R71). A live route that a NOW has wait for a
cut waits on one under way (R75). With what these rest on: a MOVE's motor holds its claim while no route claims its
engine (R124), a CUT holds the cutter while PRINTER is free (R132), a cut's route claims PRINTER (R130), and the slot
of the load under way is LOADING (R170). -/
def Obligations.StepKeepsTheBindings : Prop :=
  ∀ s t : State, s.PageBooks → s.BindBooks → step s = .next t → t.BindBooks

/-- Every command leads to a next state, but for a grant of a burst that lies outside the store: the model's one
fault, which no run from reset is meant to reach (R23; the model's choice, log entry 24). -/
def Obligations.OnlyGrantsOutsideTheStoreStop : Prop :=
  ∀ (c : Instr) (s : State),
    (∃ t, exec c s = .next t) ∨
      (exec c s = .fault .outsideStore ∧
        ((c = .arbiterGrant ∧ s.grantNext = none) ∨
          ∃ flips b, c = .burstEnd flips ∧ s.store.burst = some b
            ∧ ((s.endBurst b flips).react.resume s.power.level).grantNext = none))

/-- Only the orders, the bytes that bring them, the events that free the parser, a reset, and an event in which a
full wake reaches RUN with a byte in the inbound FIFO (R149) change a SETUP value, the geometry, a table slot but for
its bind count, or the inbound FIFO (R168, R170, R174, R178, R179). -/
def Obligations.EventsKeepSetupAndTables : Prop :=
  ∀ (c : Instr) (s t : State), parses c = false → (∀ held, c ≠ .reset held) →
    (s.port.inFifo = [] ∨ wakes s.power.level = false) → exec c s = .next t →
    t.setup = s.setup ∧ t.store.geometry = s.store.geometry ∧ t.port.inFifo = s.port.inFifo
      ∧ ∀ i, { t.table i with binds := 0 } = { s.table i with binds := 0 }

/-- Only the end of a burst changes the DRAM (R26, R29). That a reset leaves it is the model's reading of R157 (log
entry 11), and that bit errors come in at a burst's end alone is its choice (log entry 25). -/
def Obligations.OnlyBurstEndsWriteTheStore : Prop :=
  ∀ (c : Instr) (s t : State), (∀ flips, c ≠ .burstEnd flips) → exec c s = .next t →
    t.store.dram = s.store.dram

/-- The end of a burst leaves every word outside the burst as it was, for any flips: that bit errors enter at a burst's
end, in the words it reads, is the model's choice (log entry 25). A burst that writes stores its words with their
check bits (R29), and a burst of the directory write queue, of a header or of a clear does so too, at the header's
address (R24) and at those of the directory images and of the link map (R25). -/
def Obligations.BurstEndWritesItsOwnWords : Prop :=
  ∀ (flips : List StoreWord) (s t : State) (b : Burst), s.store.burst = some b →
    exec (.burstEnd flips) s = .next t →
    (∀ a, (a < (b.kind.span s.store.scrubPos).1
        ∨ (b.kind.span s.store.scrubPos).1 + (b.kind.span s.store.scrubPos).2 ≤ a) →
      dramRead t.store.dram a = dramRead s.store.dram a)
    ∧ (dramWf s.store.dram = true → ∀ (a : Nat) (ws : List Word),
        (b.kind = .coderWrite a ws ∨ (∃ n, b.kind = .lineWrite a ws n) ∨ b.kind = .hostWrite a ws
          ∨ b.kind = .bootWrite a ws ∨ (∃ h, a = 0 ∧ b.kind = .header h ws)
          ∨ (∃ p half, a = Config.imageBase + 16 * p.val + (if half then 8 else 0)
            ∧ b.kind = .dirImage p half ws)
          ∨ (∃ k v, a = Config.linkBase + k ∧ ws = [v] ∧ b.kind = .dirLink k v)) →
        ∀ i (h : i < ws.length), dramRead t.store.dram (a + i) = encodeWord ws[i])

/-- The held levels of the inputs follow their events, and nothing else changes them (R79, R87, R120, R129, R140,
R148, R155, R158). That a reset leaves every level is the model's reading (log entry 11). -/
def Obligations.InputsFollowTheirEvents : Prop :=
  ∀ (c : Instr) (s t : State), exec c s = .next t → t.pins = pinsAfter s.pins c

/-! ## The bytes of a field (chapter 12) -/

/-- The byte of a value of a named set whose rule lists it in this order, numbered from 0; all ones where it is
absent (R175). -/
def Sys2Proof.Machine.namedByte {α : Type} [DecidableEq α] (listed : List α) (x : Option α) : List Byte :=
  match x with
  | some v => [BitVec.ofNat 8 (listed.idxOf v)]
  | none => [0xFF]

/-! ## The check code, the error log (chapter 2) -/

/-- The data bits that feed each check bit, by R29's table. -/
def Sys2Proof.Machine.feedsOf : List (List Nat) :=
  [[0, 1, 2, 3, 4, 5, 6, 7], [0, 1, 2, 8, 9, 10, 11, 12], [3, 4, 8, 9, 10, 13, 14, 15],
    [0, 3, 5, 6, 8, 11, 13, 14], [1, 5, 7, 9, 11, 12, 13, 15], [2, 4, 6, 7, 10, 12, 14, 15]]

/-- R29: a word is stored as its 16 data bits with six check bits, each the even parity of the eight data bits
marked for it; the syndrome of a data column has the bits of the check bits it feeds, and column c_i has syndrome
2^i; an all-zero word has all-zero check bits; and a write removes any error that the word held. -/
def Obligations.CheckBitsAreEvenParities : Prop :=
  ∀ w : Word,
    (∀ i < 16, (encodeWord w).getLsbD i = w.getLsbD i)
    ∧ (∀ i (h : i < 6),
      (encodeWord w).getLsbD (16 + i)
        = (((feedsOf[i]'h).countP fun d => w.getLsbD d) % 2 == 1))
    ∧ (∀ d (h : d < 16) (i : Nat) (h' : i < 6),
      (dataSyndromes[d]'h).getLsbD i = (feedsOf[i]'h').contains d)
    ∧ (∀ i < 6, (decodeWord (encodeWord w ^^^ BitVec.ofNat 22 (2 ^ (16 + i)))).syndrome = 2 ^ i)
    ∧ (∀ f ∈ feedsOf, f.length = 8) ∧ encodeWord 0 = 0
    ∧ ∀ (m : List (Nat × StoreWord)) (a : Nat), dramWf m = true →
      dramRead (dramWriteWords m a [w]) a = encodeWord w

/-- A stored word reads back clean; with any one bit in error it reads back corrected, with that bit's syndrome;
with any two bits in error it is uncorrectable (R30, section 2.4). -/
def Obligations.OneBitCorrectedTwoDetected : Prop :=
  ∀ w : Word,
    decodeWord (encodeWord w) = { data := w, cls := none, syndrome := 0 }
    ∧ (∀ i < 22, decodeWord (encodeWord w ^^^ BitVec.ofNat 22 (2 ^ i))
        = { data := w, cls := some .corrected
            syndrome := if i < 16 then (dataSyndromes.getD i 0).toNat else 2 ^ (i - 16) })
    ∧ ∀ i j, i < j → j < 22 →
      (decodeWord (encodeWord w ^^^ BitVec.ofNat 22 (2 ^ i) ^^^ BitVec.ofNat 22 (2 ^ j))).cls
        = some .uncorrectable

/-- The error log takes or turns away an offer by R31's table, and a logged offer queues a MEMORY report with the
record's fields; a clean read offers nothing (R31). -/
def Obligations.ErrorLogTakesOffersByClass : Prop :=
  ∀ (s : State) (client : LogClient) (a : Nat) (x : ReadWord),
    (x.cls = none → s.offer client a x = s)
    ∧ ∀ cls, x.cls = some cls →
      let record : LogRecord :=
        { cls := cls, block := a / 512, offset := a % 512, syndrome := x.syndrome, client := client }
      ((s.store.log = none ∨ (∃ y, s.store.log = some y ∧ y.cls = .corrected ∧ cls = .uncorrectable)) →
        s.offer client a x
          = ({ s with store := { s.store with log := some record } }.queueReport (.memory record)))
      ∧ (∀ y, s.store.log = some y → (y.cls = .uncorrectable ∨ cls = .corrected) →
        s.offer client a x = s)

/-! ## Lines, codes and strobe plans (chapters 3, 5 and 6) -/

/-- The dots of runs of alternating colour. -/
def Sys2Proof.Machine.expandRuns : Bool → List Nat → List Bool
  | _, [] => []
  | black, n :: rest => List.replicate n black ++ expandRuns (!black) rest

/-- R42: the runs of a line alternate from a white first run, expand to the line's dots, are at least 1 after the
first, at most 1728, and sum to 1728; a line that begins black opens with a white run of 0. -/
def Obligations.RunsOfALineSumTo1728 : Prop :=
  ∀ d : Dots,
    expandRuns false (runsOfDots d) = boolsOfDots d
    ∧ (∀ n ∈ (runsOfDots d).tail, 1 ≤ n) ∧ (∀ n ∈ runsOfDots d, n ≤ 1728)
    ∧ (runsOfDots d).sum = 1728
    ∧ (Dots.dot d 0 = true → (runsOfDots d).head? = some 0)

/-- R44: a run below 64 is one terminating code; a run of 64 or more is the chunk code of its whole 64s and the
terminating code of the rest, so that a line of n runs holds n terminating codes and at most n chunk codes. Every
code's place in the table is R169's. -/
def Obligations.RunsAreCodedByTheTable : Prop :=
  ∀ (table : List Byte) (black : Bool) (r : Nat),
    (r < 64 → runCodes table black r = [codeBits table black false r])
    ∧ (64 ≤ r → runCodes table black r
        = [codeBits table black true (r / 64 * 64), codeBits table black false (r % 64)])
    ∧ (r < 64 → codeBits table black false r = tableItem table (3 * ((if black then 91 else 0) + r)))
    ∧ (∀ k, 1 ≤ k → k ≤ 27 → codeBits table black true (64 * k)
        = tableItem table (3 * ((if black then 91 else 0) + 63 + k)))
    ∧ ∀ runs : List Nat,
      (runsCodes table black runs).length = runs.length + runs.countP fun n => decide (64 ≤ n)

/-- The Coder's bits, in order, are those of its word queue and then its accumulator: appending bits within its space
loses none (R46, R47). A line taken has in hand, with the codes of its runs, all its code bits (R45), and the Coder's
progress through it loses no bit and no run: its queue, accumulator, codes in hand and the codes of the runs left hold
the same bits, and its dot position with the runs left make up the same line (R47). That the dot position is that of
the dot after the current run is the model's choice (log entry 51). The last code of the line's last run (R44) counts
the line and makes its end the route's last line end; the Coder waits for the next line, and the line's slot is free
(R4, R47). Waiting, the Coder takes the oldest ready line, but none while its route stops under FINISH or is STALLED
(R47, R67). Under FINISH, or with a mark standing and nothing left to code, it enters ENDING: E syncs and the padding,
or the padding alone at the maximum (R49, R92, R93; a page so marked closes TRUNCATED under FINISH as well: the model's
choice, log entry 44). Once its last word is written and the places of the directory queue are free the page closes,
and the Coder waits again (R5, R49). -/
def Obligations.CoderKeepsEveryBit : Prop :=
  (∀ (s : State) (r : RouteNo) (p : PageNo), (s.route r).page = some p →
    let x := s.route r
    let table := s.storage x.code
    let whole := s.scanner.mark ≠ .none ∧ s.scanner.ready = [] ∧ s.scanner.capturing = false
      ∧ s.scanner.coding = false
    let written := s.coder.state = .ending ∧ s.coder.codes = [] ∧ s.coder.padding = false
      ∧ s.coder.acc = [] ∧ s.coder.queue = []
    let ending (short : Bool) : State := { s with coder :=
      { s.coder with
        state := .ending, padding := true, cutShort := short
        codes := if short then [] else List.replicate (endCount table) (syncBits table) } }
    (∀ d rest, s.scanner.ready = d :: rest → x.halt ≠ .finish → x.state ≠ .stalled →
      s.coderTake r
        = { s with
            scanner := { s.scanner with ready := rest, coding := true }
            coder := s.coder.takeLine table d })
    ∧ (s.scanner.ready = [] ∨ x.halt = .finish ∨ x.state = .stalled → s.coderTake r = s)
    ∧ (¬whole → x.halt ≠ .finish → s.coderEnd r = s)
    ∧ (whole → s.scanner.mark = .cutShort → s.coderEnd r = ending true)
    ∧ (whole → s.scanner.mark ≠ .cutShort → s.coderEnd r = ending false)
    ∧ (¬whole → x.halt = .finish → s.coderEnd r = ending false)
    ∧ (written → s.imageNeed p ≤ s.dirPlaces →
      s.coderClose r
        = { s.closePage r p
            { truncated := s.coder.cutShort, bitLength := s.coder.bitPos, lineCount := some x.linesDone
              badLines := 0 } with
            coder := { Coder.idleCoder with state := .waiting, slot := some r } })
    ∧ (¬written ∨ s.dirPlaces < s.imageNeed p → s.coderClose r = s))
  ∧ (∀ (s : State) (r : RouteNo), s.coder.slot = some r →
    let t := if s.coder.state = .waiting then s.coderTake r else s
    let u := if t.coder.state = .waiting then t.coderEnd r else t
    ((s.route r).live = true →
      s.coderPass = ({ u with coder := u.coder.pump (u.storage (u.route r).code) } : State).coderClose r)
    ∧ ((s.route r).live = false → s.coderPass = s))
  ∧ (∀ (c : Coder) (bs : Bits), c.acc.length ≤ 15 → c.queue.length ≤ 16 → bs.length ≤ c.space →
    (c.append bs).queue.flatMap bitsOfWord ++ (c.append bs).acc
        = c.queue.flatMap bitsOfWord ++ c.acc ++ bs
      ∧ (c.append bs).acc.length ≤ 15 ∧ (c.append bs).queue.length ≤ 16
      ∧ (c.append bs).bitPos = c.bitPos + bs.length)
  ∧ (∀ (c : Coder) (table : List Byte) (d : Dots),
    let t := c.takeLine table d
    t.codes ++ runsCodes table (!t.black) t.runs = lineCodes table d ∧ t.dot + t.runs.sum = 1728
      ∧ t.black = false ∧ t.queue = c.queue ∧ t.acc = c.acc)
  ∧ (∀ (c : Coder) (table : List Byte), c.state = .coding → c.acc.length ≤ 15 → c.queue.length ≤ 16 →
    let u := c.pump table
    u.queue.flatMap bitsOfWord ++ u.acc ++ u.codes.flatten ++ (runsCodes table (!u.black) u.runs).flatten
        = c.queue.flatMap bitsOfWord ++ c.acc ++ c.codes.flatten
          ++ (runsCodes table (!c.black) c.runs).flatten
      ∧ u.dot + u.runs.sum = c.dot + c.runs.sum
      ∧ u.bitPos + u.codes.flatten.length + (runsCodes table (!u.black) u.runs).flatten.length
        = c.bitPos + c.codes.flatten.length + (runsCodes table (!c.black) c.runs).flatten.length)
  ∧ ∀ (s : State) (r : RouteNo) (last : Bits), s.coder.slot = some r → s.coder.state = .coding →
    s.coder.codes = [last] → s.coder.runs = [] → (s.route r).live = true → last.length ≤ s.coder.space →
    let lines := min ((s.route r).linesDone + 1) 65535
    let end_ := s.coder.bitPos + last.length
    exec .coderLineComplete s = .next
      (({ s with
        coder := { s.coder.append last with
          state := .waiting, codes := []
          writer := s.coder.writer.addEnd { pos := end_, lines := lines, bad := 0 } }
        scanner := { s.scanner with coding := false } }.setRoute r
          { s.route r with linesDone := lines, lastLineEnd := end_ }).roomRaised).react

/-- R101: the bands are the sixteenths of the held samples, and B = floor(H[b] × F[s] / 128). R102: the width of a
phase is floor(B × (256·D − K·Q) / (256·D)), then clamped to Wmin and Wmax; K = 0 gives B, K = 255 with every dot
repeated gives floor(B / 256), and the bracket is at least D. -/
def Obligations.WidthsFollowBandsAndHistory : Prop :=
  (∀ (h : Heat) (theta volts : Byte) (hb : theta.toNat / 16 < h.base.length)
     (hf : volts.toNat / 16 < h.factor.length),
     baseWidth h theta volts = h.base[theta.toNat / 16] * h.factor[volts.toNat / 16] / 128
       ∧ (h.base[theta.toNat / 16] ≤ 4000 → h.factor[volts.toNat / 16] ≤ 255 →
         baseWidth h theta volts ≤ 7968))
  ∧ (∀ (h : Heat) (base : Nat) (p : Phase), 1 ≤ p.dots → p.hist ≤ p.dots → h.history ≤ 255 →
     h.wmin ≤ h.wmax →
     let w := base * (256 * p.dots - h.history * p.hist) / (256 * p.dots)
     (w < h.wmin → phaseWidth h base p = h.wmin) ∧ (h.wmax < w → phaseWidth h base p = h.wmax)
       ∧ (h.wmin ≤ w → w ≤ h.wmax → phaseWidth h base p = w)
       ∧ (h.history = 0 → w = base) ∧ (h.history = 255 → p.hist = p.dots → w = base / 256)
       ∧ p.dots ≤ 256 * p.dots - h.history * p.hist)

/-- The phases of a line hold its black groups, each once and in order; each phase's dots are those of its groups;
a phase is within the budget, or is one group alone marked over-budget; and a group joins the open phase where the sum
of their dots is within the budget, so that a phase ends only where the group that follows would pass it (R100). The
line burn time is R103's. -/
def Obligations.PhasesHoldEveryBlackGroupOnce : Prop :=
  ∀ (h : Heat) (theta volts : Byte) (dots old : Dots),
    let plan := planOf h theta volts dots old
    (plan.phases.flatMap Phase.groups
        = (List.range 8).filter fun g => decide (0 < blackDots (dots[g]?.getD 0)))
    ∧ (∀ p ∈ plan.phases,
        p.dots = (p.groups.map fun g => blackDots (dots[g]?.getD 0)).sum
        ∧ p.hist = (p.groups.map fun g =>
            blackDots (dots[g]?.getD 0 &&& old[g]?.getD 0)).sum
        ∧ 1 ≤ p.dots
        ∧ (if p.overBudget then p.groups.length = 1 ∧ h.budget < p.dots else p.dots ≤ h.budget)
        ∧ p.width = phaseWidth h (baseWidth h theta volts) p)
    ∧ (∀ front p q rest, plan.phases = front ++ p :: q :: rest → p.overBudget = false →
        ∀ g ∈ q.groups.head?, h.budget < p.dots + blackDots (dots[g]?.getD 0))
    ∧ plan.burn = (if plan.phases = [] then 0
        else h.load + (plan.phases.map fun p => p.width + h.gap).sum)

/-! ## Reports, orders in the stream (chapter 12) -/

/-- A report with the key of an entry takes that entry's place, its count one up to 255; one without such an entry
joins the back with a count of 1 (R182). A queue with one entry a place holds at most 64 entries (R182). A merged entry
stays withheld only where both are (R152). Only at ENTERING-DOZE, DOZE and DOZE-RX is a report withheld or a wake
cause: there an error report is withheld and wakes no one under quiet errors, and else is not withheld and is the wake
cause ERROR; a report of reception is withheld under quiet receive; any other is not (R148, R152). The error reports
are OVERRUN, BAD-LINES, OUT and ENDED with CARRIER, POOL-OUT or NO-PAGE; those of reception the ROUTE reports of a
LINE-RECEIVE and OPENED, CLOSED, LOW and OK (R152). That ERROR is known at those levels alone, and OPENED and CLOSED
count of whatever page, is the model's choice (log entries 68, 69). -/
def Obligations.ReportsOfOneKeyCoalesce : Prop :=
  (∀ (s : State) (x : Report),
    (∀ withheld, s.putReport x withheld = { s with reports := enqueue x withheld s.reports })
    ∧ (s.power.level ≠ some .enteringDoze → s.power.level ≠ some .doze → s.power.level ≠ some .dozeRx →
      s.queueReport x = s.putReport x false)
    ∧ (s.power.level = some .enteringDoze ∨ s.power.level = some .doze ∨ s.power.level = some .dozeRx →
      (x.isError = true →
        (s.power.quietErrors = false → s.queueReport x = (s.putReport x false).takeWake .error)
        ∧ (s.power.quietErrors = true → s.queueReport x = s.putReport x true))
      ∧ (x.isError = false →
        (s.isReception x = true → s.queueReport x = s.putReport x s.power.quietReceive)
        ∧ (s.isReception x = false → s.queueReport x = s.putReport x false)))
    ∧ (x.isError = true ↔
      (∃ r n, x = .overrun r n) ∨ (∃ r bad run, x = .badLines r bad run) ∨ x = .poolOut
        ∨ ∃ r k o c u p l b, x = .ended r k o (some c) u p l b
          ∧ (c = .carrier ∨ c = .poolOut ∨ c = .noPage))
    ∧ (s.isReception x = true ↔
      (x.kindCode = 0x82 ∧ ∃ r : RouteNo, x.subject = r ∧ (s.route r).kind = some .lineReceive)
        ∨ (∃ p, x = .pageOpened p) ∨ (∃ p truncated, x = .pageClosed p truncated) ∨ x = .poolLow
        ∨ x = .poolOk))
  ∧ (∀ (x : Report) (withheld : Bool) (q : List QueueEntry),
    (∀ front e back, q = front ++ e :: back → x.key ≠ none → e.report.key = x.key →
      (∀ y ∈ front, y.report.key ≠ x.key) →
      enqueue x withheld q = front
        ++ { report := x, count := min (e.count + 1) 255, withheld := e.withheld && withheld } :: back)
    ∧ ((x.key = none ∨ ∀ y ∈ q, y.report.key ≠ x.key) →
      enqueue x withheld q = q ++ [{ report := x, count := 1, withheld := withheld }]))
  ∧ ∀ q : List QueueEntry, queueWf q → q.length ≤ 64

/-- R184: ATTN is asserted while the Report Queue holds an entry that is not withheld, after RELEASE and short of
RETAIN. -/
def Obligations.AttnFollowsTheReportQueue : Prop :=
  ∀ s : State, s.attn = true ↔
    ((∃ e ∈ s.reports, e.withheld = false) ∧ s.boot.state = .ready ∧ s.power.level ≠ some .retain)

/-- An accepted TABLE LOAD opens its slot at its fourth body byte, and a load of no bytes ends at once, BAD (R170,
R171). The last data byte of a TABLE LOAD ends the load: the slot's length, check, outcome and state are set, a TABLE
report is queued, and the parser is at the next record (R171, R176). The outcome of a load: TABLE-CHECK where the sum
differs, else TABLE-FORM with the first form test that fails, else READY (R171); the form tests of each kind are
R172's, in its order, over the fields of R169; they are numbered from 0, the model's choice (log entry 9). A load is
refused BAD-FIELD for a slot above 15, an unknown kind or more than 1024 bytes, and TABLE-BOUND for a bound slot
(R170); its data bytes are then skipped, the last leading to the next record (R177). TABLE DROP empties an unbound
slot; it is refused BAD-FIELD for a slot above 15 and TABLE-BOUND for a bound one, and a refused drop changes nothing
but the Report Queue (R174, R177). -/
def Obligations.TableLoadsEndByTheirTests : Prop :=
  (∀ d : List Byte,
     let byte (i : Nat) : Nat := (d.getD i 0).toNat
     let word (i : Nat) : Nat := byte i + 256 * byte (i + 1)
     let n := byte 0
     formTests .code d
         = [decide (d.length = 550),
           (List.range 182).all fun i => decide (1 ≤ byte (3 * i) ∧ byte (3 * i) ≤ 16),
           decide (12 ≤ byte 546 ∧ byte 546 ≤ 16), decide (2 ≤ byte 549 ∧ byte 549 ≤ 8)]
     ∧ formTests .heat d
         = [decide (d.length = 59), (List.range 16).all fun i => decide (word (2 * i) ≤ 4000),
           decide (32 ≤ word 48 ∧ word 48 ≤ 1728), decide (word 51 ≤ 8000 ∧ word 53 ≤ 8000),
           decide (word 51 ≤ word 53), decide (word 56 ≤ 2000), decide (1 ≤ byte 58 ∧ byte 58 ≤ 16)]
     ∧ formTests .ramp d
         = [decide (6 ≤ d.length), decide (2 ≤ n ∧ n ≤ 128), decide (d.length = 6 + 2 * n),
           decide (byte 1 < n), [2, 3, 4].all fun i => decide (1 ≤ byte i ∧ byte i ≤ 16),
           (List.range n).all fun i => decide (100 ≤ word (6 + 2 * i)),
           (List.range (n - 1)).all fun i => decide (word (8 + 2 * i) ≤ word (6 + 2 * i))]
     ∧ formTests .shade d = [decide (d.length = 29)])
  ∧ (∀ (kind : TableKind) (d : List Byte) (check : Nat),
     (byteSum d ≠ check → loadFailure kind d check = some .check)
     ∧ (byteSum d = check → (∀ ok ∈ formTests kind d, ok = true) → loadFailure kind d check = none)
     ∧ (byteSum d = check → ∀ i, (formTests kind d)[i]? = some false →
         (∀ j < i, (formTests kind d)[j]? = some true) →
         loadFailure kind d check = some (.form i)))
  ∧ (∀ (slot kind : Byte) (check : Word) (n : Nat) (s : State) (t : TableNo) (k : TableKind),
     s.atHead = true → asFin 16 slot.toNat = some t → tableKindOf kind = some k →
     (s.table t).binds = 0 →
     (0 < n → n ≤ 1024 →
       exec (.tableLoad slot kind check n) s = .next
         { s with
           tables := s.tables.set t
             { kind := some k, state := .loading, length := 0, check := 0, binds := 0, storage := []
               failure := none }
           parser :=
             { state := .body, source := .port, header := [], kind := 0x02, length := n + 4, body := []
               taken := 4, use := .load t check, matched := 0 } })
     ∧ (n = 0 →
       exec (.tableLoad slot kind check n) s = .next
         ({ s with
           tables := s.tables.set t
             { kind := some k, state := .bad, length := 0, check := check.toNat, binds := 0
               storage := []
               failure := some (if check = 0 then .form 0 else .check) }
           parser := { Parser.start with source := .port } }.putReport
           (if check = 0 then .tableForm t k 0 0 else .tableCheck t k 0) false)))
  ∧ (∀ (data : List Byte) (s : State) (t : TableNo) (k : TableKind) (check : Word),
     s.boot.state = .ready → s.power.level = some .run → s.parser.source = .port →
     s.parser.state = .body → s.parser.use = .load t check → s.port.inFifo = [] → 0 < data.length →
     s.parser.taken + data.length = s.parser.length → (s.table t).kind = some k →
     let all := (s.table t).storage ++ data
     let failure := loadFailure k all check.toNat
     exec (.tableLoadEnd data) s = .next
       ({ s with
         tables := s.tables.set t
           { s.table t with
             storage := all, length := all.length, check := check.toNat, failure := failure
             state := if failure = none then .ready else .bad }
         parser := { Parser.start with source := .port } }.putReport
         (match failure with
           | none => .tableReady t k (byteSum all)
           | some .check => .tableCheck t k (byteSum all)
           | some (.form i) => .tableForm t k (byteSum all) i) false))
  ∧ (∀ (slot kind : Byte) (n : Nat) (s : State),
     (15 < slot.toNat ∨ 3 < kind.toNat ∨ 1024 < n → s.loadRefusal slot kind n = some .badField)
     ∧ (∀ t, asFin 16 slot.toNat = some t → kind.toNat ≤ 3 → n ≤ 1024 → 0 < (s.table t).binds →
       s.loadRefusal slot kind n = some .tableBound)
     ∧ ∀ (check : Word) (c : Refused), s.atHead = true → n ≤ 1036 → s.loadRefusal slot kind n = some c →
       exec (.tableLoad slot kind check n) s = .next
         ({ s with
           parser :=
             if n = 0 then { Parser.start with source := .port }
             else
               { state := .body, source := .port, header := [], kind := 0x02, length := n + 4, body := []
                 taken := 4, use := .skip, matched := 0 } }.putReport
           (.refused .tableLoad c (number slot.toNat)) false))
  ∧ (∀ (b : Byte) (s : State), s.boot.state = .ready → s.power.level = some .run →
     s.parser.source = .port → s.parser.state = .body → s.parser.use = .skip → s.port.inFifo = [] →
     exec (.inboundByte b) s = .next
       { s with
         parser :=
           if s.parser.length ≤ s.parser.taken + 1 then { Parser.start with source := .port }
           else { s.parser with taken := s.parser.taken + 1 } }.react)
  ∧ ∀ (slot : Byte) (s : State), s.atHead = true →
    (∀ t, asFin 16 slot.toNat = some t → (s.table t).binds = 0 →
      exec (.tableDrop slot) s = .next { s with tables := s.tables.set t TableSlot.emptySlot })
    ∧ (∀ t, asFin 16 slot.toNat = some t → 0 < (s.table t).binds →
      exec (.tableDrop slot) s = .next
        (s.putReport (.refused .tableDrop .tableBound (number slot.toNat)) false))
    ∧ (15 < slot.toNat →
      exec (.tableDrop slot) s = .next
        (s.putReport (.refused .tableDrop .badField (number slot.toNat)) false))

/-! ## Orders (chapters 1, 4, 7, 9, 11, 12) -/

/-- SETUP in range, with the refresh interval in force. With the geometry in force it sets every value, and the scrub
timer follows its interval; it queues no report (R35, R179). The watermark in force at the print ring is not changed by
it (R145). With another geometry, in service, no route in use and every page FREE, it sets the values and begins a
geometry clear: the spare blocks join the stranded count, the free count standing, the scrub timer stops and a waiting
scrub is withdrawn (R167; that the free count stands during the clear is the model's reading, log entry 26); a POOL
report that R17 gives for the fall of availability follows in the event, the model's choice (log entry 59). SETUP's
tests run in this order: BAD-FIELD for a value outside its range, BOOT-ONLY for another refresh interval, and for
another geometry BUSY out of service, SLOT-BUSY with a route in use, PAGES-PRESENT with a page that is not FREE (R167,
R179); from the boot ROM the first test alone is made (R159, R179). -/
def Obligations.SetupSetsItsValues : Prop :=
  (∀ (b : SetupBody) (s : State), s.atHead = true → setupInRange b = true →
    b.refresh.toNat = s.setup.refresh →
    let values : Setup :=
      { refresh := b.refresh.toNat, scrub := b.scrub.toNat, lowMark := b.lowMark.toNat
        lamp := 10 * b.lamp.toNat, settle := b.settle.toNat, cutter := 10 * b.cutter.toNat
        watermark := b.watermark.toNat }
    (b.geometry.toNat = s.store.geometry →
      exec (.setup b) s = .next
        { s with
          setup := values
          store :=
            { s.store with
              scrubTimer := if b.scrub.toNat = 0 then none
                else if s.setup.scrub = 0 ∧ s.scrubbing = true then
                  some (s.now + 1000 * b.scrub.toNat)
                else s.store.scrubTimer
              scrubWaiting := if b.scrub.toNat = 0 then false else s.store.scrubWaiting } })
    ∧ (b.geometry.toNat ≠ s.store.geometry → s.pool.state = .inService → s.routesInUse = [] →
      (∀ p, (s.page p).state = .free) →
      let now := s.pool.freeCount - s.remainders
      let low := now < s.available ∧ values.lowMark ≤ s.available ∧ now < values.lowMark
        ∧ s.pool.alert = .none
      exec (.setup b) s = .next
        ({ s with
          setup := values
          reports := if low then enqueue .poolLow false s.reports else s.reports
          pool :=
            { s.pool with
              state := .clearing, stranded := s.pool.stranded + s.pool.spare.length, spare := []
              alert := if low then .low else s.pool.alert }
          store :=
            { s.store with
              geometry := b.geometry.toNat, scrubTimer := none, scrubWaiting := false }
          boot := { s.boot with task := .geometryWait } }).react))
  ∧ (∀ b : SetupBody, setupInRange b = true ↔
    b.geometry.toNat ∈ [1024, 2048, 4096] ∧ 8 ≤ b.refresh.toNat ∧ b.refresh.toNat ≤ 60
      ∧ b.lowMark.toNat ≤ 1023 ∧ 10 ≤ b.cutter.toNat ∧ 1 ≤ b.watermark.toNat ∧ b.watermark.toNat ≤ 3)
  ∧ ∀ (b : SetupBody) (s : State),
    (∀ rom, setupInRange b = false → s.setupRefusal b rom = some .badField)
    ∧ (setupInRange b = true →
      s.setupRefusal b true = none
      ∧ (b.refresh.toNat ≠ s.setup.refresh → s.setupRefusal b false = some .bootOnly)
      ∧ (b.refresh.toNat = s.setup.refresh →
        (b.geometry.toNat = s.store.geometry → s.setupRefusal b false = none)
        ∧ (b.geometry.toNat ≠ s.store.geometry →
          (s.pool.state ≠ .inService → s.setupRefusal b false = some .busy)
          ∧ (s.pool.state = .inService →
            (s.routesInUse ≠ [] → s.setupRefusal b false = some .slotBusy)
            ∧ (s.routesInUse = [] →
              ((∃ p, (s.page p).state ≠ .free) → s.setupRefusal b false = some .pagesPresent)
              ∧ ((∀ p, (s.page p).state = .free) → s.setupRefusal b false = none))))))

/-- PAGE DROP frees a CLOSED page without readers: its whole chain joins the free list's tail by a link word, a FREE
image is written unless one waits unbegun, and a PAGE report FREED is queued (R2, R9, R11, R12); what follows the rise
of availability is R16's and R17's. A burst in progress that reads the freed page flags it no more: the model's
reading (log entry 14). One with readers becomes DROPPING, with its image write and report (R9), and PAGE DROP is
refused as R9 says, in its order. -/
def Obligations.PageDropFreesOrMarksItsPage : Prop :=
  ∀ (page : Byte) (s : State), s.atHead = true →
    (∀ p, asFin 32 page.toNat = some p → s.pool.state = .inService → (s.page p).state = .closed →
      (s.page p).readers = 0 → s.freeNeed p ≤ s.dirPlaces →
      let e := s.page p
      let link : List DirItem :=
        if 0 < s.pool.freeCount then
          s.pool.freeTail.toList.map fun t => .link t (BitVec.ofNat 16 e.head)
        else []
      let image : List DirItem :=
        if s.pool.dirQueue.any (DirItem.isFreshImage p) then [] else [.image p none false]
      exec (.pageDrop page) s = .next
        (({ s with
          pages := s.pages.set p PageEntry.freeEntry
          store := { s.store with burst := s.store.burst.map (Burst.forget p) }
          pool :=
            { s.pool with
              freeHead := some (s.pool.freeHead.getD e.head), freeTail := some e.tail
              freeCount := s.pool.freeCount + e.blockCount
              dirQueue := s.pool.dirQueue ++ link ++ image
              damage := s.pool.damage.filter fun x => x.1 != p }
          reports := enqueue (.pageFreed p) false s.reports }.availChange s.available).react))
    ∧ (∀ p, asFin 32 page.toNat = some p → s.pool.state = .inService → (s.page p).state = .closed →
      0 < (s.page p).readers → s.imageNeed p ≤ s.dirPlaces →
      let image : List DirItem :=
        if s.pool.dirQueue.any (DirItem.isFreshImage p) then [] else [.image p none false]
      exec (.pageDrop page) s = .next
        { s with
          pages := s.pages.set p { s.page p with state := .dropping }
          pool := { s.pool with dirQueue := s.pool.dirQueue ++ image }
          reports := enqueue (.pageDropping p) false s.reports })
    ∧ (∀ c, s.dropPageRefusal page = some c →
      exec (.pageDrop page) s = .next
        (s.putReport (.refused .pageDrop c (number page.toNat)) false))
    ∧ (31 < page.toNat → s.dropPageRefusal page = some .badField)
    ∧ (∀ p, asFin 32 page.toNat = some p →
      (s.pool.state ≠ .inService → s.dropPageRefusal page = some .busy)
      ∧ (s.pool.state = .inService → (s.page p).state ≠ .closed →
        s.dropPageRefusal page = some .pageState))

/-- An accepted ROUTE START, all in one event: the record is the start's, ARMED or RUNNING by its kind, its engines are
claimed, each slot it binds counts one more, and a reader's page has one more reader; HOST-STORE then asks for its page
(R3, R8, R62, R63, R66, R173). The record holds the fields of its kind from the body, the rest at 0 or absent (R60,
R62, R65); a LINE-RECEIVE's reservation lowers the availability, with R17's alert (R15, R17), reported before the ROUTE
report ARMED or RUNNING (R66; log entry 78). The blocks of the kind begin with nothing in hand: SCAN-STORE and COPY
turn the lamp on (R66, R88), the Coder waits, the rings are empty with a white history line (R98), the Line Port is
SEEKING or PRIMING (R135), and a LINE-SEND or PAGE-HOST fetches from its page's head (R56); that the underrun count
begins at 0 is the model's choice (log entry 67), that a phase cut off counts no more in the slot started anew its
reading (log entry 29). R64's ten tests run in its order, and a start is refused for the first whose cause holds:
BAD-FIELD, BUSY, SLOT-BUSY, ENGINE-BUSY, ENGINE-FAULT, NO-PAPER, TABLE-NOT-READY, TABLE-KIND, PAGE-STATE, NO-ROOM (R64,
R65). BAD-FIELD is a slot, a table slot that the kind binds, a page, a top index, a reservation or a fill outside its
range, or an option that the kind does not accept (R62, R65); that the pitch is tested for every kind but PRINT-PAGE, a
carrier timeout of 0 for LINE-RECEIVE alone, and HOST-STORE's code slot number up to 15 is the model's reading (log
entry 28). -/
def Obligations.RouteStartPutsItsRouteInUse : Prop :=
  (∀ (b : StartBody) (s : State) (k : RouteKind) (r : RouteNo), s.atHead = true →
     routeKindOf b.kind = some k → asFin 4 b.slot.toNat = some r → s.startRefusal b = none →
     (k = .hostStore → s.pool.dirQueue.length + 2 ≤ 16) →
     ∃ u : State, exec (.routeStart b) s
         = .next (if k = .hostStore then (u.askOpen r .hostStore).react else u.react)
       ∧ u.route r = { s.startRecord b k with state := if k.arms then .armed else .running }
       ∧ u.engines = s.engines.claim k r
       ∧ (∀ t, u.table t = { s.table t with
           binds := (s.table t).binds + if t ∈ (s.startRecord b k).boundSlots then 1 else 0 })
       ∧ (∀ p, u.page p = { s.page p with
           readers := (s.page p).readers + if (s.startRecord b k).page = some p then 1 else 0 })
       ∧ (k = .hostStore → u.hostIn = { HostIn.idleFlow with slot := some r })
       ∧ u.store = s.store
       ∧ ((s.route r).remainder = 0 →
         let now := s.available - if k = .lineReceive then b.reservation.toNat else 0
         let low := now < s.available ∧ s.setup.lowMark ≤ s.available ∧ now < s.setup.lowMark
           ∧ s.pool.alert = .none
         ∃ v : State, u = (v.startBlocks r k).routeTo r (if k.arms then .armed else .running)
           ∧ v.route r = s.startRecord b k ∧ (∀ q, q ≠ r → v.route q = s.route q)
           ∧ v.head = { s.head with
             cutOff := s.head.cutOff.map fun c =>
               { c with slot := if c.slot = some r then none else c.slot } }
           ∧ v.pool = { s.pool with alert := if low then .low else s.pool.alert }
           ∧ v.reports = (if low then enqueue .poolLow false s.reports else s.reports)
           ∧ { v with
               routes := s.routes, tables := s.tables, engines := s.engines, pages := s.pages
               head := s.head, pool := s.pool, reports := s.reports } = s))
  ∧ (∀ (s : State) (r : RouteNo),
     let now_ (x : RouteState) : State := s.setRoute r { s.route r with state := x }
     s.routeTo r .armed = (now_ .armed).queueReport (.routeArmed r)
     ∧ s.routeTo r .running = (now_ .running).queueReport (.routeRunning r)
     ∧ s.routeTo r .stalled = (now_ .stalled).queueReport (.routeStalled r)
     ∧ s.routeTo r .halting = (now_ .halting).queueReport (.routeHalting r))
  ∧ (∀ (b : StartBody) (s : State),
     let code := asFin 16 b.code.toNat
     let heat := asFin 16 b.heat.toNat
     let pf := asFin 16 b.pfRamp.toNat
     let sf := asFin 16 b.sfRamp.toNat
     let shade := asFin 16 b.shade.toNat
     let page := asFin 32 b.page.toNat
     let x : Route :=
       { Route.idleRecord with
         continues := b.options.getLsbD 0, dropAfter := b.options.getLsbD 1
         cutAfter := b.options.getLsbD 2, pitch := b.pitch.toNat }
     s.startRecord b .scanStore
         = { x with
             kind := some .scanStore, code := code, sfRamp := sf, shade := shade, top := b.top.toNat
             jam := b.jam.toNat, lead := b.lead.toNat, eject := b.eject.toNat, trail := b.trail.toNat
             maxLines := b.maxLines.toNat }
     ∧ s.startRecord b .copy
         = { x with
             kind := some .copy, heat := heat, pfRamp := pf, sfRamp := sf, shade := shade
             top := b.top.toNat, jam := b.jam.toNat, lead := b.lead.toNat, eject := b.eject.toNat
             trail := b.trail.toNat, maxLines := b.maxLines.toNat, tail := b.tail.toNat }
     ∧ s.startRecord b .printPage
         = { x with
             kind := some .printPage, page := page, code := code, heat := heat, pfRamp := pf
             top := b.top.toNat, badLimit := b.badLimit.toNat, tail := b.tail.toNat
             pitch := (page.map fun p => (s.page p).pitch).getD 0 }
     ∧ s.startRecord b .lineReceive
         = { x with
             kind := some .lineReceive, code := code, badLimit := b.badLimit.toNat
             remainder := b.reservation.toNat, carrierMs := 10 * b.carrier.toNat }
     ∧ s.startRecord b .lineSend
         = { x with
             kind := some .lineSend, page := page, code := code, badLimit := b.badLimit.toNat
             minBits := b.minBits.toNat }
     ∧ s.startRecord b .hostStore
         = { x with kind := some .hostStore, namedCode := b.code.toNat }
     ∧ s.startRecord b .pageHost = { x with kind := some .pageHost, page := page })
  ∧ (∀ (e : Engines) (r : RouteNo),
     e.claim .scanStore r = { e with scanner := some r, coder := some r }
     ∧ e.claim .copy r = { e with scanner := some r, printer := some r }
     ∧ e.claim .printPage r = { e with printer := some r, decoder := some r }
     ∧ e.claim .lineReceive r = { e with line := some r } ∧ e.claim .lineSend r = { e with line := some r }
     ∧ e.claim .hostStore r = { e with hostIn := some r }
     ∧ e.claim .pageHost r = { e with hostOut := some r })
  ∧ (∀ (s : State) (r : RouteNo),
     let lit : Scanner :=
       { Scanner.idlePort with
         lastStart := s.scanner.lastStart
         lamp := if s.setup.lamp = 0 then .warm else .warming
         lampTimer := if s.setup.lamp = 0 then none else some (s.now + 1000 * s.setup.lamp) }
     let emptied : Head :=
       { s.head with
         ready := [], capturing := false, nextSlot := 0, history := Dots.white, current := none
         burn := none, cutOff := s.head.cutOff ++ (s.head.burn.bind Burn.cutPhase).toList, capacity := 4 }
     s.startBlocks r .scanStore
         = { s with
             coder := { Coder.idleCoder with state := .waiting, slot := some r }
             scanner := { lit with nextSlot := s.scanner.nextSlot } }
     ∧ s.startBlocks r .copy = { s with head := { emptied with capacity := 8 }, scanner := lit }
     ∧ s.startBlocks r .printPage = { s with head := emptied }
     ∧ s.startBlocks r .lineReceive
         = { s with line :=
             { LinePort.idlePort with slot := some r, rx := .seeking, txd := s.line.txd } }
     ∧ s.startBlocks r .hostStore = { s with hostIn := { HostIn.idleFlow with slot := some r } }
     ∧ ∀ p, (s.route r).page = some p →
       let e := s.page p
       let fetch : Fetch :=
         { active := true, block := e.head, offset := 0, left := (e.bitLength + 15) / 16, queue := [] }
       s.startBlocks r .lineSend
           = { s with line :=
               { LinePort.idlePort with
                 slot := some r, tx := .priming, fetch := fetch, bitLength := e.bitLength
                 txd := s.line.txd } }
       ∧ s.startBlocks r .pageHost
           = { s with hostOut :=
               { HostOut.idleFlow with slot := some r, fetch := fetch, bitLength := e.bitLength } })
  ∧ (∀ b : StartBody,
     startBindings b .scanStore
         = [(b.code.toNat, .code), (b.sfRamp.toNat, .ramp), (b.shade.toNat, .shade)]
     ∧ startBindings b .copy
         = [(b.heat.toNat, .heat), (b.pfRamp.toNat, .ramp), (b.sfRamp.toNat, .ramp),
           (b.shade.toNat, .shade)]
     ∧ startBindings b .printPage
         = [(b.code.toNat, .code), (b.heat.toNat, .heat), (b.pfRamp.toNat, .ramp)]
     ∧ startBindings b .lineReceive = [(b.code.toNat, .code)]
     ∧ startBindings b .lineSend = [(b.code.toNat, .code)]
     ∧ startBindings b .hostStore = [] ∧ startBindings b .pageHost = []
     ∧ ∀ k : RouteKind, startBadField b k = true ↔
       3 < b.slot.toNat ∨ (∃ x ∈ startBindings b k, 15 < x.1)
       ∨ (k = .hostStore ∧ 15 < b.code.toNat) ∨ (k.isReader = true ∧ 31 < b.page.toNat)
       ∨ (k ≠ .printPage ∧ (b.pitch.toNat < 1 ∨ 3 < b.pitch.toNat))
       ∨ ((k.usesScanner = true ∨ k.usesPrinter = true) ∧ 127 < b.top.toNat)
       ∨ (k = .lineReceive ∧ (1008 < b.reservation.toNat ∨ b.carrier = 0))
       ∨ (k = .lineSend ∧ 4800 < b.minBits.toNat)
       ∨ (b.options.getLsbD 0 = true ∧ k ≠ .scanStore ∧ k ≠ .lineReceive)
       ∨ (b.options.getLsbD 1 = true ∧ k ≠ .printPage ∧ k ≠ .lineSend ∧ k ≠ .pageHost)
       ∨ (b.options.getLsbD 2 = true ∧ k ≠ .copy ∧ k ≠ .printPage) ∨ 7 < b.options.toNat)
  ∧ (∀ (b : StartBody) (s : State),
     (routeKindOf b.kind = none ∨ 3 < b.slot.toNat → s.startRefusal b = some .badField)
     ∧ ∀ (k : RouteKind) (r : RouteNo), routeKindOf b.kind = some k → asFin 4 b.slot.toNat = some r →
       (startBadField b k = true → s.startRefusal b = some .badField)
       ∧ (startBadField b k = false →
         (s.pool.state = .clearing → s.startRefusal b = some .busy)
         ∧ (s.pool.state ≠ .clearing → (s.route r).inUse = true → s.startRefusal b = some .slotBusy)
         ∧ (s.pool.state ≠ .clearing → (s.route r).inUse = false →
           ((s.engines.busy k || s.claimBusy k) = true → s.startRefusal b = some .engineBusy)
           ∧ ((s.engines.busy k || s.claimBusy k) = false →
             ((k.usesScanner = true ∧ s.engines.scannerFault = true)
               ∨ (k.usesPrinter = true ∧ s.engines.printerFault = true) →
               s.startRefusal b = some .engineFault)
             ∧ ((k.usesScanner = true → s.engines.scannerFault = false) →
               (k.usesPrinter = true → s.engines.printerFault = false) →
               (k.usesPrinter = true → s.pins.paperOut = true → s.startRefusal b = some .noPaper)
               ∧ ((k.usesPrinter = true → s.pins.paperOut = false) →
                 let slots := startBindings b k
                 ((∃ x ∈ slots, (s.slotAt x.1).state ≠ .ready) →
                   s.startRefusal b = some .tableNotReady)
                 ∧ ((∀ x ∈ slots, (s.slotAt x.1).state = .ready) →
                   ((∃ x ∈ slots, (s.slotAt x.1).kind ≠ some x.2) →
                     s.startRefusal b = some .tableKind)
                   ∧ ((∀ x ∈ slots, (s.slotAt x.1).kind = some x.2) →
                     (k.isReader = true →
                       ∀ p, asFin 32 b.page.toNat = some p →
                         s.startRefusal b
                           = if (s.page p).state = .closed then none else some .pageState)
                     ∧ (k = .lineReceive →
                       s.startRefusal b
                         = if s.available < b.reservation.toNat then some .noRoom else none)
                     ∧ (k.isReader = false → k ≠ .lineReceive → s.startRefusal b = none)))))))))

/-- How a route whose outcome is fixed ends, once the directory write queue has the places: IDLE with the outcome and
cause, without page, reservation or slots, the rest of its record as it was (R60), its engine claims released, each
slot it bound counting one less, its blocks at rest, rings emptied and the lamp off (R71, R173). A writer's OPEN page
closes, normally by R5 or TRUNCATED by R6. A reader's page loses it as reader by R10's table: the last reader's end
frees a DROPPING page, DROP-AFTER at DONE frees the page without readers and makes it DROPPING with others left, and
any other end leaves it (R8, R10, R76). The directory writes these need are queued in the event (R2, R11, R12, R71),
and a ROUTE report ENDED is queued with the kind, outcome, cause, mark, and the last page with its lines and bad lines
(R71). ROUTE_END_DEFERRED does so for a route held in HALTING, and waits on while the places are wanting; where the end
wakes the part to RUN the parser resumes (R149). An outcome is fixed for a live route alone: its flows stop, a burst of
its own serves no one, the model's reading (log entry 14), and with the places at hand it ends in the event, else it
goes HALTING, reported where it was not, with the outcome in its record (R71, R72). A failure, a halt and a completion
outside FINISH fix FAILED with the cause, HALTED and DONE; the first two close a writer's page TRUNCATED at its last
line end stored, or word (R6, R70). The flows of each kind: rings emptied, captures, fetches and the burn ended, queues
discarded, the motors run down, started again from a stretch above Z; a DATA report under way is completed with zeros
(R69, R97, R109, R125); the underrun count goes to 0, its choice (log entry 67). -/
def Obligations.RouteEndsInOneEvent : Prop :=
  (∀ (e : Engines) (r : RouteNo),
    let free (x : Option RouteNo) : Option RouteNo := if x = some r then none else x
    e.release r
      = { e with
          scanner := free e.scanner, coder := free e.coder, printer := free e.printer
          decoder := free e.decoder, line := free e.line, hostIn := free e.hostIn
          hostOut := free e.hostOut })
  ∧ (∀ (s : State) (r : RouteNo) (f : Fate),
    let x := s.route r
    let stopped := (s.stopFlows r).orphanBurst x.kind
    let fixed := stopped.setRoute r { stopped.route r with lastLineEnd := s.lastEnd r f }
    let held := fixed.setRoute r
      { fixed.route r with
        state := .halting, fate := some f, outcome := some f.outcome, cause := f.cause
        unterminated := f.unterminated }
    (x.live = false → s.fixEnd r f = s)
    ∧ (x.live = true → fixed.endNeed r f ≤ fixed.dirPlaces → s.fixEnd r f = fixed.finishRoute r f)
    ∧ (x.live = true → fixed.dirPlaces < fixed.endNeed r f →
      s.fixEnd r f = if x.state = .halting then held else held.queueReport (.routeHalting r))
    ∧ (∀ c, f.close = some c →
      s.lastEnd r f = if c.truncated = true then c.bitLength else x.lastLineEnd)
    ∧ (f.close = none →
      s.lastEnd r f =
        if x.kind = some .lineReceive ∧ (s.line.rx = .storing ∨ s.line.rx = .flushing) then
          s.line.writer.covered.pos
        else x.lastLineEnd))
  ∧ (∀ (s : State) (r : RouteNo),
    (∀ cause, s.failRoute r cause = s.fixEnd r
      { outcome := .failed, cause := some cause, unterminated := false, close := s.abruptClose r })
    ∧ s.haltRoute r = s.fixEnd r
      { outcome := .halted, cause := none, unterminated := false, close := s.abruptClose r }
    ∧ (∀ unterminated close, (s.route r).halt ≠ .finish →
      s.completeRoute r unterminated close = s.fixEnd r
        { outcome := .done, cause := none, unterminated := unterminated, close := close })
    ∧ ((s.route r).page = none → s.abruptClose r = none)
    ∧ ∀ p, (s.route r).page = some p →
      s.abruptClose r = match (s.route r).kind with
        | some .scanStore => some
          { truncated := true, bitLength := s.coder.writer.covered.pos
            lineCount := some s.coder.writer.covered.lines, badLines := 0 }
        | some .lineReceive => some
          { truncated := true, bitLength := s.line.writer.covered.pos
            lineCount := some s.line.writer.covered.lines, badLines := s.line.writer.covered.bad }
        | some .hostStore => some
          { truncated := true, bitLength := s.hostIn.writer.covered.pos, lineCount := none
            badLines := 0 }
        | _ => none)
  ∧ (∀ (s : State) (r : RouteNo),
    let x := s.route r
    let ring : Scanner :=
      { s.scanner with
        coding := false, ready := [], capturing := false, captureTimer := none, phase := .none }
    let head : Head :=
      { s.head with
        ready := [], capturing := false, nextSlot := 0, history := Dots.white, current := none
        burn := none, cutOff := s.head.cutOff ++ (s.head.burn.bind Burn.cutPhase).toList }
    (x.kind = some .scanStore →
      s.stopFlows r = { { s with scanner := ring }.runDown .sf with
        coder := { Coder.idleCoder with state := .waiting, slot := some r } })
    ∧ (x.kind = some .copy →
      s.stopFlows r = ({ { s with head := head }.runDown .pf with scanner := ring }).runDown .sf)
    ∧ (x.kind = some .printPage →
      s.stopFlows r = { { s with head := head }.runDown .pf with
        printDec := { PrintDecoder.idleDecoder with slot := some r } })
    ∧ (x.kind = some .lineReceive ∨ x.kind = some .lineSend →
      s.stopFlows r = { s with line := { LinePort.idlePort with slot := some r, txd := s.line.txd } })
    ∧ (x.kind = some .hostStore →
      s.stopFlows r = { s with hostIn := { HostIn.idleFlow with slot := some r } })
    ∧ (x.kind = some .pageHost →
      s.stopFlows r = { s with
        hostOut := { HostOut.idleFlow with slot := some r }
        port := { s.port with record := s.port.record.map fun y =>
          { y with data := y.data.map fun d =>
            { d with cutShort := d.cutShort || decide (d.slot = r) } } } })
    ∧ ∀ m,
      let mo := s.motor m
      let down := s.setMotor m { mo with motion := .runDown, stretched := false }
      (mo.state ≠ .moving →
        s.runDown m = s.setMotor m { mo with state := .idle, motion := .none, left := 0 })
      ∧ (mo.state = .moving → mo.stretched = false → s.runDown m = down)
      ∧ (mo.state = .moving → mo.stretched = true →
        (mo.index ≤ (s.rampInUse m).z → s.runDown m = down.restMotor m .idle .none)
        ∧ ((s.rampInUse m).z < mo.index → s.runDown m = down.stepEvent m 0)))
  ∧ (∀ (s : State) (kind : Option RouteKind),
    (∀ b k, s.store.burst = some b → kind = some k →
      (b.kind.ofKind k = true ↔
        (k = .scanStore ∧ ∃ a ws, b.kind = .coderWrite a ws)
        ∨ (k = .lineReceive ∧ ∃ a ws n, b.kind = .lineWrite a ws n)
        ∨ (k = .hostStore ∧ ∃ a ws, b.kind = .hostWrite a ws)
        ∨ ∃ reader, ((∃ a n, b.kind = .fetchWords reader a n) ∨ ∃ block, b.kind = .fetchLink reader block)
          ∧ k = (match reader with
            | .print => .printPage
            | .line => .lineSend
            | .host => .pageHost))
      ∧ s.orphanBurst kind = { s with store :=
          { s.store with burst := some { b with orphan := b.orphan || b.kind.ofKind k } } })
    ∧ (s.store.burst = none ∨ kind = none → s.orphanBurst kind = s))
  ∧ (∀ (s : State) (r : RouteNo) (f : Fate),
    let u := s.finishRoute r f
    let x := s.route r
    let last := if x.isReader = true ∨ f.close ≠ none then x.page <|> x.lastPage else x.lastPage
    let counts := x.lastCounts.getD (x.linesDone, x.badLines)
    u.route r
        = { x with
            state := .idle, page := none, code := none, heat := none, pfRamp := none, sfRamp := none
            shade := none, remainder := 0, outcome := some f.outcome, cause := f.cause
            unterminated := f.unterminated, halt := .none, fate := none, cutStage := .none
            lastPage := last }
    ∧ (let ring : Scanner :=
        { s.scanner with
          coding := false, ready := [], capturing := false, captureTimer := none, phase := .none
          lamp := .off, lampTimer := none }
      (x.kind = some .scanStore → u.scanner = ring ∧ u.coder = Coder.idleCoder)
      ∧ (x.kind = some .copy → u.scanner = { ring with nextSlot := 0 })
      ∧ (x.usesScanner = false → u.scanner = s.scanner)
      ∧ (x.usesPrinter = true →
        u.head.ready = [] ∧ u.head.capturing = false ∧ u.head.nextSlot = 0
          ∧ u.head.history = Dots.white ∧ u.head.current = none ∧ u.head.burn = none
          ∧ u.head.capacity = 4
          ∧ u.head.cutOff = s.head.cutOff ++ (s.head.burn.bind Burn.cutPhase).toList)
      ∧ (x.kind = some .printPage → u.printDec = PrintDecoder.idleDecoder)
      ∧ (x.kind = some .lineReceive ∨ x.kind = some .lineSend →
        u.line = { LinePort.idlePort with txd := s.line.txd })
      ∧ (x.kind = some .hostStore → u.hostIn = HostIn.idleFlow)
      ∧ (x.kind = some .pageHost → u.hostOut = HostOut.idleFlow))
    ∧ (∃ e ∈ u.reports,
        e.report = .ended r x.kind f.outcome f.cause f.unterminated last counts.1 counts.2)
    ∧ (x.page = none → u.pages = s.pages ∧ u.pool.dirQueue = s.pool.dirQueue)
    ∧ (∀ p, x.page = some p →
        let e := s.page p
        let image : List DirItem :=
          if s.pool.dirQueue.any (DirItem.isFreshImage p) then [] else [.image p none false]
        let link : List DirItem :=
          if s.pool.state = .inService ∧ 0 < s.pool.freeCount then
            s.pool.freeTail.toList.map fun t => .link t (BitVec.ofNat 16 e.head)
          else []
        let drops := x.dropAfter = true ∧ f.outcome = .done
        (∀ q, q ≠ p → u.page q = s.page q)
        ∧ (x.isReader = false →
          (∀ c, f.close = some c →
            u.page p = { e with
                state := .closed, bitLength := c.bitLength, lineCount := c.lineCount
                badLines := c.badLines, truncated := e.truncated || c.truncated, owner := none }
              ∧ u.pool.dirQueue = s.pool.dirQueue ++ image)
          ∧ (f.close = none → u.page p = e ∧ u.pool.dirQueue = s.pool.dirQueue))
        ∧ (x.isReader = true →
          (e.readers ≤ 1 → e.state = .dropping ∨ drops →
            u.page p = PageEntry.freeEntry ∧ u.pool.dirQueue = s.pool.dirQueue ++ link ++ image
              ∧ (s.pool.state = .inService → u.pool.freeCount = s.pool.freeCount + e.blockCount)
              ∧ (s.pool.state ≠ .inService → u.pool.stranded = s.pool.stranded + e.blockCount))
          ∧ (1 < e.readers → e.state ≠ .dropping → drops →
            u.page p = { e with state := .dropping, readers := e.readers - 1 }
              ∧ u.pool.dirQueue = s.pool.dirQueue ++ image)
          ∧ ((e.state = .dropping ∧ 1 < e.readers) ∨ (e.state ≠ .dropping ∧ ¬drops) →
            u.page p = { e with readers := e.readers - 1 } ∧ u.pool.dirQueue = s.pool.dirQueue)))
    ∧ u.engines = s.engines.release r
    ∧ (∀ t, (u.table t).binds
        = (s.table t).binds - if t ∈ (s.route r).boundSlots then 1 else 0)
    ∧ ∀ t, { u.table t with binds := 0 } = { s.table t with binds := 0 })
  ∧ ∀ (s : State) (r : RouteNo) (f : Fate), (s.route r).fate = some f →
    (s.endNeed r f ≤ s.dirPlaces →
      exec (.routeEndDeferred r) s = .next ((s.finishRoute r f).react.resume s.power.level))
    ∧ (s.dirPlaces < s.endNeed r f → exec (.routeEndDeferred r) s = .next s)

/-- ROUTE HALT FINISH: an ARMED route ends HALTED at once; a RUNNING or STALLED one goes HALTING, and its kind's
flow is brought to its end; one that is HALTING is left; an IDLE slot has no route; a slot above 3 is BAD-FIELD
(R73, R74). What FINISH does at once for each kind: SCAN-STORE asks for no page and its feed ends, as COPY's
does (R74, R96); PRINT-PAGE fetches and decodes no more, and a line held for want of a slot is discarded (R57);
LINE-SEND fetches no more and sends what its FIFO holds, ending at once where it holds nothing (R144); PAGE-HOST
keeps the words of the DATA report under way, or ends at once; LINE-RECEIVE and HOST-STORE go on to the end their
chapters give (R68, R139). Work that is completed under FINISH ends HALTED (R74). -/
def Obligations.HaltFinishBringsARouteToItsEnd : Prop :=
  (∀ (slot : Byte) (s : State), s.atHead = true →
    (∀ r, asFin 4 slot.toNat = some r →
      ((s.route r).state = .armed → exec (.routeHaltFinish slot) s = .next (s.haltRoute r).react)
      ∧ (((s.route r).state = .running ∨ (s.route r).state = .stalled) →
        exec (.routeHaltFinish slot) s = .next
          ((((s.setRoute r { s.route r with halt := .finish, state := .halting }).putReport
            (.routeHalting r) false).finishKind r).react))
      ∧ ((s.route r).state = .halting → exec (.routeHaltFinish slot) s = .next s)
      ∧ ((s.route r).state = .idle →
        exec (.routeHaltFinish slot) s = .next
          (s.putReport (.refused .routeHalt .noRoute (number slot.toNat)) false)))
    ∧ (3 < slot.toNat →
      exec (.routeHaltFinish slot) s = .next
        (s.putReport (.refused .routeHalt .badField (number slot.toNat)) false)))
  ∧ (∀ (s : State) (r : RouteNo),
    ((s.route r).kind = some .scanStore →
      s.finishKind r
        = { s with coder :=
            { s.coder with writer := { s.coder.writer with opening := false } } }.finishFeed r)
    ∧ ((s.route r).kind = some .copy → s.finishKind r = s.finishFeed r)
    ∧ ((s.route r).kind = some .printPage →
      s.finishKind r
        = { s with printDec := { s.printDec with fetch := Fetch.idle, held := none, told := true } })
    ∧ ((s.route r).kind = some .lineSend →
      (s.line.txFifo = [] → s.finishKind r = s.completeRoute r false none)
      ∧ (s.line.txFifo ≠ [] →
        s.finishKind r = { s with line := { s.line with fetch := Fetch.idle, tx := .sending } }))
    ∧ ((s.route r).kind = some .pageHost →
      (s.dataUnderWay r = none → s.finishKind r = s.completeRoute r false none)
      ∧ ∀ left, s.dataUnderWay r = some left →
        let words := (left + s.hostOut.lowNext.toNat + 1) / 2
        s.finishKind r = { s with hostOut :=
          { s.hostOut with fetch :=
            { s.hostOut.fetch with
              queue := s.hostOut.fetch.queue.take words
              left := min s.hostOut.fetch.left (words - s.hostOut.fetch.queue.length) } } })
    ∧ ((s.route r).kind = some .lineReceive ∨ (s.route r).kind = some .hostStore →
      s.finishKind r = s)
    ∧ (s.scanner.phase = .feedIn → s.finishFeed r = s.setMotor .sf { s.sf with left := 0 })
    ∧ (s.scanner.phase = .lead → s.sf.state = .moving →
      s.finishFeed r
        = { s with scanner := { s.scanner with phase := .eject, lastLine := true } }.setMotor .sf
            { s.sf with motion := .move .eject, left := (s.route r).eject, overrun := false })
    ∧ (s.scanner.phase = .lead ∨ s.scanner.phase = .capture ∨ s.scanner.phase = .trail →
      s.sf.state ≠ .moving → s.finishFeed r = s.beginEject r)
    ∧ (s.scanner.phase = .capture ∨ s.scanner.phase = .trail → s.sf.state = .moving →
      s.finishFeed r = s)
    ∧ (s.scanner.phase = .none ∨ s.scanner.phase = .eject → s.finishFeed r = s)
    ∧ ∀ unterminated close, (s.route r).halt = .finish →
      s.completeRoute r unterminated close
        = s.fixEnd r { outcome := .halted, cause := none, unterminated := false, close := close })

/-- ROUTE HALT NOW ends a live route HALTED in its event, its motors stopping at once; where it holds PRINTER and the
cutter is OUT or BACK it goes HALTING, its flows stopped and its rings emptied, until the cut has ended; a cut without
an owner is waited on too, the model's choice (log entry 50); a route whose outcome is fixed or that waits so is left;
a slot above 3 is BAD-FIELD (R73, R75, R127). The burst in progress of a PRINT-PAGE that waits so stays its own, since
its outcome is open (R72): a link word of it that fails ends it FAILED(MEMORY), as `BurstEndsServeTheirClients` says of
any such burst. The route has stopped RUNNING, so a stutter request that stands meets R154's test and is withdrawn in
the event. A route that is halted with the places at hand ends HALTED: its record is ended (R73, R75, R71). -/
def Obligations.HaltNowEndsARouteAtOnce : Prop :=
  (∀ (slot : Byte) (s : State) (r : RouteNo), s.atHead = true → asFin 4 slot.toNat = some r →
     ((s.route r).live = true → (s.route r).halt ≠ .nowWaiting → (s.route r).state = .armed →
       exec (.routeHaltNow slot) s = .next (s.haltRoute r).react)
     ∧ ((s.route r).live = true → (s.route r).halt ≠ .nowWaiting → (s.route r).state ≠ .armed →
       ((s.route r).usesPrinter && s.cutter.cutting) = false →
       exec (.routeHaltNow slot) s = .next ((s.stopNow r).haltRoute r).react)
     ∧ ((s.route r).live = true → (s.route r).halt ≠ .nowWaiting → (s.route r).state ≠ .armed →
       (s.route r).usesPrinter = true → s.cutter.cutting = true →
       ∃ u : State, exec (.routeHaltNow slot) s = .next u.react
         ∧ u.route r = { s.route r with halt := .nowWaiting, state := .halting }
         ∧ u.cutter = s.cutter ∧ u.engines = s.engines ∧ u.pages = s.pages ∧ u.pool = s.pool
         ∧ u.store = s.store ∧ u.power = s.power
         ∧ (s.engines.printer = some r → s.power.level = some .run → s.power.request = .ordinary →
           u.endStutter = true)
         ∧ ((s.route r).kind = some .printPage →
           u.printDec = { PrintDecoder.idleDecoder with slot := some r })
         ∧ u.head.ready = [] ∧ u.head.current = none ∧ u.head.burn = none
         ∧ (u.motor .pf).state = .idle ∧ (u.motor .pf).motion = .none ∧ (u.motor .pf).timer = none)
     ∧ ((s.route r).halt = .nowWaiting → (s.route r).inUse = true →
       exec (.routeHaltNow slot) s = .next s)
     ∧ ((s.route r).inUse = true → (s.route r).fate ≠ none → exec (.routeHaltNow slot) s = .next s)
     ∧ ((s.route r).state = .idle →
       exec (.routeHaltNow slot) s = .next
         (s.putReport (.refused .routeHalt .noRoute (number slot.toNat)) false)))
  ∧ (∀ (slot : Byte) (s : State), s.atHead = true → 3 < slot.toNat →
     exec (.routeHaltNow slot) s = .next
       (s.putReport (.refused .routeHalt .badField (number slot.toNat)) false))
  ∧ (∀ (s : State) (r : RouteNo) (f : Fate), (s.route r).live = true →
     s.abruptClose r = f.close → f.outcome = .halted → f.cause = none → f.unterminated = false →
     (let stopped := (s.stopFlows r).orphanBurst (s.route r).kind
      stopped.endNeed r f ≤ stopped.dirPlaces) →
     ((s.haltRoute r).route r).state = .idle
       ∧ ((s.haltRoute r).route r).outcome = some .halted
       ∧ ((s.haltRoute r).route r).cause = none
       ∧ (s.haltRoute r).engines = s.engines.release r)

/-- DATA for a HOST-STORE route whose queue has room: its bytes join those placed before, in order, and the flags are
taken. DATA's tests run in this order: BAD-FIELD for a slot above 3, for page bytes other than 1 to 1024, for a line
count flag without the final flag or for another flag; NO-ROUTE where the slot has no HOST-STORE that is RUNNING or
STALLED with its outcome open, or its final DATA has been taken (R68). The route's last line end follows its words
written (R67). After a final DATA, or under FINISH, a waiting half word is padded as the queue has room, and with the
queue written the route completes and its page closes (R68, R74). The line count stands under FINISH too, and a route
whose page has not opened waits for it: the model's choices (log entries 43 and 73). -/
def Obligations.DataBytesJoinTheHostQueue : Prop :=
  (∀ (s : State) (r : RouteNo), s.hostIn.slot = some r →
    let x := s.route r
    let h := s.hostIn
    let t := s.setRoute r { x with lastLineEnd := h.writer.covered.pos }
    (s.hostFlushing = true ↔ h.finalPlaced = true ∨ x.halt = .finish)
    ∧ (x.live = false → s.hostInPass = s)
    ∧ (x.live = true → s.hostFlushing = false → s.hostInPass = t)
    ∧ (x.live = true → s.hostFlushing = true →
      (∀ high, h.half = some high → h.queue.length < 64 →
        s.hostInPass = { t with hostIn :=
          { h with half := none, queue := h.queue ++ [wordOfBytes high 0] } })
      ∧ (h.half ≠ none → 64 ≤ h.queue.length → s.hostInPass = t)
      ∧ (h.half = none → h.queue = [] → x.page ≠ none →
        s.hostInPass = t.completeRoute r false
          (some { truncated := false, bitLength := 8 * h.taken, lineCount := h.lineCount, badLines := 0 }))
      ∧ (h.half = none → h.queue ≠ [] ∨ x.page = none → s.hostInPass = t)))
  ∧ (∀ (slot flags : Byte) (lines : Word) (bytes : List Byte) (s : State) (r : RouteNo),
    s.atHead = true → asFin 4 slot.toNat = some r → s.dataRefusal slot flags bytes.length = none →
    s.hostIn.slot = some r →
    s.hostIn.queue.length + (s.hostIn.half.toList.length + bytes.length) / 2 ≤ 64 →
    ∃ u : State, exec (.data slot flags lines bytes) s = .next u.react
      ∧ u.hostIn.queue.flatMap (fun w => [highByte w, lowByte w]) ++ u.hostIn.half.toList
          = s.hostIn.queue.flatMap (fun w => [highByte w, lowByte w]) ++ s.hostIn.half.toList ++ bytes
      ∧ u.hostIn.taken = s.hostIn.taken + bytes.length
      ∧ u.hostIn.finalTaken = flags.getLsbD 0
      ∧ u.hostIn.finalPlaced = (s.hostIn.finalPlaced || flags.getLsbD 0)
      ∧ u.hostIn.lineCount
          = (if flags.getLsbD 0 && flags.getLsbD 1 then some lines.toNat else none)
      ∧ { u with hostIn := s.hostIn } = s)
  ∧ ∀ (s : State) (slot flags : Byte) (n : Nat),
    (3 < slot.toNat → s.dataRefusal slot flags n = some .badField)
    ∧ ∀ r, asFin 4 slot.toNat = some r →
      (n = 0 ∨ 1024 < n ∨ (flags.getLsbD 1 = true ∧ flags.getLsbD 0 = false) ∨ 3 < flags.toNat →
        s.dataRefusal slot flags n = some .badField)
      ∧ (0 < n → n ≤ 1024 → (flags.getLsbD 1 = true → flags.getLsbD 0 = true) → flags.toNat ≤ 3 →
        ((s.route r).kind ≠ some .hostStore ∨ (s.route r).fate ≠ none
            ∨ ((s.route r).state ≠ .running ∧ (s.route r).state ≠ .stalled)
            ∨ s.hostIn.finalTaken = true →
          s.dataRefusal slot flags n = some .noRoute)
        ∧ ((s.route r).kind = some .hostStore → (s.route r).fate = none →
          (s.route r).state = .running ∨ (s.route r).state = .stalled → s.hostIn.finalTaken = false →
          s.dataRefusal slot flags n = none))

/-- An accepted MOVE restarts its motor from rest: index 0, the next phase in its direction, R[0] on the step
timer, full current, the slot bound (R116, R123, R124). A motor without a motion claim holds no run-down's copy.
CUT starts the cutter from IDLE, for the order, by its HOME level (R130, R132); with PRINTER claimed or a CUT
under way it is refused ENGINE-BUSY, and with COVER open or the cutter in FAULT, ENGINE-FAULT. A cut whose route
has ended goes on without an owner, and a CUT takes it over: the model's choice (log entry 50). That the first step
counts as taken as it begins is the model's reading (log entry 31). MOVE's tests run in this order: BAD-FIELD,
ENGINE-BUSY where a route claims the motor's engine or a motion claim is held, ENGINE-FAULT with COVER open,
TABLE-NOT-READY, TABLE-KIND (R124). -/
def Obligations.MovesAndCutsStartTheirMotions : Prop :=
  (∀ (b : MoveBody) (s : State) (m : MotorName) (t : TableNo), s.atHead = true →
    motorOf b.motor = some m → asFin 16 b.slot.toNat = some t → s.moveRefusal b = none →
    (s.motor m).copy = none →
    exec (.move b) s = .next
      ({ s with tables := s.tables.set t { s.table t with binds := (s.table t).binds + 1 } }.setMotor m
        { s.motor m with
          state := .moving, index := 0
          phase := if b.direction = 1 then ((s.motor m).phase + 7) % 8 else ((s.motor m).phase + 1) % 8
          motion := .move .order, left := b.steps.toNat - 1, taken := 1, back := b.direction == 1
          overrun := false, stretched := false
          timer := some (s.now + (rampOf (s.table t).storage).periods.getD 0 0)
          hold := .driven, holdTimer := none, claim := some .move, slot := some t
          top := b.top.toNat }))
  ∧ (∀ (b : MoveBody) (s : State),
    (1 < b.motor.toNat ∨ b.steps = 0 ∨ 1 < b.direction.toNat ∨ 15 < b.slot.toNat ∨ 127 < b.top.toNat →
      s.moveRefusal b = some .badField)
    ∧ ∀ (m : MotorName) (t : TableNo), motorOf b.motor = some m → b.steps ≠ 0 → b.direction.toNat ≤ 1 →
      asFin 16 b.slot.toNat = some t → b.top.toNat ≤ 127 →
      (s.motorRoute m ≠ none ∨ (s.motor m).claim ≠ none → s.moveRefusal b = some .engineBusy)
      ∧ (s.motorRoute m = none → (s.motor m).claim = none →
        (s.pins.coverOpen = true → s.moveRefusal b = some .engineFault)
        ∧ (s.pins.coverOpen = false →
          ((s.table t).state ≠ .ready → s.moveRefusal b = some .tableNotReady)
          ∧ ((s.table t).state = .ready →
            s.moveRefusal b = if (s.table t).kind = some .ramp then none else some .tableKind))))
  ∧ ∀ s : State, s.atHead = true →
    (s.engines.printer = none → s.cutter.owner ≠ some .order → s.pins.coverOpen = false →
      (s.cutter.state = .idle →
        exec .cut s = .next { s with cutter :=
          { state := if s.pins.home then .out else .back
            timer := some (s.now + 1000 * s.setup.cutter), owner := some .order } })
      ∧ (s.cutter.cutting = true → s.cutter.owner = none →
        exec .cut s = .next { s with cutter := { s.cutter with owner := some .order } }))
    ∧ ((s.engines.printer ≠ none ∨ s.cutter.owner = some .order) →
      exec .cut s = .next (s.putReport (.refused .cut .engineBusy []) false))
    ∧ (s.engines.printer = none → s.cutter.owner ≠ some .order →
      (s.pins.coverOpen = true ∨ s.cutter.state = .fault) →
      exec .cut s = .next (s.putReport (.refused .cut .engineFault []) false))

/-- LEVEL RUN sets the stutter enable, and clear it withdraws Power Control's request, ending an entry, whose final row
is then no final row, or starting the exit from self-refresh (R38, R39, R146, R154); its DOZE options are BAD-FIELD.
LEVEL DOZE with no route in use, the pool in service, no motion in hand and WAKE deasserted. The head supply and the
holds are turned off and the directory write queue drains; where it is empty and the store idle, DOZE is entered in the
event (R126, R146, R147). LEVEL's tests run in this order: BAD-FIELD for another level or an option that is not the
level's; for DOZE, LEVEL with a route in use but one ARMED LINE-RECEIVE alone, BUSY out of service, MOTION with a motor
not IDLE, a motion claim on one, or a cut under way (R146). A stutter request is placed at RUN, enabled, with none
standing, a print or copy running or under FINISH, the print ring full, a print's input queue full, and the store ON,
without a request waiting or a burst; it is withdrawn once the enable is clear or no print runs (R153, R154). That the
queue counts as full with no page word left to fetch, under FINISH too, is the model's choice (log entry 75). A request
waits on where WAKING must end first: its reading (log entry 36). -/
def Obligations.LevelOrdersRunAndDoze : Prop :=
  (∀ s : State,
     (s.printing = true ↔ ∃ r, s.engines.printer = some r ∧ (s.route r).fate = none
       ∧ ((s.route r).state = .running ∨ ((s.route r).state = .halting ∧ (s.route r).halt = .finish)))
     ∧ (s.mayStutter = true ↔
       s.power.level = some .run ∧ s.power.stutter = true ∧ s.power.request = .none
         ∧ s.store.state = .on ∧ s.store.burst = none ∧ s.requestWaits = false
         ∧ s.head.ready.length = s.head.capacity ∧ s.printing = true
         ∧ ∃ r, s.engines.printer = some r
           ∧ ((s.route r).kind = some .copy ∨ 16 ≤ s.printDec.fetch.queue.length
             ∨ s.printDec.fetch.left = 0))
     ∧ (s.endStutter = true ↔ s.power.level = some .run ∧ s.power.request = .ordinary
       ∧ (s.power.stutter = false ∨ s.printing = false))
     ∧ (s.mayStutter = true →
       s.powerPass = { s with
         power := { s.power with request := .ordinary }
         store := { s.store with state := .entering, request := .ordinary } }.entryAdvance)
     ∧ (s.endStutter = true → s.store.state ≠ .selfRefresh ∨ s.urgentWaits = false →
       s.powerPass = s.withdrawOrdinary.entryAdvance)
     ∧ (s.store.state = .selfRefresh → s.store.request ≠ .retain → s.urgentWaits = true →
       s.powerPass = { s with store :=
         { s.store with state := .waking, request := .none, wakeTimer := some (s.now + 200) } }))
  ∧ (∀ s : State, s.atHead = true →
     (s.power.request ≠ .ordinary ∨ s.store.request ≠ .ordinary →
       exec (.levelRun 0) s = .next { s with power := { s.power with stutter := false } })
     ∧ (s.power.request = .ordinary → s.store.request = .ordinary → s.store.state = .entering →
       exec (.levelRun 0) s = .next
         { s with
           power := { s.power with stutter := false, request := .none }
           store :=
             { s.store with
               state := .on, request := .none, burst := s.store.burst.map Burst.notFinal } })
     ∧ (s.power.request = .ordinary → s.store.request = .ordinary → s.store.state = .selfRefresh →
       exec (.levelRun 0) s = .next
         { s with
           power := { s.power with stutter := false }
           store :=
             { s.store with
               state := .waking, request := .none, wakeTimer := some (s.now + 200) } })
     ∧ exec (.levelRun 4) s = .next { s with power := { s.power with stutter := true } }.powerPass
     ∧ ∀ options : Byte, (options.getLsbD 0 || options.getLsbD 1 || decide (7 < options.toNat)) = true →
       exec (.levelRun options) s = .next (s.putReport (.refused .level .badField [0]) false))
  ∧ (∀ (s : State) (level options : Byte),
     (1 < level.toNat ∨ 7 < options.toNat ∨ (level = 1 ∧ options.getLsbD 2 = true)
         ∨ (level = 0 ∧ (options.getLsbD 0 = true ∨ options.getLsbD 1 = true)) →
       s.levelRefusal level options = some .badField)
     ∧ (options.getLsbD 0 = false → options.getLsbD 1 = false → options.toNat ≤ 7 →
       s.levelRefusal 0 options = none)
     ∧ (options.toNat ≤ 3 →
       let lone := s.routesInUse.length ≤ 1
         ∧ ∀ r ∈ s.routesInUse, (s.route r).kind = some .lineReceive ∧ (s.route r).state = .armed
       let motion := s.pf.state ≠ .idle ∨ s.sf.state ≠ .idle ∨ s.pf.claim ≠ none ∨ s.sf.claim ≠ none
         ∨ s.cutter.cutting = true
       (¬lone → s.levelRefusal 1 options = some .level)
       ∧ (lone → s.pool.state ≠ .inService → s.levelRefusal 1 options = some .busy)
       ∧ (lone → s.pool.state = .inService → motion → s.levelRefusal 1 options = some .motion)
       ∧ (lone → s.pool.state = .inService → ¬motion → s.levelRefusal 1 options = none)))
  ∧ (∀ (options : Byte) (s : State), s.atHead = true → options.toNat ≤ 3 → s.routesInUse = [] →
     s.pool.state = .inService → s.pf.state = .idle → s.sf.state = .idle → s.pf.claim = none →
     s.sf.claim = none → s.cutter.cutting = false → s.pins.wake = false → s.power.request = .none →
     let off : State :=
       { s with
         head := { s.head with supply := .off, settleTimer := none, burn := none, cutOff := [] }
         pf := { s.pf with hold := .off, holdTimer := none }
         sf := { s.sf with hold := .off, holdTimer := none }
         power :=
           { s.power with
             quietReceive := options.getLsbD 0, quietErrors := options.getLsbD 1, wakeFirst := none
             wakeSet := [], level := some .enteringDoze, step := .drain, drivesOff := true } }
     (s.pool.dirQueue ≠ [] → exec (.levelDoze options) s = .next off)
     ∧ (s.pool.dirQueue = [] → s.store.state = .on → s.store.burst = none → s.store.backlog = 0 →
       s.urgentWaits = false →
       exec (.levelDoze options) s = .next
         { off with
           head := { off.head with sampleTimer := none }
           store :=
             { s.store with
               state := .selfRefresh, request := .ordinary, backlog := 0, refreshTimer := none
               scrubTimer := none }
           power :=
             { off.power with
               level := some .doze, step := .none, request := .ordinary, asleep := true } }))

/-- The fields of a motor in the ANSWER to QUERY LEVEL (R133): its state, index, phase, hold state, hold time
remaining in ms, and whether a motion claim is held. -/
def Sys2Proof.Machine.motorFields (m : Motor) (now : Nat) : List (List Byte) :=
  [namedByte [.idle, .moving, .waitData, .waitCool, .waitPaper, .waitRoom] (some m.state)
  , number m.index, number m.phase, namedByte [.driven, .hold, .off] (some m.hold)
  , number ((m.holdTimer.getD now - now) / 1000), flagByte m.claim.isSome]

/-- Each QUERY queues an ANSWER with its subject, its argument and its fields as they stand, while no ANSWER
waits; the error log is emptied in the event of its own; an argument out of range is BAD-FIELD (R180, R32). The fields
stand in the order in which the subject's rule lists them: a page's by R1, a route's with the claims and the fault
states by R60 and R63, the pool's by R22, the log's by R31 and R32, a table's by R168, the level's by R145 and R133.
MARK queues its value at the back of the Report Queue, behind every report queued before it, while no MARK report waits
there (R181). The model's choices in it: the argument is given back as one byte (log entry 58); the level is numbered by
R145's list (log entry 48); the watermark and the scrub interval are SETUP's, also before they take effect (log entries
49 and 63); the wake set is six flags (log entry 8); a form test is numbered by its place (log entry 9); an error's
class is numbered by R31 (log entry 72); a slot never started has no kind (log entry 65). Read from the spec by
inference is the layout of an empty log, a recorded failure, a motion claim, the hold time in whole ms and PAPER's
level (log entry 16). -/
def Obligations.QueriesAndMarksAreAnsweredInOrder : Prop :=
  (∀ s : State, s.atHead = true → s.holdsKind 0x8B = false →
     (∀ p : PageNo, exec (.queryPage (BitVec.ofNat 8 p)) s = .next
       (s.putReport (.answer (0 :: BitVec.ofNat 8 p :: (s.page p).answer)) false))
     ∧ (∀ r : RouteNo, exec (.queryRoute (BitVec.ofNat 8 r)) s = .next
       (s.putReport (.answer (1 :: BitVec.ofNat 8 r :: ((s.route r).answer ++ s.claimAnswer))) false))
     ∧ exec (.queryPool 0) s = .next (s.putReport (.answer (2 :: 0 :: s.poolAnswer)) false)
     ∧ exec (.queryLog 0) s = .next
       { s.putReport (.answer (3 :: 0 :: s.logAnswer)) false with
         store := { s.store with log := none } }
     ∧ (∀ t : TableNo, exec (.queryTable (BitVec.ofNat 8 t)) s = .next
       (s.putReport (.answer (4 :: BitVec.ofNat 8 t :: (s.table t).answer)) false))
     ∧ exec (.queryLevel 0) s = .next (s.putReport (.answer (5 :: 0 :: s.levelAnswer)) false)
     ∧ (∀ x : Byte, 31 < x.toNat → exec (.queryPage x) s = .next
       (s.putReport (.refused .query .badField [0]) false))
     ∧ (∀ x : Byte, 3 < x.toNat → exec (.queryRoute x) s = .next
       (s.putReport (.refused .query .badField [1]) false))
     ∧ (∀ x : Byte, 15 < x.toNat → exec (.queryTable x) s = .next
       (s.putReport (.refused .query .badField [4]) false))
     ∧ ∀ x : Byte, x ≠ 0 →
       exec (.queryPool x) s = .next (s.putReport (.refused .query .badField [2]) false)
       ∧ exec (.queryLog x) s = .next (s.putReport (.refused .query .badField [3]) false)
       ∧ exec (.queryLevel x) s = .next (s.putReport (.refused .query .badField [5]) false))
  ∧ (∀ e : PageEntry, e.answer = List.flatten
    [namedByte [.free, .opened, .closed, .dropping] (some e.state)
    , namedByte [.scan, .line, .host] (some e.origin), number e.pitch, number e.codeSlot
    , number e.head, number e.tail, number e.blockCount, position e.bitLength, numberOpt e.lineCount
    , number e.badLines, flagByte e.truncated, flagByte e.damaged, number e.readers
    , numberOpt (e.owner.map Fin.val)])
  ∧ (∀ x : Route, x.answer = List.flatten
    [namedByte [.scanStore, .copy, .printPage, .lineReceive, .lineSend, .hostStore, .pageHost] x.kind
    , namedByte [.idle, .armed, .running, .stalled, .halting] (some x.state)
    , numberOpt (x.page.map Fin.val), numberOpt (x.code.map Fin.val), numberOpt (x.heat.map Fin.val)
    , numberOpt (x.pfRamp.map Fin.val), numberOpt (x.sfRamp.map Fin.val)
    , numberOpt (x.shade.map Fin.val), flagByte x.continues, flagByte x.dropAfter, flagByte x.cutAfter
    , number x.top, number x.pitch, number x.linesDone, number x.badLines, number x.consecBad
    , number x.badLimit, number x.overPhases, number x.skipped, number x.remainder, number x.minBits
    , number x.carrierMs, number x.jam, number x.lead, number x.eject, number x.tail, number x.trail
    , number x.maxLines, position x.lastLineEnd, namedByte [.done, .halted, .failed] x.outcome
    , namedByte [.noPage, .poolOut, .carrier, .jam, .paper, .cover, .memory, .cutter] x.cause
    , flagByte x.unterminated])
  ∧ (∀ s : State,
    let slot (x : Option RouteNo) : List Byte := numberOpt (x.map Fin.val)
    let claim : Option MotionClaim → List Byte := namedByte [.move, .cut, .runDown]
    s.claimAnswer = List.flatten
      [slot s.engines.scanner, slot s.engines.coder, slot s.engines.printer, slot s.engines.decoder
      , slot s.engines.line, slot s.engines.hostIn, slot s.engines.hostOut, claim s.pf.claim
      , claim s.sf.claim, claim s.cutter.claim, flagByte s.engines.scannerFault
      , flagByte s.engines.printerFault]
    ∧ s.poolAnswer = List.flatten
      [namedByte [.inService, .rebuilding, .clearing] (some s.pool.state), number s.pool.freeCount
      , number s.pool.spare.length, number s.pool.stranded, number s.available
      , number (s.route 0).remainder, number (s.route 1).remainder, number (s.route 2).remainder
      , number (s.route 3).remainder, number s.setup.lowMark
      , namedByte [.none, .low, .out] (some s.pool.alert), number s.pool.dirQueue.length]
    ∧ (s.store.log = none → s.logAnswer
      = List.replicate 8 0xFF ++ number s.store.scrubPos ++ number s.setup.scrub)
    ∧ (∀ x, s.store.log = some x → s.logAnswer = List.flatten
      [namedByte [.corrected, .uncorrectable] (some x.cls), number x.block, number x.offset
      , number x.syndrome
      , namedByte [.lineTx, .printFetch, .directory, .hostOut, .scrub, .boot] (some x.client)
      , number s.store.scrubPos, number s.setup.scrub])
    ∧ s.levelAnswer = List.flatten
      ([namedByte [.run, .enteringDoze, .doze, .waking, .dozeRx, .enteringRetain, .retain] s.power.level
      , flagByte s.power.stutter, flagByte s.power.quietReceive, flagByte s.power.quietErrors
      , namedByte [.stream, .wake, .docIn, .cover, .error, .line] s.power.wakeFirst
      , [.stream, .wake, .docIn, .cover, .error, .line].flatMap fun c =>
          flagByte (s.power.wakeSet.contains c)
      , namedByte [.none, .ordinary, .retain] (some s.power.request)
      , namedByte [.init, .on, .entering, .selfRefresh, .waking] (some s.store.state)
      , number s.setup.watermark, number s.head.theta.toNat, number s.head.volts.toNat
      , namedByte [.off, .settling, .settled] (some s.head.supply)]
      ++ motorFields s.pf s.now ++ motorFields s.sf s.now
      ++ [namedByte [.idle, .out, .back, .fault] (some s.cutter.state), flagByte s.pins.home
        , flagByte (!s.pins.paperOut)]))
  ∧ (∀ x : TableSlot, x.answer = List.flatten
    [namedByte [.code, .heat, .ramp, .shade] x.kind
    , namedByte [.empty, .loading, .ready, .bad] (some x.state), number x.length, number x.check
    , number x.binds
    , (match x.failure with
      | none => [0xFF, 0xFF, 0xFF]
      | some .check => [0, 0xFF, 0xFF]
      | some (.form test) => 1 :: number test)])
  ∧ (∀ (value : Word) (s : State), s.atHead = true → s.holdsKind 0x8C = false →
     exec (.mark value) s = .next
       { s with reports := s.reports ++ [{ report := .mark value, count := 1, withheld := false }] })

/-- CLEAR SCANNER and CLEAR PRINTER end an engine fault, the cutter's with PRINTER's, and are refused ENGINE-FAULT
while COVER is open; CLEAR POOL strands what is free and begins the rebuild, everything else as it was: REBUILDING is
reported, and LOW where the fall of availability puts the alert to it (R17, R19); that LOW follows REBUILDING is the
model's reading (log entry 78), that it is queued from NONE alone its choice (log entry 41). It is refused BUSY out of
service and SLOT-BUSY while a writer is in use (R19, R80). -/
def Obligations.ClearsEndTheirFaults : Prop :=
  ∀ s : State, s.atHead = true →
    (s.pins.coverOpen = false →
      exec .clearScanner s = .next { s with engines := { s.engines with scannerFault := false } }
      ∧ exec .clearPrinter s = .next
        { s with
          engines := { s.engines with printerFault := false }
          cutter := { s.cutter with
            state := if s.cutter.state = .fault then .idle else s.cutter.state } })
    ∧ (s.pins.coverOpen = true →
      exec .clearScanner s = .next (s.putReport (.refused .clear .engineFault [0]) false)
      ∧ exec .clearPrinter s = .next (s.putReport (.refused .clear .engineFault [1]) false))
    ∧ (s.pool.state = .inService → (∀ r ∈ s.routesInUse, (s.route r).isWriter = false) →
      let low := 0 < s.available ∧ 0 < s.setup.lowMark ∧ s.setup.lowMark ≤ s.available
        ∧ s.pool.alert = .none
      let told := enqueue .poolRebuilding false s.reports
      exec .clearPool s = .next
        ({ s with
          reports := if low then enqueue .poolLow false told else told
          pool :=
            { s.pool with
              state := .rebuilding
              stranded := s.pool.stranded + s.pool.freeCount + s.pool.spare.length
              freeCount := 0, freeHead := none, freeTail := none, spare := []
              rebuild := some { at_ := .entry 0, marks := [], joined := [] }
              alert := if low then .low else s.pool.alert } }).react)
    ∧ (s.pool.state ≠ .inService →
      exec .clearPool s = .next (s.putReport (.refused .clear .busy [2]) false))
    ∧ (s.pool.state = .inService → (∃ r ∈ s.routesInUse, (s.route r).isWriter = true) →
      exec .clearPool s = .next (s.putReport (.refused .clear .slotBusy [2]) false))

/-- An order refused at its taking queues its REFUSED report, with its cause and its first body field, and changes
nothing else (R177). A HOST-STORE's start is tested once two places of the directory write queue are free (R178). An
order whose body has a length its row does not allow is refused BAD-FIELD, unless it is held (R177, R178). When each
test answers a cause, and in which order, is said by `SetupSetsItsValues`, `RouteStartPutsItsRouteInUse`,
`DataBytesJoinTheHostQueue`, `MovesAndCutsStartTheirMotions` and `LevelOrdersRunAndDoze`. The first field of a body
collected is two bytes for a number, one for a named set, none for CUT (R175; log entry 16), and all ones where the body
does not reach it: the model's choice (log entry 40). -/
def Obligations.RefusedOrdersChangeNothingElse : Prop :=
  ∀ (s : State) (c : Refused), s.atHead = true →
    (∀ b, s.setupRefusal b false = some c →
      exec (.setup b) s = .next (s.putReport (.refused .setup c (number b.geometry.toNat)) false))
    ∧ (∀ b, (routeKindOf b.kind = some .hostStore → s.pool.dirQueue.length + 2 ≤ 16) →
      s.startRefusal b = some c →
      exec (.routeStart b) s = .next (s.putReport (.refused .routeStart c (number b.slot.toNat)) false))
    ∧ (∀ slot flags lines bytes, bytes.length ≤ 1036 →
      s.dataRefusal slot flags bytes.length = some c →
      exec (.data slot flags lines bytes) s = .next
        (s.putReport (.refused .data c (number slot.toNat)) false))
    ∧ (∀ b, s.moveRefusal b = some c →
      exec (.move b) s = .next (s.putReport (.refused .move c [b.motor]) false))
    ∧ (∀ options, s.levelRefusal 1 options = some c →
      exec (.levelDoze options) s = .next (s.putReport (.refused .level c [1]) false))
    ∧ (∀ k body, k ≠ .imageEnd → k.bodyLength ≠ some body.length → s.orderHeld k body = false →
      s.takeOrder k body = some (s.putReport (.refused k .badField (firstField k body)) false))
    ∧ (∀ k body, firstField k body =
      match k with
      | .cut | .malformed => []
      | .setup | .mark | .imageEnd =>
        (match body with | a :: b :: _ => [a, b] | _ => [0xFF, 0xFF])
      | .move | .level | .query | .clear => (match body with | a :: _ => [a] | [] => [0xFF])
      | .tableLoad | .tableDrop | .pageDrop | .routeStart | .routeHalt | .data =>
        (match body with | a :: _ => [a, 0] | [] => [0xFF, 0xFF]))
    ∧ ∀ check, exec (.imageEnd check) s = .next
      (s.putReport (.refused .imageEnd .notInBoot (number check.toNat)) false)

/-! ## The stream port and the boot ROM (chapters 10 and 12) -/

/-- In HEAD a RESYNC is a no-op; a header of unknown kind or excessive length sends the parser into HUNT with a REFUSED
report that carries it; in HUNT each byte is discarded and matched against the sequence (R176). HUNT ends at the byte
that first completes 7Eh 81h 7Eh 81h among the bytes discarded, and at no other (R176). That the report's cause is
BAD-FIELD is the model's choice (log entry 17). A header that begins with 7Eh is RESYNC's where the bytes 81h, 7Eh and
81h follow, a no-op, and at any other byte among them is malformed (R176). The length reported then is a free value
after the first of them, and the two header bytes after it at the others: the model's choice (log entry 17). -/
def Obligations.MalformedHeadersLeadToHunt : Prop :=
  (∀ (b : Byte) (s : State), s.power.level = some .run → s.parser.source = .port →
    s.parser.state = .head →
    let hunts (length : Word) : Option State := some
      ({ s with parser := { Parser.start with source := .port, state := .hunt } }.putReport
        (.refused .malformed .badField (0x7E :: le16 length.toNat)) false)
    (s.parser.header = [] → s.takeByte b = some { s with parser := { s.parser with header := [b] } })
    ∧ (s.parser.header = [0x7E] →
      s.takeByte b
        = if b = 0x81 then some { s with parser := { s.parser with header := [0x7E, 0x81] } }
          else hunts (Config.halfLength b))
    ∧ (s.parser.header = [0x7E, 0x81] →
      s.takeByte b
        = if b = 0x7E then some { s with parser := { s.parser with header := [0x7E, 0x81, 0x7E] } }
          else hunts (wordOfBytes b 0x81))
    ∧ (s.parser.header = [0x7E, 0x81, 0x7E] →
      s.takeByte b
        = if b = 0x81 then some { s with parser := { Parser.start with source := .port } }
          else hunts 0x7E81))
  ∧ (∀ s : State,
    (s.atHead = true → exec .resync s = .next s)
    ∧ (∀ (kind : Byte) (length : Word), s.atHead = true → kind ≠ 0x7E →
      (OrderKind.ofByte kind = none ∨ 1040 < length.toNat) →
      exec (.malformed kind length) s = .next
        ({ s with parser := { Parser.start with source := .port, state := .hunt } }.putReport
          (.refused .malformed .badField (kind :: le16 length.toNat)) false))
    ∧ ∀ b : Byte, s.parser.state = .hunt → s.power.level = some .run → s.port.inFifo = [] →
      (huntMatched s.parser.matched b = 4 →
        exec (.hunt b) s = .next
          { s with parser := { Parser.start with source := s.parser.source } })
      ∧ (huntMatched s.parser.matched b ≠ 4 →
        exec (.hunt b) s = .next
          { s with parser := { s.parser with matched := huntMatched s.parser.matched b } }))
  ∧ ∀ bytes : List Byte,
    (bytes.foldl (fun m b => if m = 4 then 4 else huntMatched m b) 0 = 4)
      ↔ [0x7E, 0x81, 0x7E, 0x81] <:+: bytes

/-- A byte written while inbound ready is raised joins the FIFO. At RUN, at the start of a record, the parser takes it
at once as the kind byte; short of RUN it stays, and is the wake cause STREAM. With ready lowered no byte is taken
(R148, R176, R178). A stall that ends lets the parser take the byte that waits; one that does not leaves it in the FIFO
(R178). The byte that ends an order's body is held while the order is: a QUERY while an ANSWER waits, a MARK while a
MARK report does, a start of HOST-STORE while fewer than two places are free, a PAGE DROP past its tests for want of
its places; once it is not, the order is taken with its tests made then (R9, R178, R180, R181). A byte of DATA is held
while it would complete a word with the HOST-IN queue full (R68, R178). A header of a known kind and a length up to
1040 leads to BODY, or at once to its order for a length of 0; each body byte joins the body, RESYNC's bytes too, and
with the last the order is taken (R176, R177). An order whose body is complete has the effect of its command at the
start of a record: SETUP, TABLE DROP, ROUTE HALT, MOVE, CUT, LEVEL and CLEAR (R177). The bodies of SETUP, MOVE and
ROUTE START are laid out as R175 gives them. -/
def Obligations.InboundBytesReachTheParser : Prop :=
  (∀ (s : State) (k : OrderKind) (body : List Byte),
    let now (c : Instr) (t : State) : Prop :=
      s.takeOrder k body = some t ∧ (s.atHead = true → exec c s = .next t)
    (k = .setup → body.length = 10 → s.takeOrder k body = some (s.takeSetup (setupOf body) false))
    ∧ (∀ b, k = .setup → body = setupBytes b → now (.setup b) (s.takeSetup b false))
    ∧ (∀ x, k = .tableDrop → body = [x] → now (.tableDrop x) (s.takeTableDrop x))
    ∧ (∀ x, k = .routeHalt → body = [x, 0] → now (.routeHaltFinish x) (s.takeHalt x 0))
    ∧ (∀ x, k = .routeHalt → body = [x, 1] → now (.routeHaltNow x) (s.takeHalt x 1))
    ∧ (∀ b, k = .move → body = moveBytes b → now (.move b) (s.takeMove b))
    ∧ (k = .cut → body = [] → now .cut s.takeCut)
    ∧ (∀ o, k = .level → body = [0, o] → now (.levelRun o) (s.takeLevel 0 o))
    ∧ (∀ o, k = .level → body = [1, o] → now (.levelDoze o) (s.takeLevel 1 o))
    ∧ (k = .clear → body = [0] → now .clearScanner (s.takeClear 0))
    ∧ (k = .clear → body = [1] → now .clearPrinter (s.takeClear 1))
    ∧ (k = .clear → body = [2] → now .clearPool (s.takeClear 2))
    ∧ (∀ x m : Byte, k = .routeHalt → body = [x, m] → 1 < m.toNat →
      s.takeOrder k body = some (s.queueReport (.refused .routeHalt .badField (number x.toNat))))
    ∧ (∀ l o : Byte, k = .level → body = [l, o] → 1 < l.toNat →
      s.takeOrder k body = some (s.queueReport (.refused .level .badField [l])))
    ∧ ∀ x : Byte, k = .clear → body = [x] → 2 < x.toNat →
      s.takeOrder k body = some (s.queueReport (.refused .clear .badField [x])))
  ∧ ((∀ b : SetupBody,
      let bytes := [lowByte b.geometry, highByte b.geometry, b.refresh, b.scrub, lowByte b.lowMark,
        highByte b.lowMark, b.lamp, b.settle, b.cutter, b.watermark]
      setupOf bytes = b ∧ setupBytes b = bytes)
    ∧ (∀ b : MoveBody,
      let bytes := [b.motor, lowByte b.steps, highByte b.steps, b.direction, b.slot, b.top]
      moveOf bytes = b ∧ moveBytes b = bytes)
    ∧ ∀ b : StartBody,
      let bytes := [b.slot, b.kind, b.options, b.pitch, b.top, b.code, b.heat, b.pfRamp, b.sfRamp
        , b.shade, b.page, lowByte b.reservation, highByte b.reservation, lowByte b.badLimit
        , highByte b.badLimit, lowByte b.minBits, highByte b.minBits, b.carrier, lowByte b.jam
        , highByte b.jam, lowByte b.lead, highByte b.lead, lowByte b.trail, highByte b.trail
        , lowByte b.eject, highByte b.eject, lowByte b.tail, highByte b.tail, lowByte b.maxLines
        , highByte b.maxLines]
      startOf bytes = b ∧ startBytes b = bytes)
  ∧ (∀ (b : Byte) (s : State), s.power.level = some .run → s.parser.source = .port →
    (∀ kind, s.parser.state = .head → s.parser.header = [kind] → kind ≠ 0x7E →
      s.takeByte b = some { s with parser := { s.parser with header := [kind, b] } })
    ∧ (∀ kind low k, s.parser.state = .head → s.parser.header = [kind, low] →
      OrderKind.ofByte kind = some k →
      let n := wordOfBytes b low
      (n.toNat = 0 → s.takeByte b = s.parserHead.takeOrder k [])
      ∧ (0 < n.toNat → n.toNat ≤ 1040 →
        s.takeByte b = some { s with parser :=
          { s.parser with
            state := .body, header := [], kind := kind, length := n.toNat, body := [], taken := 0
            use := .collect } }))
    ∧ ∀ k, s.parser.state = .body → s.parser.use = .collect → OrderKind.ofByte s.parser.kind = some k →
      s.parser.taken + 1 < s.parser.length →
      (k ≠ .tableLoad ∧ k ≠ .data) ∨ s.parser.body.length ≠ 3 →
      s.takeByte b = some { s with parser :=
        { s.parser with body := s.parser.body ++ [b], taken := s.parser.taken + 1 } })
  ∧ (∀ (b : Byte) (s : State),
    (s.atHead = true →
      exec (.inboundByte b) s = .next { s with parser := { s.parser with header := [b] } }.react)
    ∧ (s.inboundReady = true → s.parser.source = .port → s.power.level ≠ some .run →
      exec (.inboundByte b) s = .next
        ((({ s with port := { s.port with inFifo := s.port.inFifo ++ [b] } }.takeWake
          .stream).react).resume s.power.level))
    ∧ (s.inboundReady = false → exec (.inboundByte b) s = .next s)
    ∧ (s.parser.source = .port → s.power.level ≠ some .run → exec .stallEnd s = .next s.react)
    ∧ ∀ rest, s.port.inFifo = b :: rest →
      let u : State := { s with port := { s.port with inFifo := rest } }
      (u.takeByte b = none → exec .stallEnd s = .next s.react)
      ∧ ∀ t, u.takeByte b = some t → t.port.inFifo = [] → exec .stallEnd s = .next t.react)
  ∧ (∀ (b : Byte) (s : State), s.power.level = some .run → s.parser.source = .port →
    (s.parser.state = .head → s.parser.header = [] →
      s.takeByte b = some { s with parser := { s.parser with header := [b] } })
    ∧ (s.parser.state = .body →
      (∀ k, s.parser.use = .collect → OrderKind.ofByte s.parser.kind = some k → k ≠ .tableLoad →
        k ≠ .data → s.parser.length = s.parser.taken + 1 →
        s.takeByte b = s.parserHead.takeOrder k (s.parser.body ++ [b]))
      ∧ ∀ r final, s.parser.use = .place r final → s.hostIn.slot = some r → (s.route r).live = true →
        (∀ high, s.hostIn.half = some high → 64 ≤ s.hostIn.queue.length → s.takeByte b = none)
        ∧ (s.parser.taken + 1 < s.parser.length →
          (s.hostIn.half = none →
            s.takeByte b = some
              { s with
                hostIn := { s.hostIn with half := some b, taken := s.hostIn.taken + 1 }
                parser := { s.parser with taken := s.parser.taken + 1 } })
          ∧ ∀ high, s.hostIn.half = some high → s.hostIn.queue.length < 64 →
            s.takeByte b = some
              { s with
                hostIn :=
                  { s.hostIn with
                    half := none, queue := s.hostIn.queue ++ [wordOfBytes high b]
                    taken := s.hostIn.taken + 1 }
                parser := { s.parser with taken := s.parser.taken + 1 } })))
  ∧ ∀ (s : State) (k : OrderKind) (body : List Byte),
    (s.orderHeld k body = true ↔
      (k = .query ∧ s.holdsKind 0x8B = true) ∨ (k = .mark ∧ s.holdsKind 0x8C = true)
        ∨ (k = .routeStart ∧ (∃ b, body[1]? = some b ∧ routeKindOf b = some .hostStore)
          ∧ 16 < s.pool.dirQueue.length + 2))
    ∧ (k ≠ .imageEnd → s.orderHeld k body = true → s.takeOrder k body = none)
    ∧ (s.orderHeld k body = false →
      (∀ x y, k = .query → body = [x, y] → s.takeOrder k body = s.takeQuery x y)
      ∧ (∀ x y, k = .mark → body = [x, y] → s.takeOrder k body = s.takeMark (le x y))
      ∧ (k = .routeStart → body.length = 30 → s.takeOrder k body = s.takeStart (startOf body))
      ∧ ∀ x, k = .pageDrop → body = [x] → s.takeOrder k body = s.takePageDrop x)
    ∧ ∀ (x : Byte) (p : PageNo), asFin 32 x.toNat = some p → s.dropPageRefusal x = none →
      (s.takePageDrop x = none ↔
        s.dirPlaces < if (s.page p).readers = 0 then s.freeNeed p else s.imageNeed p)

/-- Every record of the report is laid out so: kind, length of the body in two bytes, low byte first, then subject,
event, count and fields (R175). -/
def Sys2Proof.Machine.Report.LaidOut (x : Report) (kind subject event : Nat) (fields : List (List Byte)) : Prop :=
  ∀ (count : Nat) (withheld : Bool),
    let body := BitVec.ofNat 8 subject :: BitVec.ofNat 8 event :: BitVec.ofNat 8 count :: fields.flatten
    ({ report := x, count := count, withheld := withheld } : QueueEntry).record
      = BitVec.ofNat 8 kind :: BitVec.ofNat 8 body.length :: BitVec.ofNat 8 (body.length / 256) :: body

/-- At a record boundary the oldest report that is not withheld leaves the queue, and its record's bytes follow
those of the outbound FIFO; its last byte's entry is RECORD_COMPLETE's. With no such report a PAGE-HOST route begins a
DATA report, of at most 256 of the page bytes left, with the final flag where they are all (R69, R183); its page bytes
follow those of the header in page order, each word's high byte first, bits at or beyond the bit length sent as zeros
(R69). The last byte of the final DATA report completes the route, and so does that of the one under way at a FINISH
(R69, R74); a report of a route that has ended is completed with zero bytes (R69). The host reads the FIFO's bytes
oldest first (R182, R183); that the byte read stands in the model's state is its choice (log entry 4), and so is that
a read of an empty FIFO leaves the state (log entry 13). A report's record is its kind, its length, its subject, event
and count, and its fields in the order of the rule that raises it; a number is two bytes, low byte first, and a position
four (R175, R177, R182). The model's choices in it: what a number above 65535 shows (log entry 7), the wake set as six
flags (log entry 8), the numbers of the form tests (log entry 9), of an error's class (log entry 72) and of the ROM
results (log entry 74). Read from the spec by inference are a TABLE report's outcome as its event, CLOSED's one flag,
the sensors' levels and a DATA report's slot in two bytes (log entry 16). -/
def Obligations.ReportsLeaveAsRecords : Prop :=
  (∀ (s : State) (front back : List QueueEntry) (e : QueueEntry), s.port.record = none →
    s.mayBegin = true → s.reports = front ++ e :: back → (∀ y ∈ front, y.withheld = true) →
    e.withheld = false →
    ∃ (t : State) (bytes : List Byte), exec .reportRecordBegin s = .next t
      ∧ t.port.record = some { bytes := bytes, data := none } ∧ 1 ≤ bytes.length
      ∧ t.port.outFifo ++ bytes = s.port.outFifo ++ e.record
      ∧ t.reports = front ++ back ∧ { t with port := s.port, reports := s.reports } = s)
  ∧ (∀ (s : State) (b : Byte), s.port.record = some { bytes := [b], data := none } →
    s.muxRuns = true → s.port.outFifo.length < 64 →
    exec .recordComplete s = .next
      { s with port := { s.port with outFifo := s.port.outFifo ++ [b], record := none } }.react)
  ∧ (∀ (s : State) (b : Byte) (rest : List Byte), s.port.outFifo = b :: rest →
    ∃ t : State, exec .outboundRead s = .next t ∧ t.port.lastRead = some b
      ∧ rest <+: t.port.outFifo ∧ (s.port.record = none → t.port.outFifo = rest))
  ∧ (∀ s : State, s.port.outFifo = [] → exec .outboundRead s = .next s)
  ∧ (∀ (s : State) (r : RouteNo), s.port.record = none → s.mayBegin = true →
    (∀ e ∈ s.reports, e.withheld = true) → s.hostOut.slot = some r → (s.route r).live = true →
    (s.route r).halt = .none → s.hostOut.finalBegun = false → s.hostOut.sent = s.hostOut.begun →
    let left := (s.hostOut.bitLength + 7) / 8 - s.hostOut.begun
    let n := min 256 left
    let stream := ((s.hostOut.fetch.queue.flatMap fun w => [highByte w, lowByte w]).drop
      s.hostOut.lowNext.toNat).mapIdx fun i b => maskByte s.hostOut.bitLength (s.hostOut.sent + i) b
    ∃ (t : State) (bytes : List Byte) (k : Nat), exec .reportRecordBegin s = .next t
      ∧ (let d : DataOut := { slot := r, left := n - k, final := n == left, cutShort := false }
        t.port.record = some { bytes := bytes, data := some d })
      ∧ t.hostOut.begun = s.hostOut.begun + n ∧ t.hostOut.finalBegun = (n == left)
      ∧ k ≤ n ∧ k ≤ stream.length ∧ t.hostOut.sent = s.hostOut.sent + k ∧ (0 < k → bytes = [])
      ∧ t.port.outFifo ++ bytes
        = s.port.outFifo ++ recordBytes 0x8D (n + 3) (number r.val ++ flagByte (n == left))
          ++ stream.take k
      ∧ { t with port := s.port, hostOut := s.hostOut } = s)
  ∧ (∀ (s : State) (d : DataOut) (w : Word) (rest : List Word),
    s.port.record = some { bytes := [], data := some d } → d.left = 1 → s.muxRuns = true →
    s.port.outFifo.length < 64 →
    let put (b : Byte) : Port := { s.port with outFifo := s.port.outFifo ++ [b], record := none }
    (d.cutShort = true → exec .recordComplete s = .next { s with port := put 0 }.react)
    ∧ (d.cutShort = false → s.heldByDamage d.slot = false → s.hostOut.fetch.queue = w :: rest →
      let h := s.hostOut
      let byte := maskByte h.bitLength h.sent (if h.lowNext then lowByte w else highByte w)
      let gone : Bool := h.lowNext || h.sent + 1 == (h.bitLength + 7) / 8
      let u : State :=
        { s with
          port := put byte
          hostOut :=
            { h with
              lowNext := !h.lowNext, sent := h.sent + 1
              fetch := { h.fetch with queue := if gone then rest else w :: rest } } }
      exec .recordComplete s = .next
        (if d.final = true ∨ (s.route d.slot).halt = .finish then
          (u.completeRoute d.slot false none).react
        else u.react)))
  ∧ (∀ (s : State) (d : DataOut) (b : Byte),
    s.port.record = some { bytes := [b], data := some d } → d.left = 0 → d.final = true →
    d.cutShort = false → s.muxRuns = true → s.port.outFifo.length < 64 →
    exec .recordComplete s = .next
      ({ s with port :=
        { s.port with
          outFifo := s.port.outFifo ++ [b], record := none } }.completeRoute d.slot false none).react)
  ∧ (∀ (bitLength sent : Nat) (b : Byte),
    bitsOfByte (maskByte bitLength sent b)
      = (bitsOfByte b).mapIdx fun i x => x && decide (8 * sent + i < bitLength))
  ∧ (∀ n : Nat,
    (n ≤ 65535 → number n = [BitVec.ofNat 8 n, BitVec.ofNat 8 (n / 256)]) ∧ (number n).length = 2
    ∧ numberOpt (some n) = number n
    ∧ position n = [BitVec.ofNat 8 n, BitVec.ofNat 8 (n / 256), BitVec.ofNat 8 (n / 65536)
      , BitVec.ofNat 8 (n / 16777216)]
    ∧ ∀ (kind : Nat) (body : List Byte), recordBytes kind n body
      = BitVec.ofNat 8 kind :: BitVec.ofNat 8 n :: BitVec.ofNat 8 (n / 256) :: body)
  ∧ numberOpt none = [0xFF, 0xFF] ∧ flagByte false = [0] ∧ flagByte true = [1]
  ∧ (∀ (k : OrderKind) (c : Refused) (fields : List Byte), (Report.refused k c fields).LaidOut 0x81
    ([.malformed, .setup, .tableLoad, .tableDrop, .pageDrop, .routeStart, .routeHalt, .data, .move, .cut
      , .level, .query, .mark, .clear, .imageEnd].idxOf k)
    ([.badField, .notInBoot, .bootOnly, .slotBusy, .engineBusy, .engineFault, .noPaper, .tableNotReady
      , .tableKind, .noRoom, .tableBound, .pageState, .pagesPresent, .level, .motion, .noRoute
      , .busy].idxOf c + 1) [fields])
  ∧ (∀ r : RouteNo,
    (Report.routeArmed r).LaidOut 0x82 r 1 [] ∧ (Report.routeRunning r).LaidOut 0x82 r 2 []
    ∧ (Report.routeStalled r).LaidOut 0x82 r 3 [] ∧ (Report.routeHalting r).LaidOut 0x82 r 4 []
    ∧ (∀ page lines, (Report.pageDone r page lines).LaidOut 0x82 r 5
      [numberOpt (page.map Fin.val), number lines])
    ∧ (∀ kind outcome cause mark page lines bad,
      (Report.ended r kind outcome cause mark page lines bad).LaidOut 0x82 r 6
        [namedByte [.scanStore, .copy, .printPage, .lineReceive, .lineSend, .hostStore, .pageHost] kind
        , namedByte [.done, .halted, .failed] (some outcome)
        , namedByte [.noPage, .poolOut, .carrier, .jam, .paper, .cover, .memory, .cutter] cause
        , flagByte mark, numberOpt (page.map Fin.val), number lines, number bad])
    ∧ (∀ n, (Report.overrun r n).LaidOut 0x82 r 7 [number n])
    ∧ (∀ n, (Report.underrun r n).LaidOut 0x82 r 8 [number n])
    ∧ (∀ bad consecutive,
      (Report.badLines r bad consecutive).LaidOut 0x82 r 9 [number bad, number consecutive]))
  ∧ (∀ p : PageNo,
    (Report.pageOpened p).LaidOut 0x83 p 1 []
    ∧ (∀ truncated, (Report.pageClosed p truncated).LaidOut 0x83 p 2 [flagByte truncated])
    ∧ (Report.pageDamaged p).LaidOut 0x83 p 3 [] ∧ (Report.pageDropping p).LaidOut 0x83 p 4 []
    ∧ (Report.pageFreed p).LaidOut 0x83 p 5 [])
  ∧ Report.poolLow.LaidOut 0x84 0 1 [] ∧ Report.poolOut.LaidOut 0x84 0 2 []
  ∧ Report.poolOk.LaidOut 0x84 0 3 [] ∧ Report.poolStranded.LaidOut 0x84 0 4 []
  ∧ Report.poolRebuilding.LaidOut 0x84 0 5 []
  ∧ (∀ free, (Report.poolRebuilt free).LaidOut 0x84 0 6 [number free])
  ∧ (∀ free, (Report.poolCleared free).LaidOut 0x84 0 7 [number free])
  ∧ (∀ x : LogRecord, (Report.memory x).LaidOut 0x85 0 1
    [namedByte [.corrected, .uncorrectable] (some x.cls), number x.block, number x.offset
    , number x.syndrome
    , namedByte [.lineTx, .printFetch, .directory, .hostOut, .scrub, .boot] (some x.client)])
  ∧ (∀ (r : RouteNo) index burn,
    (Report.stretch r index burn).LaidOut 0x86 0 1 [number r, number index, number burn])
  ∧ (∀ m steps cutShort, (Report.moved m steps cutShort).LaidOut 0x86
    (match m with | .pf => 0 | .sf => 1) 2 [number steps, flagByte cutShort])
  ∧ (∀ (r : RouteNo) n, (Report.skip r n).LaidOut 0x86 1 3 [number r, number n])
  ∧ Report.cutDone.LaidOut 0x86 2 4 []
  ∧ (∀ r, (Report.cutTimeout r).LaidOut 0x86 2 5 [numberOpt (r.map Fin.val)])
  ∧ (∀ x, (Report.cutStopped x).LaidOut 0x86 2 6 [namedByte [.idle, .out, .back, .fault] (some x)])
  ∧ (∀ first causes abandoned, (Report.levelRun first causes abandoned).LaidOut 0x87 0 1
    [namedByte [.stream, .wake, .docIn, .cover, .error, .line] first
    , [.stream, .wake, .docIn, .cover, .error, .line].flatMap fun c => flagByte (causes.contains c)
    , flagByte abandoned])
  ∧ Report.levelRetain.LaidOut 0x87 0 2 []
  ∧ (∀ x level, (Report.sensor x level).LaidOut 0x88 ([.cover, .paper, .docIn, .docEdge].idxOf x) 1
    [flagByte level])
  ∧ (∀ warm reason rom kept discarded free ready,
    (Report.boot warm reason rom kept discarded free ready).LaidOut 0x89 0 1
      [[if warm then 1 else 0]
      , namedByte [.flag, .headerError, .signature, .geometry, .marker] reason
      , namedByte [.good, .absent, .bad] (some rom), number kept, number discarded, number free
      , number ready])
  ∧ (∀ (t : TableNo) kind sum,
    let fields := [number t, namedByte [.code, .heat, .ramp, .shade] (some kind), number sum]
    (Report.tableReady t kind sum).LaidOut 0x8A 0 1 fields
    ∧ (Report.tableCheck t kind sum).LaidOut 0x8A 0 2 fields
    ∧ ∀ test, (Report.tableForm t kind sum test).LaidOut 0x8A 0 3 (fields ++ [number test]))
  ∧ ∀ (count : Nat) (withheld : Bool),
    (∀ body, ({ report := .answer body, count := count, withheld := withheld } : QueueEntry).record
      = 0x8B :: BitVec.ofNat 8 body.length :: BitVec.ofNat 8 (body.length / 256) :: body)
    ∧ ∀ value : Word, ({ report := .mark value, count := count, withheld := withheld } : QueueEntry).record
      = [0x8C, 2, 0, lowByte value, highByte value]

/-- The boot ROM's first byte: FFh is no image, 01h begins the SETUP, any other is a framing fault, found at that byte:
the model's reading (log entry 19). END with the image sum ends replay GOOD, with another BAD, which empties the slots
replay named and returns every SETUP value to its default; the boot is then cold with the retained flag clear, and
reads the header with it set (R159 to R161). Each further byte is added to the image sum, up to END's kind byte, and
framed as bytes from the port are (R159, R160, R176). SETUP is taken with its geometry, and refused BAD-FIELD changes
nothing; TABLE LOAD is taken as outside boot, its slot joining the loaded set, its data stored byte by byte, its load
ending as `TableLoadsEndByTheirTests` says; RESYNC is a no-op; every other known kind is refused NOT-IN-BOOT, whatever
its length, the model's reading (log entry 18), its body skipped, and replay goes on (R159, R170, R177). A record of
unknown kind, a length above 1040, an END whose length is not 2, and the byte of address 65535 with no END taken are
framing faults (R160), and so is a RESYNC with a wrong byte (R176). That the read position stands at 65536 after the
byte of address 65535 is the model's choice (log entry 46). -/
def Obligations.ReplayEndsWithItsOutcome : Prop :=
  ∀ s : State, s.replaying = true →
    let ended (outcome : RomOutcome) (pos : Nat) (sum : Word) (u : State) : State :=
      { u with
        parser := Parser.start
        boot :=
          if u.boot.retained then
            { u.boot with
              romPos := pos, imageSum := sum, romOutcome := some outcome, task := .readHeader }
          else
            { u.boot with
              romPos := pos, imageSum := sum, romOutcome := some outcome, state := .coldClear
              warm := some false, coldReason := some .flag, task := .clear 0 } }
    let undo (u : State) : State :=
      { u with
        tables := u.tables.mapIdx fun i x =>
          if u.boot.loaded.any fun t => t.val == i then TableSlot.emptySlot else x
        setup := Setup.default
        store := { u.store with geometry := 1024 } }
    let bad (u : State) : State := ended .bad u.boot.romPos u.boot.imageSum (undo u)
    (∀ b : Byte, s.parser.source = .rom → 0 < s.boot.romPos →
      let u : State :=
        { s with
          boot :=
            { s.boot with
              romPos := s.boot.romPos + 1
              imageSum :=
                if s.parser.inEnd b then s.boot.imageSum else s.boot.imageSum + b.setWidth 16 } }
      let p := s.parser
      let v : State := { u with parser := { Parser.start with source := .rom } }
      let read (t : State) : Prop :=
        exec (.romByte b) s = .next (if t.replaying = true ∧ s.boot.romPos = 65535 then bad t else t)
      let joined : State := { u with parser := { p with header := p.header ++ [b] } }
      let counted (w : State) : State :=
        if p.length ≤ p.taken + 1 then { w with parser := { Parser.start with source := .rom } }
        else { w with parser := { w.parser with taken := p.taken + 1 } }
      let refused (k : OrderKind) (c : Refused) (body : List Byte) : State :=
        v.queueReport (.refused k c (firstField k body))
      let replayed (k : OrderKind) (body : List Byte) (t : State) : Prop :=
        (k = .setup → body.length = 10 →
          let x := setupOf body
          (setupInRange x = true →
            t = { v with
              setup := setupValues x
              store :=
                { v.store with
                  geometry := x.geometry.toNat
                  scrubTimer := if x.scrub.toNat = 0 then none else v.store.scrubTimer
                  scrubWaiting := if x.scrub.toNat = 0 then false else v.store.scrubWaiting } })
          ∧ (setupInRange x = false → t = refused .setup .badField body))
        ∧ (k = .setup → body.length ≠ 10 → t = refused .setup .badField body)
        ∧ (k = .tableLoad → t = refused .tableLoad .badField body)
        ∧ (∀ x y, k = .imageEnd → body = [x, y] →
          t = if wordOfBytes y x = s.boot.imageSum then ended .good v.boot.romPos v.boot.imageSum v
            else bad v)
        ∧ (k ≠ .setup → k ≠ .tableLoad → k ≠ .imageEnd → t = refused k .notInBoot body)
      (p.state = .head →
        (p.header = [] → read joined)
        ∧ (∀ kind, p.header = [kind] → kind ≠ 0x7E → read joined)
        ∧ (∀ kind low, p.header = [kind, low] → kind ≠ 0x7E →
          let n := wordOfBytes b low
          (OrderKind.ofByte kind = none ∨ 1040 < n.toNat ∨ (kind = 0x0E ∧ n ≠ 2) → read (bad u))
          ∧ ∀ k, OrderKind.ofByte kind = some k → n.toNat ≤ 1040 → (kind = 0x0E → n = 2) →
            (n = 0 → ∃ t, read t ∧ replayed k [] t)
            ∧ (n ≠ 0 →
              read { u with parser :=
                { p with
                  state := .body, header := [], kind := kind, length := n.toNat, body := [], taken := 0
                  use := .collect } }))
        ∧ (p.header = [0x7E] → read (if b = 0x81 then joined else bad u))
        ∧ (p.header = [0x7E, 0x81] → read (if b = 0x7E then joined else bad u))
        ∧ (p.header = [0x7E, 0x81, 0x7E] → read (if b = 0x81 then v else bad u)))
      ∧ (p.state = .body → p.use = .collect → ∀ k, OrderKind.ofByte p.kind = some k →
        (k ≠ .tableLoad ∧ k ≠ .data ∨ p.body.length ≠ 3 →
          (p.taken + 1 < p.length →
            read { u with parser := { p with body := p.body ++ [b], taken := p.taken + 1 } })
          ∧ (p.taken + 1 = p.length → ∃ t, read t ∧ replayed k (p.body ++ [b]) t))
        ∧ ∀ x y z, p.body = [x, y, z] → 4 ≤ p.length →
          let n := p.length - 4
          let follow (w : State) (use : BodyUse) : State :=
            if n = 0 then { w with parser := { Parser.start with source := .rom } }
            else { w with parser := { w.parser with body := [], taken := 4, use := use } }
          (k = .data → read (follow (u.queueReport (.refused .data .notInBoot (number x.toNat))) .skip))
          ∧ (k = .tableLoad →
            (∀ c, u.loadRefusal x y n = some c →
              read (follow (u.queueReport (.refused .tableLoad c (number x.toNat))) .skip))
            ∧ ∀ t kind, u.loadRefusal x y n = none → asFin 16 x.toNat = some t → tableKindOf y = some kind →
              let w : State :=
                { u with
                  tables := u.tables.set t
                    { u.table t with
                      kind := some kind, state := .loading, length := 0, check := 0, storage := []
                      failure := none }
                  boot :=
                    { u.boot with
                      loaded := if t ∈ u.boot.loaded then u.boot.loaded else u.boot.loaded ++ [t] } }
              read (if n = 0 then (follow w .skip).endLoad t (wordOfBytes b z)
                else follow w (.load t (wordOfBytes b z)))))
      ∧ (p.state = .body → p.use = .skip → read (counted u))
      ∧ (∀ t check, p.state = .body → p.use = .load t check →
        let w : State :=
          { u with tables := u.tables.set t { u.table t with storage := (u.table t).storage ++ [b] } }
        read (if p.length ≤ p.taken + 1 then (counted w).endLoad t check else counted w))
      ∧ ∀ (w : State) (t : TableNo) (check : Word) (kind : TableKind), (w.table t).kind = some kind →
        let all := (w.table t).storage
        let failure := loadFailure kind all check.toNat
        w.endLoad t check = { w with
          tables := w.tables.set t
            { w.table t with
              length := all.length, check := check.toNat, failure := failure
              state := if failure = none then .ready else .bad } }.queueReport
          (match failure with
            | none => .tableReady t kind (byteSum all)
            | some .check => .tableCheck t kind (byteSum all)
            | some (.form i) => .tableForm t kind (byteSum all) i))
    ∧ (s.boot.romPos = 0 → exec (.romByte 0xFF) s = .next (ended .absent 1 s.boot.imageSum s))
    ∧ (∀ b : Byte, s.boot.romPos = 0 → b ≠ 0xFF → b ≠ 0x01 →
      exec (.romByte b) s = .next (ended .bad 1
        (if s.parser.inEnd b then s.boot.imageSum else s.boot.imageSum + b.setWidth 16) (undo s)))
    ∧ (s.boot.romPos = 0 → s.parser.source = .rom → s.parser.state = .head → s.parser.header = [] →
      exec (.romByte 0x01) s = .next
        { s with
          parser := { s.parser with header := [0x01] }
          boot := { s.boot with romPos := 1, imageSum := s.boot.imageSum + 1 } })
    ∧ (s.replayHead = true →
      exec (.imageEnd s.boot.imageSum) s = .next (ended .good (s.boot.romPos + 5) s.boot.imageSum s))
    ∧ ∀ check : Word, s.replayHead = true → check ≠ s.boot.imageSum →
      exec (.imageEnd check) s = .next (ended .bad (s.boot.romPos + 5) s.boot.imageSum (undo s))

/-- The header of the page store decides between warm and cold, for the first reason that holds (R161). A directory
image is discarded, FREE or walked by R162's table, a CLOSED one out of form being discarded, and the image of a CLOSED
page that has no reader is in form and gives the page back. A walk begins by the test of its head block, whose mark
discards the entry, and ends by keeping its entry and marking its blocks, or by discarding it (R162). The warm rebuild
leaves every unmarked data block on the free list, lowest first, no block spare or stranded and the alert NONE (R163).
The cold clear writes every word and leaves every page FREE and every data block free (R164); the warm rebuild and the
cold clear lead on to RELEASE. PFAIL in each boot state from MEMORY-START to RELEASE leads to FAIL-SAFE: it waits for
ON in MEMORY-START, for the LIVE header in RELEASE, and else asks for self-refresh at once (R166); in HOLD, which it
prolongs, and in FAIL-SAFE it changes the level of the pin alone (R158). That FAIL-SAFE sets the retained flag at the
end of its CLEAN header burst is the model's choice (log entry 71). The end of RELEASE's LIVE header burst leads to
READY at level RUN, host-hold released, the parser at PORT, and both engines in FAULT where COVER is open (R165). That
a sweep with no unmarked block ends at once is the model's choice (log entry 47). -/
def Obligations.BootGoesWarmColdOrFailSafe : Prop :=
  (∀ (n : Nat) (a b c d : ReadWord), let xs := [a, b, c, d]
    ((∃ x ∈ xs, x.cls = some .uncorrectable) → coldReasonOf n xs = some .headerError)
    ∧ ((∀ x ∈ xs, x.cls ≠ some .uncorrectable) →
      (a.data ≠ 0x4C4A ∨ b.data ≠ 0x3420 → coldReasonOf n xs = some .signature)
      ∧ (a.data = 0x4C4A → b.data = 0x3420 →
        (c.data.toNat ≠ n → coldReasonOf n xs = some .geometry)
        ∧ (c.data.toNat = n → coldReasonOf n xs = if d.data = 0xC1EA then none else some .marker))))
  ∧ (∀ (s : State) (xs : List ReadWord) (o : Bool) (g : Option PageNo), s.boot.task = .readHeader →
    s.deliver { kind := .bootHeader, orphan := o, page := g } xs
      = { s with boot :=
          match coldReasonOf s.store.geometry xs with
          | some reason =>
            { s.boot with
              state := .coldClear, warm := some false, coldReason := some reason, task := .clear 0 }
          | none =>
            { s.boot with
              state := .warmRebuild, warm := some true, coldReason := none
              task := .readImage 0 none false } })
  ∧ (∀ (s : State) (words : List Word) (spoilt : Bool),
    let w (i : Nat) : Nat := (words.getD i 0).toNat
    (spoilt = true ∨ wordSum (words.take 15) ≠ w 15 → s.classify words spoilt = .discarded)
    ∧ (spoilt = false → wordSum (words.take 15) = w 15 →
      (w 0 = 0 → s.classify words spoilt = .free)
      ∧ (w 0 = 2 →
        let data (b : Nat) : Prop := 16 ≤ b ∧ b < s.store.geometry
        let inForm := w 1 ≤ 2 ∧ 1 ≤ w 2 ∧ w 2 ≤ 3 ∧ w 3 ≤ 15 ∧ data (w 4) ∧ data (w 5) ∧ 1 ≤ w 6
          ∧ w 6 ≤ s.store.geometry - 16 ∧ w 7 + 65536 * w 8 ≤ w 6 * 8192 ∧ w 10 ≤ 1 ∧ w 12 ≤ 3
          ∧ w 13 = 0 ∧ w 14 = 0
        (inForm → s.classify words spoilt = .walked (entryOfImage w))
        ∧ (¬inForm → s.classify words spoilt = .discarded))
      ∧ (w 0 ≠ 0 → w 0 ≠ 2 → s.classify words spoilt = .discarded)))
  ∧ (∀ (s : State) (e : PageEntry), s.store.geometry ≤ 4096 → e.state = .closed → e.readers = 0 →
    e.owner = none → 1 ≤ e.pitch → e.pitch ≤ 3 → e.codeSlot ≤ 15 → s.isData e.head = true →
    s.isData e.tail = true → 1 ≤ e.blockCount → e.blockCount ≤ s.dataBlocks →
    e.bitLength ≤ e.blockCount * 8192 → (∀ n ∈ e.lineCount, n ≤ 65535) → e.badLines ≤ 65535 →
    s.classify e.image false = .walked e)
  ∧ (∀ (s : State) (page : Nat) (first : List Word) (spoilt : Bool) (xs : List ReadWord) (e : PageEntry),
    let u := s.imageRead page (some first) spoilt xs
    let bad := spoilt || xs.any fun x => x.cls = some .uncorrectable
    (s.classify (first ++ xs.map ReadWord.data) bad = .discarded → u = s.discard page)
    ∧ (s.classify (first ++ xs.map ReadWord.data) bad = .free → u = s.nextImage page)
    ∧ (s.classify (first ++ xs.map ReadWord.data) bad = .walked e →
      (e.head ∈ s.boot.marks → u = s.discard page)
      ∧ (e.head ∉ s.boot.marks →
        u = { s with boot :=
          { s.boot with task := .walk page e e.head e.blockCount [e.head] } })))
  ∧ (∀ (s : State) (p : PageNo) (e : PageEntry) (block left : Nat) (own : List Nat) (x : ReadWord),
    let u := s.bootLinkRead p.val e block left own x
    let v := x.data.toNat
    (x.cls = some .uncorrectable ∨ (left ≤ 1 ∧ (block ≠ e.tail ∨ v ≠ 0xFFFF))
        ∨ (1 < left ∧ (s.isData v = false ∨ v ∈ own ∨ v ∈ s.boot.marks)) →
      u = s.discard p.val ∧ u.boot.dropList = s.boot.dropList ++ [p.val] ∧ u.pages = s.pages
        ∧ u.boot.marks = s.boot.marks)
    ∧ (x.cls ≠ some .uncorrectable → 1 < left → s.isData v = true → v ∉ own → v ∉ s.boot.marks →
      u = { s with boot := { s.boot with task := .walk p.val e v (left - 1) (own ++ [v]) } })
    ∧ (x.cls ≠ some .uncorrectable → left ≤ 1 → block = e.tail → v = 0xFFFF →
      u.pages = s.pages.set p e ∧ u.boot.marks = s.boot.marks ++ own
        ∧ u.boot.dropList = s.boot.dropList))
  ∧ (∀ s : State, s.boot.marks.Nodup → (∀ b ∈ s.boot.marks, s.isData b = true) →
    let u := s.warmEnd
    u.pool.freeCount + s.boot.marks.length = s.dataBlocks ∧ u.pool.spare = [] ∧ u.pool.stranded = 0
    ∧ u.pool.alert = .none ∧ u.pool.state = .inService ∧ u.boot.state = .release
    ∧ (∀ b, s.isData b = true → b ∉ s.boot.marks →
      (∃ h ∈ u.pool.freeHead, h ≤ b ∧ h ∉ s.boot.marks ∧ s.isData h = true)
      ∧ ∃ t ∈ u.pool.freeTail, b ≤ t ∧ t ∉ s.boot.marks ∧ s.isData t = true)
    ∧ (∀ b, (∀ n, b ≤ n → n < s.store.geometry → n ∈ s.boot.marks) → s.sweepFrom b = u)
    ∧ ∀ b n, b ≤ n → n < s.store.geometry → n ∉ s.boot.marks →
      (∀ k, b ≤ k → k < n → k ∈ s.boot.marks) →
      s.sweepFrom b = { s with boot := { s.boot with task := .sweep n } }
        ∧ (1 ≤ b → sweepWord s.boot.marks s.store.geometry (b - 1) = BitVec.ofNat 16 n))
  ∧ (∀ (s : State) (a n : Nat), s.boot.task = .clear a →
    (a + n < s.store.geometry * 512 →
      s.bootWritten n = { s with boot := { s.boot with task := .clear (a + n) } })
    ∧ (s.store.geometry * 512 ≤ a + n →
      let u := s.bootWritten n
      (∀ p, u.page p = PageEntry.freeEntry) ∧ u.store.scrubPos = 0 ∧ u.boot.state = .release
        ∧ u.boot.task = .releaseHeader
        ∧ u.pool.freeHead = some 16 ∧ u.pool.freeTail = some (s.store.geometry - 1)
        ∧ u.pool.freeCount = s.dataBlocks ∧ u.pool.spare = [] ∧ u.pool.stranded = 0
        ∧ u.pool.alert = .none))
  ∧ (∀ geometry b : Nat, 16 ≤ b → b < geometry →
    clearWord geometry (1024 + b) = if b + 1 = geometry then 0xFFFF else BitVec.ofNat 16 (b + 1))
  ∧ ∀ s : State, let pins : Pins := { s.pins with pfail := true }
    (s.boot.state = .memoryStart → exec .pfailAssert s = .next
      { s with
        pins := pins, boot := { s.boot with state := .failSafe, hostHold := true, task := .failOn } })
    ∧ (s.boot.state = .release → exec .pfailAssert s = .next
      { s with
        pins := pins, boot := { s.boot with state := .failSafe, hostHold := true, task := .failLive } })
    ∧ (s.boot.state = .romReplay ∨ s.boot.state = .warmRebuild ∨ s.boot.state = .coldClear →
      s.store.state = .on →
      (s.store.burst ≠ none → exec .pfailAssert s = .next
        { s with
          pins := pins, store := { s.store with state := .entering, request := .retain }
          boot := { s.boot with state := .failSafe, hostHold := true, task := .none } })
      ∧ (s.store.burst = none → s.store.backlog = 0 → s.power.level = none →
        exec .pfailAssert s = .next
          { s with
            pins := pins
            store :=
              { s.store with
                state := .selfRefresh, request := .retain, backlog := 0, refreshTimer := none
                scrubTimer := none }
            boot := { s.boot with state := .failSafe, hostHold := true, task := .none } }))
    ∧ (s.boot.state = .hold ∨ s.boot.state = .failSafe →
      exec .pfailAssert s = .next { s with pins := pins })
    ∧ (s.boot.state = .release → ∀ ws o g,
      let u := s.endBurst { kind := .header .release ws, orphan := o, page := g } []
      u.boot.state = .ready ∧ u.boot.hostHold = false ∧ u.boot.retained = false
        ∧ u.power.level = some .run ∧ u.parser.source = .port ∧ u.parser.state = .head
        ∧ u.engines.scannerFault = s.pins.coverOpen ∧ u.engines.printerFault = s.pins.coverOpen)
    ∧ (s.boot.state = .failSafe → ∀ ws o g,
      (s.endBurst { kind := .header .release ws, orphan := o, page := g } []).boot
          = { s.boot with task := .failClean }
        ∧ (s.endBurst { kind := .header .failSafe ws, orphan := o, page := g } []).boot
          = { s.boot with task := .none, retained := true })

/-! ## The page store (chapter 2) -/

/-- With no burst in progress the arbiter grants the request that R26's order puts first, and what the grant changes at
once is changed; with none waiting, or a burst in progress, nothing is granted. A backlog of 7 or more comes before
every other request, in INIT a row is granted while one is left, and in SELF-REFRESH and WAKING nothing is (R26, R28,
R37). A burst's end is delivered and followed up, and the next grant is made in the event; with no burst in progress
nothing happens, the model's choice (log entry 13). A grant outside the store is the model's one fault (log entry 24).
Where the event wakes the part to RUN the parser resumes (R149). A refresh row lowers the backlog at its grant (R28). A
directory image is composed at the grant of its first burst, of the fields the entry then has, with its check word (R2,
R25; that an absent line count is written 0 is the model's choice, log entry 62), a header at its own (R24). The
clients ask: the directory write queue for its oldest item (R21), a refill and a rebuild walk for a link word that no
write waits for (R13, R19; log entry 52), each writer for k = min(8, w) words, or what is left at its end (R48, R68,
R137), each reader for k = min(8, w, u) or the link word (R56), none while its page's DAMAGED flag waits for a place
(R21). In ENTERING urgent requests are granted, refresh among them in its place, and under a retain request none; with
no urgent request waiting the final row is granted, and at its end, or at a backlog of 0, SELF-REFRESH is entered (R38,
R41). -/
def Obligations.GrantsFollowThePriority : Prop :=
  (∀ (s : State) (b : BurstKind),
     let slot (x : Reader) : Option RouteNo :=
       match x with
       | .print => s.printDec.slot
       | .line => s.line.slot
       | .host => s.hostOut.slot
     let page : Option PageNo :=
       match b with
       | .fetchWords x _ _ | .fetchLink x _ => (slot x).bind fun r => (s.route r).page
       | _ => none
     let u : State := { s with store :=
       { s.store with burst := some { kind := b, orphan := false, page := page } } }
     (∀ final, b = .refreshRow final →
       s.granted b = { u with store := { u.store with backlog := s.store.backlog - 1 } })
     ∧ (b = .scrub → s.granted b = { u with store := { u.store with scrubWaiting := false } })
     ∧ (∀ p ws half rest, b = .dirImage p false ws → s.pool.dirQueue = .image p none half :: rest →
       s.granted b
         = { u with pool :=
           { s.pool with dirQueue := .image p (some (s.page p).image) half :: rest } })
     ∧ ((∀ final, b ≠ .refreshRow final) → b ≠ .scrub → (∀ p ws, b ≠ .dirImage p false ws) →
       s.granted b = u))
  ∧ (∀ e : PageEntry,
     let body : List Word :=
       ([[PageState.free, .opened, .closed, .dropping].idxOf e.state,
         [Origin.scan, .line, .host].idxOf e.origin, e.pitch, e.codeSlot, e.head, e.tail, e.blockCount,
         e.bitLength % 65536, e.bitLength / 65536, e.lineCount.getD 0, if e.lineCount = none then 0 else 1,
         e.badLines, (if e.truncated = true then 1 else 0) + (if e.damaged = true then 2 else 0), 0, 0] :
           List Nat).map (BitVec.ofNat 16)
     e.image = body ++ [BitVec.ofNat 16 (body.map BitVec.toNat).sum])
  ∧ (∀ s : State,
     s.dirSources = [s.dirBurst, s.refillBurst, s.walkBurst, s.bootBurst].filterMap id
     ∧ (s.pool.dirQueue = [] → s.dirBurst = none)
     ∧ (∀ b v rest, s.pool.dirQueue = .link b v :: rest → s.dirBurst = some (.dirLink b v))
     ∧ (∀ p words rest, s.pool.dirQueue = .image p words false :: rest →
       s.dirBurst = some (.dirImage p false ((words.getD (s.page p).image).take 8)))
     ∧ (∀ p words rest, s.pool.dirQueue = .image p words true :: rest →
       s.dirBurst = some (.dirImage p true ((words.getD (s.page p).image).drop 8)))
     ∧ (let words (marker : Word) : List Word := [0x4C4A, 0x3420, BitVec.ofNat 16 s.store.geometry, marker]
       (s.boot.task = .releaseHeader ∨ s.boot.task = .failLive →
         s.bootBurst = some (.header .release (words 0x6C76)))
       ∧ (s.boot.task = .geometryHeader → s.bootBurst = some (.header .geometryClear (words 0x6C76)))
       ∧ (s.boot.task = .failClean → s.bootBurst = some (.header .failSafe (words 0xC1EA)))
       ∧ (s.boot.task = .clear 0 → s.bootBurst = some (.bootWrite 0 (words 0x6C76)))
       ∧ (s.boot.task = .none → s.power.level = some .enteringRetain → s.power.step = .retainHeader →
         s.bootBurst = some (.header .power (words 0xC1EA)))))
  ∧ (∀ s : State,
     let due := s.pool.state = .inService ∧ s.pool.spare.length < 4 ∧ 0 < s.pool.freeCount
       ∧ s.boot.state = .ready ∧ s.retaining = false ∧ s.store.state ≠ .selfRefresh
     (∀ h, due → s.pool.freeHead = some h → s.waitingLink h = none → s.refillBurst = some (.refill h))
     ∧ (¬due ∨ s.pool.freeHead = none → s.refillBurst = none)
     ∧ (∀ h w, s.pool.freeHead = some h → s.waitingLink h = some w → s.refillBurst = none)
     ∧ (∀ b p h left, s.pool.rebuild = some b → b.at_ = .walking p h left →
       s.walkBurst = if 1 < left ∧ s.retaining = false ∧ s.waitingLink h = none then some (.walk h)
         else none))
  ∧ (∀ s : State,
     let filled (slot : Option RouteNo) : Option PageEntry :=
       slot.bind fun r => if (s.route r).live then (s.route r).page.map s.page else none
     let size (w : Writer) (held : Nat) (last : Bool) : Nat :=
       if last then min 8 (min w.room held) else min 8 w.room
     let place (e : PageEntry) (w : Writer) : Nat := 512 * e.tail + (512 - w.room)
     (filled s.coder.slot = none → s.wantScan = none)
     ∧ (filled s.hostIn.slot = none → s.wantHostIn = none)
     ∧ (filled s.line.slot = none → s.wantRx = none)
     ∧ (∀ e, filled s.coder.slot = some e →
       let c := s.coder
       let k := size c.writer c.queue.length (c.state == .ending)
       s.wantScan = if 0 < k ∧ k ≤ c.queue.length then
           some (.coderWrite (place e c.writer) (c.queue.take k))
         else none)
     ∧ (∀ e, filled s.hostIn.slot = some e →
       let h := s.hostIn
       let k := size h.writer h.queue.length (h.finalTaken || s.hostFlushing)
       s.wantHostIn = if 0 < k ∧ k ≤ h.queue.length then
           some (.hostWrite (place e h.writer) (h.queue.take k))
         else none)
     ∧ (∀ e, filled s.line.slot = some e →
       let l := s.line
       let bytes := l.rxFifo.length
       let k := size l.writer ((bytes + 1) / 2) (l.rx == .flushing)
       let n := min (2 * k) bytes
       s.wantRx = if 0 < k ∧ (2 * k ≤ bytes ∨ l.rx = .flushing) then
           some (.lineWrite (place e l.writer) (wordsOfBytes (l.rxFifo.take n)) n)
         else none)
     ∧ ∀ x ∈ ([(s.wantPrint, .print, s.printDec.slot, s.printDec.fetch),
           (s.wantTx, .line, s.line.slot, s.line.fetch),
           (s.wantHostOut, .host, s.hostOut.slot, s.hostOut.fetch)] :
         List (Option BurstKind × Reader × Option RouteNo × Fetch)),
       let f := x.2.2.2
       let k := min 8 (min (512 - f.offset) f.left)
       let moves := (∃ r, x.2.2.1 = some r ∧ (s.route r).live = true ∧ s.heldByDamage r = false)
         ∧ f.active = true ∧ f.left ≠ 0
       (¬moves → x.1 = none)
       ∧ (moves → f.offset = 512 → x.1 = some (.fetchLink x.2.1 f.block))
       ∧ (moves → f.offset ≠ 512 →
         x.1 = if f.queue.length + k ≤ 16 then
             some (.fetchWords x.2.1 (512 * f.block + f.offset) k)
           else none))
  ∧ (∀ s : State, s.store.state = .entering →
     let urgent := s.wantRx ≠ none ∨ s.wantTx ≠ none
       ∨ (s.wantPrint ≠ none ∧ s.head.ready.length ≤ s.power.watermark)
     let held := s.store.request = .retain ∨ ¬urgent
     (held → s.nextBurst = (none, s))
     ∧ (¬held → 7 ≤ s.store.backlog → s.nextBurst = (some (.refreshRow false), s))
     ∧ (¬held → s.store.backlog < 7 →
       s.nextBurst = (s.wantRx <|> s.wantTx <|> s.wantPrint, s))
     ∧ (s.store.burst = none → held →
       (0 < s.store.backlog → s.entryAdvance = s.granted (.refreshRow true))
       ∧ (s.store.backlog = 0 → s.entryAdvance = s.enterSelfRefresh))
     ∧ (s.store.burst ≠ none ∨ ¬held → s.entryAdvance = s)
     ∧ ∀ o g xs, let u := s.deliver { kind := .refreshRow true, orphan := o, page := g } xs
       (held → u = s.enterSelfRefresh) ∧ (¬held → u = s))
  ∧ (∀ s : State,
     let slept (p : Power) : State :=
       { s with
         store := { s.store with
           state := .selfRefresh, backlog := 0, refreshTimer := none, scrubTimer := none }
         power := p }
     (s.power.level = some .enteringDoze →
       s.enterSelfRefresh = { slept { s.power with level := some .doze, step := .none, asleep := true } with
         head := { s.head with sampleTimer := none } })
     ∧ (s.power.level = some .enteringRetain →
       s.enterSelfRefresh = { slept { s.power with level := some .retain, step := .none } with
         head := { s.head with sampleTimer := none } })
     ∧ (s.power.level ≠ some .enteringDoze → s.power.level ≠ some .enteringRetain →
       s.enterSelfRefresh = slept s.power))
  ∧ (∀ s : State,
     (∀ b u, s.store.burst = none → s.nextBurst = (some b, u) → u.inStore b = true →
       exec .arbiterGrant s = .next ((u.granted b).react.resume s.power.level))
     ∧ (∀ b u, s.store.burst = none → s.nextBurst = (some b, u) → u.inStore b = false →
       exec .arbiterGrant s = .fault .outsideStore)
     ∧ (s.store.burst ≠ none ∨ s.nextBurst.1 = none → exec .arbiterGrant s = .next (s.react.resume s.power.level))
     ∧ (s.store.state = .on → 7 ≤ s.store.backlog → s.nextBurst = (some (.refreshRow false), s))
     ∧ (s.store.state = .on → s.store.backlog < 7 →
       (∀ b, s.wantRx = some b → s.nextBurst = (some b, s))
       ∧ (∀ b, s.wantRx = none → s.wantTx = some b → s.nextBurst = (some b, s))
       ∧ (∀ b, s.wantRx = none → s.wantTx = none → s.wantPrint = some b → s.nextBurst = (some b, s))
       ∧ (s.wantRx = none → s.wantTx = none → s.wantPrint = none →
         (s.dirSources ≠ [] → ∃ b ∈ s.dirSources, s.nextBurst.1 = some b)
         ∧ (s.dirSources = [] →
           (∀ b, s.wantScan = some b → s.nextBurst = (some b, s))
           ∧ (∀ b, s.wantScan = none → s.wantHostIn = some b → s.nextBurst = (some b, s))
           ∧ (∀ b, s.wantScan = none → s.wantHostIn = none → s.wantHostOut = some b →
             s.nextBurst = (some b, s))
           ∧ (s.wantScan = none → s.wantHostIn = none → s.wantHostOut = none →
             (1 ≤ s.store.backlog → s.nextBurst = (some (.refreshRow false), s))
             ∧ (s.store.backlog = 0 → s.store.scrubWaiting = true →
               s.nextBurst = (some .scrub, s))))))
     ∧ (s.store.state = .init → s.nextBurst = (if 0 < s.store.initLeft then some .initRow else none, s))
     ∧ (s.store.state = .selfRefresh ∨ s.store.state = .waking → s.nextBurst = (none, s)))
  ∧ (∀ (flips : List StoreWord) (s : State),
     (s.store.burst = none → exec (.burstEnd flips) s = .next s)
     ∧ ∀ b, s.store.burst = some b →
       let u := (s.endBurst b flips).react.resume s.power.level
       (u.store.burst ≠ none ∨ u.nextBurst.1 = none → exec (.burstEnd flips) s = .next u)
       ∧ ∀ k v, u.store.burst = none → u.nextBurst = (some k, v) → v.inStore k = true →
         exec (.burstEnd flips) s = .next (v.granted k))

/-- What the end of each kind of burst does for its client. An initialisation row is counted off, and the last one
leads to ON; a refresh row does nothing more, and the final row of an entry leads to SELF-REFRESH while no urgent
request waits (R28, R37, R38). The oldest item of the directory write queue leaves after its last burst (R2, R21). A
writer's words leave its queue or FIFO (R48, R68, R137), and those written for a route that has ended are told to no
one: the model's reading of R71 (log entry 14). Fetched words join the reader's queue, and are discarded where it
fetches no more (R56, R69, R74); a link word is followed (R33), and one that is unreadable or fails its test ends the
reader's route FAILED(MEMORY), its page DAMAGED (R7, R34, R72); that the route fails at once where the flag must wait
for a place of the directory write queue is the model's choice (log entry 34). An uncorrectable word flags its page
DAMAGED once, with an image write and a report, as soon as there is a place (R7, R21, R34), also, by the model's
reading, where the route has ended (log entry 14). Scrub moves on eight words, stores a corrected word anew with its
check bits and leaves an uncorrectable one (R36). The CLEAN header of power-fail entry sets the retained flag
(R156). -/
def Obligations.BurstEndsServeTheirClients : Prop :=
  (∀ (s : State) (p : PageNo) (r : Option RouteNo),
    let e := s.page p
    let due := (e.state = .closed ∨ e.state = .dropping) ∧ e.damaged = false ∧ (p, r) ∉ s.pool.damage
    let flagged : State :=
      { s.setPage p { e with damaged := true } with
        pool := { s.pool with
          dirQueue := s.pool.dirQueue ++ if s.imageNeed p = 0 then [] else [.image p none false] } }
    (¬due → s.flagDamaged p r = s)
    ∧ (due → s.imageNeed p ≤ s.dirPlaces → s.flagDamaged p r = flagged.queueReport (.pageDamaged p))
    ∧ (due → s.dirPlaces < s.imageNeed p →
      s.flagDamaged p r = { s with pool := { s.pool with damage := s.pool.damage ++ [(p, r)] } }))
  ∧ ∀ (s : State) (o : Bool) (g : Option PageNo),
    (1 < s.store.initLeft → s.endBurst { kind := .initRow, orphan := o, page := g } []
      = { s with store := { s.store with burst := none, initLeft := s.store.initLeft - 1 } })
    ∧ (s.store.initLeft = 1 → s.boot.state ≠ .ready → s.boot.state ≠ .memoryStart →
      s.boot.task ≠ .failOn → s.power.level = none → s.store.request = .none →
      s.endBurst { kind := .initRow, orphan := o, page := g } []
        = { s with
            power := { s.power with request := .none }
            store := { s.store with
              burst := none, initLeft := 0, state := .on, backlog := 0, wakeTimer := none
              refreshTimer := some (s.now + s.setup.refresh) } })
    ∧ (s.store.initLeft = 1 → s.boot.state = .memoryStart → s.power.level = none →
      s.store.request = .none →
      s.endBurst { kind := .initRow, orphan := o, page := g } []
        = { s with
            power := { s.power with request := .none }
            boot := { s.boot with state := .romReplay }
            store := { s.store with
              burst := none, initLeft := 0, state := .on, backlog := 0, wakeTimer := none
              refreshTimer := some (s.now + s.setup.refresh) } })
    ∧ (s.endBurst { kind := .refreshRow false, orphan := o, page := g } []
      = { s with store := { s.store with burst := none } })
    ∧ ((s.store.state ≠ .entering ∨ (s.store.request ≠ .retain ∧ s.urgentWaits = true)) →
      s.endBurst { kind := .refreshRow true, orphan := o, page := g } []
        = { s with store := { s.store with burst := none } })
    ∧ (s.store.state = .entering → (s.store.request = .retain ∨ s.urgentWaits = false) →
      s.power.level = some .run →
      s.endBurst { kind := .refreshRow true, orphan := o, page := g } []
        = { s with store :=
            { s.store with
              burst := none, state := .selfRefresh, backlog := 0, refreshTimer := none
              scrubTimer := none } })
    ∧ (∀ k v rest, s.pool.dirQueue = .link k v :: rest →
      s.endBurst { kind := .dirLink k v, orphan := o, page := g } []
        = { s with
            pool := { s.pool with dirQueue := rest }
            store := { s.store with
              burst := none, dram := dramWrite s.store.dram (1024 + k) (encodeWord v) } })
    ∧ (∀ p ws rest, s.pool.dirQueue = .image p (some ws) false :: rest →
      (s.endBurst { kind := .dirImage p false (ws.take 8), orphan := o, page := g } []).pool.dirQueue
        = .image p (some ws) true :: rest)
    ∧ (∀ p ws rest, s.pool.dirQueue = .image p (some ws) true :: rest →
      (s.endBurst { kind := .dirImage p true (ws.drop 8), orphan := o, page := g } []).pool.dirQueue
        = rest)
    ∧ (∀ a ws, s.endBurst { kind := .coderWrite a ws, orphan := false, page := g } []
      = { s with
          store := { s.store with burst := none, dram := dramWriteWords s.store.dram a ws }
          coder := { s.coder with
            queue := s.coder.queue.drop ws.length, writer := s.coder.writer.wrote ws.length } })
    ∧ (∀ a ws n, s.endBurst { kind := .lineWrite a ws n, orphan := false, page := g } []
      = { s with
          store := { s.store with burst := none, dram := dramWriteWords s.store.dram a ws }
          line := { s.line with
            rxFifo := s.line.rxFifo.drop n, writer := s.line.writer.wrote ws.length } })
    ∧ (∀ a ws, s.endBurst { kind := .hostWrite a ws, orphan := false, page := g } []
      = { s with
          store := { s.store with burst := none, dram := dramWriteWords s.store.dram a ws }
          hostIn := { s.hostIn with
            queue := s.hostIn.queue.drop ws.length, writer := s.hostIn.writer.wrote ws.length } })
    ∧ (∀ a ws n, ∀ k ∈ [BurstKind.coderWrite a ws, .lineWrite a ws n, .hostWrite a ws],
      s.endBurst { kind := k, orphan := true, page := g } []
        = { s with
            store := { s.store with burst := none, dram := dramWriteWords s.store.dram a ws } })
    ∧ (∀ (x : Reader) (a n : Nat), let xs := dramReadWords s.store.dram a n
      let idle : State := { s with store := { s.store with burst := none } }
      ((∀ w ∈ xs, w.cls = none) →
        s.endBurst { kind := .fetchWords x a n, orphan := false, page := g } []
            = (if (s.fetchOf x).active = true then
                idle.setFetch x ((s.fetchOf x).receive (xs.map ReadWord.data)) else idle)
          ∧ s.endBurst { kind := .fetchWords x a n, orphan := true, page := g } [] = idle))
    ∧ (∀ (x : Reader) (a n : Nat) (p : PageNo), let xs := dramReadWords s.store.dram a n
      (∃ w ∈ xs, w.cls = some .uncorrectable) → s.power.level = some .run →
      ((s.page p).state = .closed ∨ (s.page p).state = .dropping) → (s.page p).damaged = false →
      s.imageNeed p ≤ s.dirPlaces → (∀ y ∈ s.pool.damage, y.1 ≠ p) →
      (s.readerPage x = some p →
        ((s.endBurst { kind := .fetchWords x a n, orphan := false, page := g } []).page p).damaged
          = true)
      ∧ ((s.endBurst { kind := .fetchWords x a n, orphan := true, page := some p } []).page p).damaged
        = true)
    ∧ (∀ (x : Reader) (h : Nat) (r : RouteNo) (xs : List ReadWord), s.readerSlot x = some r →
      (∀ v : Word, s.linkOf h xs = some v → s.isData v.toNat = true → (s.fetchOf x).active = true →
        s.deliver { kind := .fetchLink x h, orphan := false, page := g } xs
          = s.setFetch x { s.fetchOf x with block := v.toNat, offset := 0 })
      ∧ (s.linkPasses (s.linkOf h xs) = false →
        s.deliver { kind := .fetchLink x h, orphan := false, page := g } xs
          = (match s.readerPage x with
              | some p => s.flagDamaged p (some r)
              | none => s).failRoute r .memory))
    ∧ (∀ i < 8, dramWf s.store.dram = true →
      let u := s.endBurst { kind := .scrub, orphan := o, page := g } []
      let a := s.store.scrubPos + i
      ((decodeWord (dramRead s.store.dram a)).cls = some .corrected →
        dramRead u.store.dram a = encodeWord (decodeWord (dramRead s.store.dram a)).data)
      ∧ ((decodeWord (dramRead s.store.dram a)).cls ≠ some .corrected →
        dramRead u.store.dram a = dramRead s.store.dram a)
      ∧ u.store.scrubPos
        = (if s.store.geometry * 512 ≤ s.store.scrubPos + 8 then 0 else s.store.scrubPos + 8))
    ∧ (∀ ws, s.store.state = .on → 0 < s.store.backlog →
      let u := s.endBurst { kind := .header .power ws, orphan := o, page := g } []
      u.boot = { s.boot with retained := true }
        ∧ u.power = { s.power with step := .retainRequest, request := .retain }
        ∧ u.store.state = .entering ∧ u.store.request = .retain
        ∧ u.store.dram = dramWriteWords s.store.dram 0 ws)

/-- A writer's ask for a block is answered by R14's table: it waits out of service and while the spare queue is empty,
is given the oldest spare block against its reservation or the unreserved availability, and else cannot allocate.
Opening a page takes the entry and the block and makes the route its owner (R3); a page that is extended takes its next
block (R4, R12); both are done once the block is given and the directory write queue has their places, and wait else
(R3, R4, R21); with no FREE entry an open fails NO-PAGE before any other test (R3). A page closes with its length and
counts, or TRUNCATED (R5, R6). A writer that cannot allocate puts the alert to OUT; a LINE-RECEIVE then fails POOL-OUT
and another writer's route is STALLED (R16). The alert follows the unreserved availability at the low mark (R17); that
LOW is queued from NONE alone, and that a low mark a SETUP moves past the availability gives no LOW at a later fall and
OK at a later rise, are the model's choices (log entries 41 and 77). A refill takes the head of the free list to the
spare queue, and an unreadable or invalid link word strands the list (R13, R18). A rebuild walk marks the next block,
and an unreadable, invalid or marked one abandons it, which leaves no block free or spare and strands every one that no
page holds (R19, R20). It passes FREE entries by, marks each chain from its head, sweeps the unmarked blocks into a new
free list, joins the chains freed after their walk, and ends REBUILT (R19, R20). The end of a geometry clear leaves the
pool as R164 does; that its CLEARED is queued alone is the model's choice (R167; log entry 42). -/
def Obligations.PagesTakeAndReturnTheirBlocks : Prop :=
  (∀ (s : State) (r : RouteNo),
    (s.pool.state ≠ .inService → s.askBlock r = .wait)
    ∧ (s.pool.state = .inService →
      (0 < (s.route r).remainder ∨ 0 < s.available →
        s.askBlock r = if s.pool.spare = [] then .wait else .give)
      ∧ ((s.route r).remainder = 0 → s.available = 0 → s.askBlock r = .cannot)))
  ∧ (∀ (s : State) (r : RouteNo) (p : PageNo) (b : Nat) (rest : List Nat), s.pool.spare = b :: rest →
    let image : List DirItem := if s.imageNeed p = 0 then [] else [.image p none false]
    (∀ origin, let u := s.openEntry r p origin
      let x := s.route r
      u.page p = { PageEntry.freeEntry with
          state := .opened, origin := origin, pitch := x.pitch
          codeSlot := (x.code.map Fin.val).getD x.namedCode
          head := b, tail := b, blockCount := 1
          lineCount := if origin = .host then none else some 0, owner := some r }
        ∧ (∀ q, q ≠ p → u.page q = s.page q)
        ∧ (u.route r).page = some p ∧ (u.route r).remainder = x.remainder - 1
        ∧ u.pool.spare = rest ∧ u.pool.freeCount = s.pool.freeCount
        ∧ u.pool.dirQueue = s.pool.dirQueue ++ [.link b 0xFFFF] ++ image)
    ∧ (let u := s.extendPage r p
      let e := s.page p
      u.page p = { e with tail := b, blockCount := e.blockCount + 1 }
        ∧ (∀ q, q ≠ p → u.page q = s.page q)
        ∧ (u.route r).remainder = (s.route r).remainder - 1
        ∧ u.pool.spare = rest ∧ u.pool.freeCount = s.pool.freeCount
        ∧ u.pool.dirQueue
          = s.pool.dirQueue ++ [.link e.tail (BitVec.ofNat 16 b), .link b 0xFFFF] ++ image))
  ∧ (∀ (s : State) (r : RouteNo) (k : RouteKind),
    (s.freeEntry = none → s.askOpen r k = s.failRoute r .noPage)
    ∧ (s.askBlock r = .wait → s.tryOpen r k = s)
    ∧ (s.askBlock r = .cannot →
      s.tryOpen r k = if s.freeEntry = none then s.failRoute r .noPage else s.starve r k)
    ∧ (s.askBlock r = .give → s.freeEntry = none → 2 ≤ s.dirPlaces →
      s.tryOpen r k = s.failRoute r .noPage)
    ∧ (∀ p, s.askBlock r = .give → s.freeEntry = some p →
      (1 + s.imageNeed p ≤ s.dirPlaces →
        let u := s.openEntry r p k.origin
        s.tryOpen r k
          = u.setWriter k { u.writer k with opening := false, room := 512, written := 0 })
      ∧ (s.dirPlaces < 1 + s.imageNeed p → s.tryOpen r k = s))
    ∧ (∀ p, (s.askBlock r = .wait → s.tryExtend r k p = s)
      ∧ (s.askBlock r = .cannot → s.tryExtend r k p = s.starve r k)
      ∧ (s.askBlock r = .give →
        (2 + s.imageNeed p ≤ s.dirPlaces →
          let u := s.extendPage r p
          s.tryExtend r k p = u.setWriter k { u.writer k with room := 512 })
        ∧ (s.dirPlaces < 2 + s.imageNeed p → s.tryExtend r k p = s)))
    ∧ (∀ p, s.freeEntry = some p ↔
      ((s.page p).state = .free ∧ ∀ q < p, (s.page q).state ≠ .free)))
  ∧ (∀ (s : State) (r : RouteNo) (p : PageNo) (c : PageClose),
    let u := s.closePage r p c
    u.page p = { s.page p with
        state := .closed, bitLength := c.bitLength, lineCount := c.lineCount, badLines := c.badLines
        truncated := (s.page p).truncated || c.truncated, owner := none }
      ∧ (∀ q, q ≠ p → u.page q = s.page q)
      ∧ u.routes = s.routes.set r { s.route r with page := none, lastPage := some p }
      ∧ (s.power.level = some .run →
        u.reports = enqueue (.pageClosed p c.truncated) false s.reports)
      ∧ u.pool.dirQueue = s.pool.dirQueue
        ++ (if s.imageNeed p = 0 then [] else [.image p none false]))
  ∧ (∀ (s : State) (r : RouteNo), s.power.level = some .run →
    (∀ k, k = .scanStore ∨ k = .hostStore → let u := s.starve r k
      u.pool.alert = .out ∧ (u.writer k).starved = true
        ∧ ((s.route r).state = .running → (u.route r).state = .stalled)
        ∧ u.reports = (if (s.route r).state = .running
            then enqueue (.routeStalled r) false (enqueue .poolOut false s.reports)
            else enqueue .poolOut false s.reports))
    ∧ s.starve r .lineReceive
      = ({ s with
          pool := { s.pool with alert := .out }
          reports := enqueue .poolOut false s.reports }).failRoute r .poolOut)
  ∧ (∀ (s : State) (before : Nat), s.power.level = some .run →
    (0 < before ∨ s.available = 0 →
      (s.available < before → s.setup.lowMark ≤ before → s.available < s.setup.lowMark →
        s.pool.alert = .none →
        s.availChange before = { s with
          pool := { s.pool with alert := .low }, reports := enqueue .poolLow false s.reports })
      ∧ (before < s.available → s.setup.lowMark < s.available → s.pool.alert ≠ .none →
        s.availChange before = { s with
          pool := { s.pool with alert := .none }, reports := enqueue .poolOk false s.reports })
      ∧ (s.available = before → s.availChange before = s)
      ∧ (s.available < before → s.pool.alert ≠ .none → s.availChange before = s)
      ∧ (s.available < before → before < s.setup.lowMark ∨ s.setup.lowMark ≤ s.available →
        s.availChange before = s)
      ∧ (before < s.available → s.available ≤ s.setup.lowMark → s.availChange before = s))
    ∧ (before = 0 → 0 < s.available →
      (s.availChange before).coder.writer.starved = false
      ∧ (s.availChange before).hostIn.writer.starved = false
      ∧ ∀ r, (s.coder.slot = some r ∧ s.coder.writer.starved = true)
          ∨ (s.hostIn.slot = some r ∧ s.hostIn.writer.starved = true) →
        (s.route r).state = .stalled → ((s.availChange before).route r).state = .running))
  ∧ (∀ (s : State) (h : Nat) (o : Bool) (g : Option PageNo) (xs : List ReadWord),
    s.pool.state = .inService → s.pool.freeHead = some h → 0 < s.pool.freeCount →
    s.pool.spare.length < 4 →
    let u := s.deliver { kind := .refill h, orphan := o, page := g } xs
    (∀ v : Word, s.linkOf h xs = some v → s.isData v.toNat = true → 1 < s.pool.freeCount →
      u = { s with pool :=
        { s.pool with
          spare := s.pool.spare ++ [h], freeCount := s.pool.freeCount - 1
          freeHead := some v.toNat } })
    ∧ (∀ v : Word, s.linkOf h xs = some v → s.pool.freeCount = 1 →
      u = { s with pool :=
        { s.pool with
          spare := s.pool.spare ++ [h], freeCount := 0, freeHead := none, freeTail := none } })
    ∧ (s.linkOf h xs = none ∨ (1 < s.pool.freeCount ∧ s.linkPasses (s.linkOf h xs) = false) →
      u.pool.stranded = s.pool.stranded + s.pool.freeCount ∧ u.pool.freeCount = 0
        ∧ u.pool.freeHead = none ∧ u.pool.freeTail = none ∧ u.pool.spare = s.pool.spare
        ∧ u.remainders ≤ s.pool.spare.length))
  ∧ (∀ (s : State) (b : Rebuild) (p h left : Nat) (o : Bool) (g : Option PageNo) (xs : List ReadWord),
    s.pool.rebuild = some b → b.at_ = .walking p h left → s.retaining = false →
    let u := s.deliver { kind := .walk h, orphan := o, page := g } xs
    (∀ v : Word, s.linkOf h xs = some v → s.isData v.toNat = true → v.toNat ∉ b.marks →
      u = s.setRebuild
        { b with
          marks := b.marks ++ [v.toNat]
          at_ := if left ≤ 2 then .entry (p + 1) else .walking p v.toNat (left - 1) })
    ∧ (s.linkPasses (s.linkOf h xs) = false
        ∨ (∃ v, s.linkOf h xs = some v ∧ v.toNat ∈ b.marks) →
      u = s.abandonRebuild ∧ u.pool.state = .inService ∧ u.pool.rebuild = none))
  ∧ (∀ (s : State) (b : Rebuild), s.pool.rebuild = some b →
    let u := s.abandonRebuild
    u = { s with pool := { s.pool with state := .inService, rebuild := none } }.queueReport
      .poolStranded
    ∧ (s.PageBooks → s.PoolBooks →
      u.pool.freeCount = 0 ∧ u.pool.spare = [] ∧ u.pool.stranded + s.blocksHeld = s.dataBlocks))
  ∧ (∀ (s : State) (b : Rebuild), s.pool.rebuild = some b → s.retaining = false →
    (∀ k, b.at_ = .entry k →
      (32 ≤ k →
        s.rebuildMove b = some (s.setRebuild { b with at_ := .sweeping 16 none none 0 }))
      ∧ ∀ p : PageNo, p.val = k →
        let e := s.page p
        (e.state = .free → s.rebuildMove b = some (s.setRebuild { b with at_ := .entry (k + 1) }))
        ∧ (e.state ≠ .free → e.head ∈ b.marks → s.rebuildMove b = some s.abandonRebuild)
        ∧ (e.state ≠ .free → e.head ∉ b.marks →
          s.rebuildMove b = some (s.setRebuild
            { b with
              marks := b.marks ++ [e.head]
              at_ := if e.blockCount ≤ 1 then .entry (k + 1) else .walking k e.head e.blockCount })))
    ∧ (∀ p h left, b.at_ = .walking p h left →
      (s.waitingLink h = none → s.rebuildMove b = none)
      ∧ ∀ w o g xs, s.waitingLink h = some w →
        s.rebuildMove b = some (s.deliver { kind := .walk h, orphan := o, page := g } xs))
    ∧ ∀ next first last count, b.at_ = .sweeping next first last count →
      let free (n : Nat) : Prop := next ≤ n ∧ n < s.store.geometry ∧ n ∉ b.marks
      let chain (v : Word) (c : Rebuild) : Option State :=
        match last with
        | none => some (s.setRebuild c)
        | some l =>
          if 0 < s.dirPlaces then
            some ({ s with pool :=
              { s.pool with dirQueue := s.pool.dirQueue ++ [DirItem.link l v] } }.setRebuild c)
          else none
      (∀ n, free n → (∀ m, m < n → ¬free m) →
        s.rebuildMove b
          = chain (BitVec.ofNat 16 n)
            { b with at_ := .sweeping (n + 1) (first <|> some n) (some n) (count + 1) })
      ∧ ((∀ n, ¬free n) →
        (next ≤ s.store.geometry →
          s.rebuildMove b
            = chain 0xFFFF { b with at_ := .sweeping (s.store.geometry + 1) first last count })
        ∧ (s.store.geometry < next →
          (∀ c cs, b.joined = c :: cs →
            s.rebuildMove b
              = chain (BitVec.ofNat 16 c.head)
                { b with
                  joined := cs
                  at_ := .sweeping next (first <|> some c.head) (some c.tail) (count + c.count) })
          ∧ (b.joined = [] → s.rebuildMove b = some (s.endRebuild first last count)))))
  ∧ (∀ (s : State) (first last : Option Nat) (count : Nat),
    let u : State :=
      { s with pool :=
        { s.pool with
          state := .inService, rebuild := none, stranded := 0, freeHead := first, freeTail := last
          freeCount := count } }
    s.endRebuild first last count
      = (u.queueReport (.poolRebuilt count)).availChange s.available)
  ∧ ∀ (s : State) (o : Bool) (g : Option PageNo) (ws : List Word), s.boot.task = .geometryHeader →
    s.power.level = some .run →
    let u := s.deliver { kind := .header .geometryClear ws, orphan := o, page := g } []
    (∀ p, u.page p = PageEntry.freeEntry) ∧ u.pool.state = .inService
      ∧ u.pool.freeHead = some 16 ∧ u.pool.freeTail = some (s.store.geometry - 1)
      ∧ u.pool.freeCount = s.dataBlocks ∧ u.pool.spare = [] ∧ u.pool.stranded = 0
      ∧ u.pool.alert = .none ∧ u.boot.task = .none
      ∧ u.reports = enqueue (.poolCleared s.dataBlocks) false s.reports

/-- The expiry of the refresh timer adds 1 to the backlog, that of the scrub timer sets its request, and each starts
the interval in force (R28, R35); that the expiry of a timer that is stopped leaves the state is the model's choice
(log entry 13), and so is the clock's part (log entry 1). At the end of WAKING the controller is ON, its timers from
a full interval and the backlog 0; a full wake then reaches RUN, where the parser resumes (R40, R149). -/
def Obligations.StoreTimersAndWaking : Prop :=
  (∀ s : State,
     (∀ d, s.store.refreshTimer = some d →
       exec .refreshTimerExpiry s = .next
         { s with
           now := max s.now d
           store := { s.store with
             backlog := s.store.backlog + 1, refreshTimer := some (max s.now d + s.setup.refresh) } })
     ∧ (∀ d, s.store.scrubTimer = some d →
       exec .scrubTimerExpiry s = .next
         { s with
           now := max s.now d
           store := { s.store with
             scrubWaiting := true, scrubTimer := some (max s.now d + 1000 * s.setup.scrub) } })
     ∧ (s.store.refreshTimer = none → exec .refreshTimerExpiry s = .next s)
     ∧ (s.store.scrubTimer = none → exec .scrubTimerExpiry s = .next s))
  ∧ (∀ (s : State) (d : Nat), s.store.state = .waking → s.store.wakeTimer = some d →
     s.store.request = .none → s.boot.state = .ready → s.boot.task = .none →
     s.pool.state ≠ .clearing →
     let now := max s.now d
     ∃ u : State, exec .wakingEnd s = .next (u.react.resume s.power.level)
       ∧ u.store =
           { s.store with
             state := .on, backlog := 0, wakeTimer := none
             refreshTimer := some (now + s.setup.refresh)
             scrubTimer := if 0 < s.setup.scrub then some (now + 1000 * s.setup.scrub) else none }
       ∧ u.now = now ∧ u.power.request = .none
       ∧ u.power.level = (if s.power.level = some .waking then some .run else s.power.level)
       ∧ u.routes = s.routes ∧ u.pool = s.pool ∧ u.pages = s.pages)

/-! ## Coding and decoding (chapter 3) -/

/-- The Print Decoder hands over a good line as decoded and a bad one as the previous good line, white where there is
none, and counts it; with no slot free the line is held (R55, R57). At its end it tells its route (R54). R55's counts:
a good line counts one line and ends the run of bad ones, a bad line counts in all three, each up to 65535, and at the
route's limit, once a page, a BAD-LINES report is queued (R55). A PRINT-PAGE route's page is flagged DAMAGED then, with
its image write and report, where it is not flagged yet; with no place in the directory write queue the flag waits for
one (R7, R21, R55). At a position stands the sync, else, in SEEK and SKIP a bit passed, a 1 in SEEK no match, in SYNCED
and LINE the shortest code that matches, the first of one length (R51, R52, R53). What each does to a decoder: a sync
starts a line, makes one begun bad and ends the page at the count of its end pattern; a code adds its run, a total
above 1728 or two chunks in a row being bad and one of 1728 good; no match is bad and leads to SKIP; bits that run out
end the page (R50 to R54). The Print Decoder paints black runs and uses up its words (R56), a held line enters the ring
at the first free slot (R57). -/
def Obligations.DecodersHandOverAndCountLines : Prop :=
  (∀ (table : List Byte) (d : Decoder) (bs : Bits) (final : Bool),
    let sync := syncBits table
    (bs = [] → findAt table d bs final = if final then .runOut else .wait)
    ∧ (bs ≠ [] → sync <+: bs → findAt table d bs final = .sync sync.length)
    ∧ (bs ≠ [] → ¬sync <+: bs →
      (bs.length < sync.length → final = false → d.state ≠ .ended → findAt table d bs final = .wait)
      ∧ (sync.length ≤ bs.length ∨ final = true →
        (d.state = .seek →
          findAt table d bs final
            = if bs.head? = some false then .pass
              else if sync.length ≤ bs.length then .noMatch else .runOut)
        ∧ (d.state = .skip →
          findAt table d bs final = if sync.length ≤ bs.length then .pass else .runOut)
        ∧ (d.state = .synced ∨ d.state = .line →
          (∀ i n, matchCode table d.black bs = some (i, n) →
            findAt table d bs final = .code (codeValue i).1 (codeValue i).2 n)
          ∧ (matchCode table d.black bs = none →
            findAt table d bs final
              = if 16 ≤ bs.length then .noMatch else if final then .runOut else .wait)))))
  ∧ (∀ (table : List Byte) (black : Bool) (bs : Bits),
    let code (i : Nat) : Bits := tableItem table (3 * ((if black then 91 else 0) + i))
    let fits (i : Nat) : Prop := i < 91 ∧ code i ≠ [] ∧ code i <+: bs
    (∀ i n, matchCode table black bs = some (i, n) ↔
      fits i ∧ n = (code i).length
        ∧ ∀ j, fits j → n < (code j).length ∨ (n = (code j).length ∧ i ≤ j))
    ∧ (matchCode table black bs = none ↔ ∀ i, ¬fits i))
  ∧ (∀ (d : Decoder) (count : Nat),
    d.act count .wait = (d, .none)
    ∧ d.act count .runOut = ({ d with state := .ended }, .ended false)
    ∧ d.act count .pass = ({ d with pos := d.pos + 1 }, .none)
    ∧ d.act count .noMatch = ({ d with pos := d.pos + 1, state := .skip }, .bad)
    ∧ (∀ n,
      (d.state = .synced → d.syncs + 1 = count →
        d.act count (.sync n)
          = ({ d with pos := d.pos + n, syncs := d.syncs + 1, state := .ended }, .ended true))
      ∧ (d.state = .synced → d.syncs + 1 ≠ count →
        d.act count (.sync n) = ({ d with pos := d.pos + n, syncs := d.syncs + 1 }, .none))
      ∧ (d.state ≠ .synced →
        d.act count (.sync n)
          = ({ pos := d.pos + n, state := .synced, syncs := 1, sum := 0, black := false, chunk := false },
            if d.state = .line then .bad else .none)))
    ∧ ∀ v chunk n,
      ((chunk = true ∧ d.chunk = true) ∨ 1728 < d.sum + v →
        d.act count (.code v chunk n) = ({ d with pos := d.pos + 1, state := .skip }, .bad))
      ∧ ((chunk = false ∨ d.chunk = false) → d.sum + v ≤ 1728 →
        let t := { d with pos := d.pos + n, sum := d.sum + v, syncs := 0, chunk := chunk }
        d.act count (.code v chunk n)
          = if chunk then ({ t with state := .line }, .none)
            else if d.sum + v = 1728 then ({ t with state := .seek }, .good)
            else ({ t with state := .line, black := !d.black }, .none)))
  ∧ (∀ (s : State) (table : List Byte) (d : PrintDecoder) (count : Nat) (found : Found),
    (let q := s.printDec.fetch.queue
     let pos := s.printDec.dec.pos
     let bs := (((q.take 2).flatMap bitsOfWord).drop (pos % 16)).take (s.printDec.bitLength - pos)
     s.printFinds table = findAt table s.printDec.dec bs (decide (s.printDec.bitLength ≤ pos + bs.length)))
    ∧ (let m := d.dec.act count found
     d.act count found =
      ({ d with
          dec := m.1
          buffer := match found with
            | .sync _ => Dots.white
            | .code v _ _ =>
              if d.dec.black = true ∧ d.dec.sum < m.1.sum then Dots.paint d.buffer d.dec.sum v else d.buffer
            | _ => d.buffer
          fetch := { d.fetch with queue := d.fetch.queue.drop (m.1.pos / 16 - d.dec.pos / 16) } }, m.2)))
  ∧ (∀ (s : State) (r : RouteNo), s.printDec.slot = some r →
    let x := s.route r
    let decodes := x.live = true ∧ x.state ≠ .armed ∧ s.heldByDamage r = false
    let table := s.storage x.code
    (decodes → s.printDec.held = none → s.printDec.told = false →
      let m := s.printDec.act (endCount table) (s.printFinds table)
      s.printMove = some (r, m.1, m.2))
    ∧ (¬decodes ∨ s.printDec.held ≠ none ∨ s.printDec.told = true → s.printMove = none)
    ∧ (∀ dots, s.printDec.held = some dots →
      (0 < s.head.freeSlots →
        s.placeHeld = ({ s with printDec := { s.printDec with held := none } }.enterRing dots).pfReexamine)
      ∧ (s.head.freeSlots = 0 → s.placeHeld = s))
    ∧ (s.printDec.held = none → s.placeHeld = s)
    ∧ (decodes → s.printPass = s.placeHeld.printAdvance 320 table)
    ∧ (¬decodes → s.printPass = s))
  ∧ (∀ (n : Nat) (s : State) (table : List Byte),
    let m := s.printDec.act (endCount table) (s.printFinds table)
    (s.printDec.held = none → s.printDec.told = false → m.2 = .none → m.1.dec ≠ s.printDec.dec →
      State.printAdvance (n + 1) s table = State.printAdvance n { s with printDec := m.1 } table)
    ∧ (s.printDec.held ≠ none ∨ s.printDec.told = true ∨ m.2 ≠ .none ∨ m.1.dec = s.printDec.dec →
      State.printAdvance (n + 1) s table = s))
  ∧ (∀ (s : State) (r : RouteNo) (d : PrintDecoder),
     (s.printMove = some (r, d, .good) →
       let told := { s with printDec := { d with prevGood := some d.buffer } }.countLine r true
       exec .decoderLine s = .next
         (if 0 < told.head.freeSlots then (told.enterRing d.buffer).pfReexamine.react
          else { told with printDec := { told.printDec with held := some d.buffer } }.react))
     ∧ (s.printMove = some (r, d, .bad) →
       let told := { s with printDec := d }.countLine r false
       let dots := s.printDec.prevGood.getD Dots.white
       exec .decoderLine s = .next
         (if 0 < told.head.freeSlots then (told.enterRing dots).pfReexamine.react
          else { told with printDec := { told.printDec with held := some dots } }.react))
     ∧ (∀ pattern, s.printMove = some (r, d, .ended pattern) →
       exec (.decodingEnd .print) s = .next
         { s with printDec := { d with told := true, unterminated := !pattern } }.react)
     ∧ (s.line.slot = some r → (s.route r).kind = some .lineSend → (s.route r).live = true →
       (s.route r).halt ≠ .finish → s.heldByDamage r = false → ∀ t, s.txMove r true = some t →
       exec (.decodingEnd .check) s = .next t.react))
  ∧ (∀ (s : State) (r : RouteNo),
     let x := s.route r
     let lines := min (x.linesDone + 1) 65535
     s.countLine r true = s.setRoute r { x with linesDone := lines, consecBad := 0 }
     ∧ (let y :=
         { x with
           linesDone := lines, badLines := min (x.badLines + 1) 65535
           consecBad := min (x.consecBad + 1) 65535 }
        ((x.badLimit = 0 ∨ min (x.consecBad + 1) 65535 ≠ x.badLimit ∨ x.badReported = true) →
         s.countLine r false = s.setRoute r y)
        ∧ (0 < x.badLimit → min (x.consecBad + 1) 65535 = x.badLimit → x.badReported = false →
         x.kind ≠ some .printPage →
         s.countLine r false
           = (s.setRoute r { y with badReported := true }).queueReport
               (.badLines r (min (x.badLines + 1) 65535) x.badLimit))
        ∧ (∀ p, 0 < x.badLimit → min (x.consecBad + 1) 65535 = x.badLimit → x.badReported = false →
          x.kind = some .printPage → x.page = some p → (p, some r) ∉ s.pool.damage →
          let e := s.page p
          let u := s.setRoute r { y with badReported := true }
          let image : List DirItem := if s.imageNeed p = 0 then [] else [.image p none false]
          let full (v : State) : State :=
            v.queueReport (.badLines r (min (x.badLines + 1) 65535) x.badLimit)
          (e.damaged = true ∨ (e.state ≠ .closed ∧ e.state ≠ .dropping) → s.countLine r false = full u)
          ∧ (e.damaged = false → e.state = .closed ∨ e.state = .dropping →
            (s.imageNeed p ≤ s.dirPlaces →
              s.countLine r false
                = full ({ u with
                    pages := s.pages.set p { e with damaged := true }
                    pool := { s.pool with dirQueue := s.pool.dirQueue ++ image } }.queueReport
                      (.pageDamaged p)))
            ∧ (s.dirPlaces < s.imageNeed p →
              s.countLine r false
                = full { u with
                    pool := { s.pool with damage := s.pool.damage ++ [(p, some r)] } })))))

/-! ## The Line Port (chapter 8) -/

/-- A received byte that completes while a page is stored enters the FIFO and is examined; with the FIFO full it is
dropped, counted and reported; bits short of a byte wait in the assembly (R137, R138). The bit that completes the first
sync, LINE-VALID asserted, begins the page with that sync's bits, and the route goes RUNNING and asks for its page;
another bit joins the window of the last 16 (R3, R136). At RUN no wake is due; where a report wakes the part to RUN the
parser resumes (R149). A byte dropped in SYNCED or LINE makes the line bad, the decoder in SKIP from the next byte
(R58, R138). The Check Decoder examines the bits that have come: a good or bad line is counted, a sync beginning a line
ends the one before it at its position, under FINISH the page too, and the end pattern ends the page after it (R58,
R74, R139). The line ends stand for R6's close, those beyond the page words written waiting for them (R137); that one
found within them counts at once is the model's choice (log entry 55). A page that ends is cut at its end, zeros to a
byte (the model's reading, log entry 32), and flushed; then the route completes, or under CONTINUE seeks the next page
once the places for its image are there, ARMED and with its counts at 0, or DONE where LINE-VALID is out (R5, R78,
R139). -/
def Obligations.ReceptionStoresFromTheFirstSync : Prop :=
  (∀ (s : State) (r : RouteNo) (p : PageNo) (c : PageClose),
    let t := (s.closePage r p c).queueReport (.pageDone r (some p) (s.route r).linesDone)
    let x := t.route r
    let u := (t.setRoute r
      { x with
        linesDone := 0, badLines := 0, consecBad := 0, lastLineEnd := 0, badReported := false
        lastCounts := some (x.lastCounts.getD (x.linesDone, x.badLines)), received := true }).setLine
      { LinePort.idlePort with
        slot := some r, rx := .seeking, txd := s.line.txd, dropped := s.line.dropped }
    let v := u.routeTo r .armed
    s.rxAgain r p c
      = if s.pins.lineValid then v.returnToDoze (some .lineReceive) else v.completeRoute r false none)
  ∧ (∀ (n : Nat) (s : State) (r : RouteNo),
    let d := s.line.dec
    let table := s.storage (s.route r).code
    let found := findAt table d s.line.ahead false
    let m := d.act (endCount table) found
    let u := s.setLine { s.line with dec := m.1, ahead := s.line.ahead.drop (m.1.pos - d.pos) }
    let v := match m.2 with
      | .good => u.countLine r true
      | .bad => u.countLine r false
      | _ => u
    (s.line.stop ≠ none ∨ (s.route r).live = false ∨ found = .wait → State.rxExamine (n + 1) s r = s)
    ∧ (s.line.stop = none → (s.route r).live = true → found ≠ .wait →
      ((∀ k, found ≠ .sync k) → State.rxExamine (n + 1) s r = State.rxExamine n v r)
      ∧ (∀ k, found = .sync k →
        (d.state ≠ .synced → State.rxExamine (n + 1) s r = State.rxExamine n (v.rxLineEnd r d.pos) r)
        ∧ (d.state = .synced → m.2 = .none → State.rxExamine (n + 1) s r = State.rxExamine n u r)
        ∧ (d.state = .synced → m.2 = .ended true →
          State.rxExamine (n + 1) s r
            = State.rxExamine n
              (u.setLine (u.line.stopAt
                { pos := m.1.pos, lines := (s.route r).linesDone, bad := (s.route r).badLines
                  endPattern := true })) r))))
  ∧ (∀ (s : State) (r : RouteNo) (x : Nat),
    let t := s.setRoute r { s.route r with lastLineEnd := x }
    let e : LineEnd := { pos := x, lines := (s.route r).linesDone, bad := (s.route r).badLines }
    let w := s.line.writer
    let ends := w.ends ++ [e]
    ((s.route r).halt = .finish →
      s.rxLineEnd r x = t.setLine (s.line.stopAt
        { pos := x, lines := e.lines, bad := e.bad, endPattern := false }))
    ∧ ((s.route r).halt ≠ .finish →
      (x ≤ 16 * w.written →
        s.rxLineEnd r x
          = t.setLine { s.line with writer :=
            { w with covered := e, ends := w.ends.drop (w.ends.length - 20) } })
      ∧ (16 * w.written < x →
        s.rxLineEnd r x
          = t.setLine { s.line with writer := { w with ends := ends.drop (ends.length - 20) } })))
  ∧ (∀ (l : LinePort) (p : StopPoint),
    let gone := l.stored / 8 - l.rxFifo.length
    let t := l.stopAt p
    (8 * gone ≤ p.pos → p.pos ≤ 8 * (gone + l.rxFifo.length) →
      t.rxFifo.flatMap bitsOfByte
        = (l.rxFifo.flatMap bitsOfByte).take (p.pos - 8 * gone)
          ++ List.replicate ((8 - p.pos % 8) % 8) false)
    ∧ (p.pos < 8 * gone → t.rxFifo = [])
    ∧ { t with rxFifo := l.rxFifo }
      = { l with stop := some p, rx := .flushing, carrier := none, assembly := [], ahead := [] })
  ∧ (∀ (s : State) (r : RouteNo) (stop : StopPoint) (p : PageNo), s.line.slot = some r →
    s.line.stop = some stop → (s.route r).page = some p →
    let x := s.route r
    let c : PageClose :=
      { truncated := false, bitLength := stop.pos, lineCount := some stop.lines, badLines := stop.bad }
    let done := x.live = true ∧ s.line.rx = .flushing ∧ s.line.rxFifo = []
    let again := stop.endPattern = true ∧ x.continues = true ∧ x.halt ≠ .finish
    (¬done → s.rxPass = s)
    ∧ (done → ¬again → s.rxPass = s.completeRoute r false (some c))
    ∧ (done → again →
      (s.imageNeed p ≤ s.dirPlaces → s.rxPass = s.rxAgain r p c)
      ∧ (s.dirPlaces < s.imageNeed p → s.rxPass = s)))
  ∧ (∀ (s : State) (r : RouteNo), s.line.dec.state = .line ∨ s.line.dec.state = .synced →
    let n := min (s.line.dropped + 1) 65535
    s.rxDrop r = ((s.setLine { s.line with
        dropped := n, assembly := [], ahead := []
        dec := { s.line.dec with state := .skip, pos := s.line.stored } }).countLine r false).queueReport
      (.overrun r n)
    ∧ ∀ bits : Bits, s.line.slot = some r → (s.route r).live = true → s.line.rx = .storing →
      1 ≤ bits.length → (s.line.assembly ++ bits).length = 8 → 32 ≤ s.line.rxFifo.length →
      exec (.rxByte bits) s = .next ((s.rxDrop r).react.resume s.power.level))
  ∧ (∀ (bits : Bits) (s : State) (r : RouteNo), s.line.slot = some r → (s.route r).live = true →
     s.line.rx = .storing → 1 ≤ bits.length →
     let all := s.line.assembly ++ bits
     (all.length < 8 →
       exec (.rxByte bits) s = .next ((s.setLine { s.line with assembly := all }).react.resume s.power.level))
     ∧ (all.length = 8 → s.line.rxFifo.length < 32 →
       exec (.rxByte bits) s = .next
         ((State.rxExamine 40
           (s.setLine { s.line with
             rxFifo := s.line.rxFifo ++ [byteOfBits all], stored := s.line.stored + 8, assembly := []
             ahead := s.line.ahead
               ++ all.drop (s.line.dec.pos + s.line.ahead.length - s.line.stored) }) r).react.resume s.power.level))
     ∧ (all.length = 8 → 32 ≤ s.line.rxFifo.length → s.line.dec.state ≠ .line →
       s.line.dec.state ≠ .synced →
       exec (.rxByte bits) s = .next
         (((s.setLine { s.line with
           dropped := min (s.line.dropped + 1) 65535, assembly := [] }).queueReport
           (.overrun r (min (s.line.dropped + 1) 65535))).react.resume s.power.level)))
  ∧ (∀ (b : Bool) (s : State) (r : RouteNo), s.line.slot = some r → (s.route r).live = true →
     s.line.rx = .seeking → s.pins.lineValid = true → s.power.level = some .run →
     let sync := syncBits (s.storage (s.route r).code)
     let window := (s.line.window ++ [b]).drop ((s.line.window ++ [b]).length - 16)
     ((sync = [] ∨ sync.isSuffixOf window = false) →
       exec (.firstSync [b]) s = .next (s.setLine { s.line with window := window }).react)
     ∧ (sync ≠ [] → sync.isSuffixOf window = true →
       ∃ u : State, exec (.firstSync [b]) s
           = .next ((u.routeTo r .running).askOpen r .lineReceive).react
         ∧ { u with line := s.line } = s
         ∧ u.line.rx = .storing ∧ u.line.stored = 8 * (sync.length / 8)
         ∧ u.line.rxFifo.flatMap bitsOfByte ++ u.line.assembly = sync
         ∧ u.line.dec = { Decoder.start with pos := sync.length, state := .synced, syncs := 1 }))

/-- LINE-VALID going out while a page is stored starts the carrier timer at the route's timeout, and coming back stops
it; its expiry fails the route CARRIER (R140). In SEEKING its going out empties the window (R136), and ends the route
DONE where it has received a page under CONTINUE (R78). Elsewhere the level alone changes. That a level that does not
change, and the expiry of a stopped timer, leave the state is the model's choice (log entry 13), and so is the clock's
part (log entry 1). Where the event wakes the part to RUN the parser resumes (R149). -/
def Obligations.CarrierTimerWatchesLineValid : Prop :=
  (∀ (s : State) (level : Bool), s.pins.lineValid ≠ level →
    (∀ r, s.line.slot = some r → (s.route r).live = true →
      s.line.rx ≠ .storing ∧ s.line.rx ≠ .seeking) →
    exec (.lineValidChange level) s
      = .next ({ s with pins := { s.pins with lineValid := level } }.react.resume s.power.level))
  ∧ ∀ (s : State) (r : RouteNo), s.line.slot = some r →
    ((s.route r).live = true → s.line.rx = .storing → s.pins.lineValid = true →
      exec (.lineValidChange false) s = .next
        ({ s with
          pins := { s.pins with lineValid := false }
          line := { s.line with
            carrier := some (s.now + 1000 * (s.route r).carrierMs) } }.react.resume s.power.level))
    ∧ ((s.route r).live = true → s.line.rx = .storing → s.pins.lineValid = false →
      exec (.lineValidChange true) s = .next
        ({ s with
          pins := { s.pins with lineValid := true }
          line := { s.line with carrier := none } }.react.resume s.power.level))
    ∧ ((s.route r).live = true → s.line.rx = .seeking →
      (s.pins.lineValid = true →
        let u : State :=
          { s with pins := { s.pins with lineValid := false }, line := { s.line with window := [] } }
        ((s.route r).received = false →
          exec (.lineValidChange false) s = .next (u.react.resume s.power.level))
        ∧ ((s.route r).received = true →
          exec (.lineValidChange false) s
            = .next ((u.completeRoute r false none).react.resume s.power.level)))
      ∧ (s.pins.lineValid = false →
        exec (.lineValidChange true) s
          = .next ({ s with pins := { s.pins with lineValid := true } }.react.resume
            s.power.level)))
    ∧ (∀ level, s.pins.lineValid = level → exec (.lineValidChange level) s = .next s)
    ∧ (∀ d, s.line.carrier = some d →
      exec .carrierTimerExpiry s
        = .next (({ s with now := max s.now d }.failRoute r .carrier).react.resume s.power.level))
    ∧ (s.line.carrier = none → exec .carrierTimerExpiry s = .next s)

/-- A transmit clock puts out the next page bit, a bit of fill, the first of a mark's fill loading it, or, where
nothing may be sent, a zero; with the tx FIFO empty an underrun begins, counted and reported; the last page bit
completes the route (R142 to R144). What is next: a zero without a live route in SENDING (R135, R141); fill while the
counter is above 0, or where the front byte's mark is at the bit to go out; an underrun where the FIFO is empty; else
the front byte's bit, which is the last where it ends at the end position, or under FINISH, where the FIFO has no end
position, at the last bit of its last byte (R142 to R144). That a FINISH with the end position in the FIFO ends there
is the model's choice (log entry 56). The Check Decoder advances while the tx FIFO has room for the bytes its move
passes, PRIMING ending with 32 or the last; it stops at the end pattern, or at the bit length, where the page ends, its
last byte counted whole (R54, R59, R141). A mark is put at the sync that ends a line, its fill what the line lacks of
the minimum, up to 4800, from the sync that began it to its end (R142); of a line whose sync was lost the fill is free
(log entry 10). A mark goes with the byte it falls in (R142). -/
def Obligations.TransmitClocksSendThePage : Prop :=
  (∀ (s : State) (r : RouteNo) (last : Bool),
    let l := s.line
    let table := s.storage (s.route r).code
    let bs := bitsAt l.fetch.queue l.dec.pos l.bitLength
    let found := findAt table l.dec bs (l.bitLength ≤ l.dec.pos + bs.length)
    let m := l.dec.act (endCount table) found
    let ends := m.2 = .ended true ∨ m.2 = .ended false
    let stop := if m.2 = .ended false then l.bitLength else m.1.pos
    let n := (if ends then (stop + 7) / 8 else stop / 8) - l.entered
    let waits := found = .wait ∨ l.dec.state = .ended ∨ (ends ↔ last = false)
      ∨ 32 < l.txFifo.length + n
    (waits → s.txMove r last = none)
    ∧ (¬waits →
      let noted := { l.note l.dec m.1 found m.2 (syncBits table).length (s.route r).minBits with dec := m.1 }
      let u := noted.enter (bytesFrom l.fetch.queue l.entered n)
      (last = false → s.txMove r last = some ((s.setLine u).countVerdict r m.2))
      ∧ (last = true → s.txMove r last = some (s.setLine
          { u with endPos := some stop, unterminated := decide (m.2 = .ended false) }))))
  ∧ (∀ (s : State) (r : RouteNo),
    s.countVerdict r .good = s.countLine r true ∧ s.countVerdict r .bad = s.countLine r false
    ∧ s.countVerdict r .none = s)
  ∧ (∀ (l : LinePort) (d d' : Decoder) (found : Found) (v : Verdict) (sync minBits : Nat),
    (∀ n, found = .sync n →
      (d.state = .synced → l.note d d' found v sync minBits = l)
      ∧ (d.state ≠ .synced →
        l.note d d' found v sync minBits
          = { l with
              lineSync := none, lineEnd := none
              markAt := if d.state = .line ∨ d.state = .skip ∨ l.lineEnd ≠ none then
                  some (d.pos, l.fillMark minBits d.pos (l.lostSync d))
                else l.markAt }))
    ∧ ((∃ value chunk n, found = .code value chunk n) ∨ found = .noMatch →
      l.note d d' found v sync minBits
        = { l with
            lineSync := if d.state = .synced then some (d.pos - sync) else l.lineSync
            lineEnd := if found ≠ .noMatch ∧ v = .good then some d'.pos else l.lineEnd })
    ∧ (found = .wait ∨ found = .runOut ∨ found = .pass → l.note d d' found v sync minBits = l)
    ∧ (l.lostSync d = true ↔ d.state = .skip ∧ (l.lineEnd ≠ none ∨ l.lineSync = none))
    ∧ ∀ x,
      (∀ start, l.lineSync = some start →
        l.fillMark minBits x false = min 4800 (minBits - (l.lineEnd.getD x - start)))
      ∧ (l.lineSync = none → l.fillMark minBits x false = 0)
      ∧ ∃ k ≤ minBits, l.fillMark minBits x true = min 4800
        ((match l.lineSync with
          | some start => minBits - (l.lineEnd.getD x - start)
          | none => 0) + k))
  ∧ (∀ (l : LinePort) (bytes : List Byte),
    let u := l.enter bytes
    u.txFifo.map TxByte.byte = l.txFifo.map TxByte.byte ++ bytes
    ∧ (l.markAt = none → u.txFifo = l.txFifo ++ bytes.map fun b => { byte := b, mark := none })
    ∧ (∀ x fill, l.markAt = some (x, fill) →
      ∀ i (h : i < bytes.length), u.txFifo[l.txFifo.length + i]?
        = some { byte := bytes[i], mark := if x / 8 = l.entered + i then some (x, fill) else none })
    ∧ (∀ i < l.txFifo.length, u.txFifo[i]? = l.txFifo[i]?)
    ∧ { u with txFifo := l.txFifo }
      = { l with
          entered := l.entered + bytes.length, inUnderrun := l.inUnderrun && bytes.isEmpty
          markAt := l.markAt.filter fun m => decide (l.entered + bytes.length ≤ m.1 / 8)
          fetch :=
            { l.fetch with
              queue := l.fetch.queue.drop
                (8 * (l.entered + bytes.length) / 16 - 8 * l.entered / 16) } })
  ∧ (∀ (s : State) (r : RouteNo),
    (s.line.tx = .priming → 32 ≤ s.line.txFifo.length ∨ s.line.endPos ≠ none →
      s.txPrime = s.setLine { s.line with tx := .sending })
    ∧ (s.line.tx ≠ .priming ∨ (s.line.txFifo.length < 32 ∧ s.line.endPos = none) → s.txPrime = s)
    ∧ (s.line.tx = .sending → s.line.endPos = some s.line.sent →
      s.txEnd r = s.completeRoute r s.line.unterminated none)
    ∧ (s.line.tx ≠ .sending ∨ s.line.endPos ≠ some s.line.sent → s.txEnd r = s)
    ∧ (s.line.slot = some r →
      let sends := (s.route r).kind = some .lineSend ∧ (s.route r).live = true ∧ s.line.tx ≠ .idle
        ∧ (s.route r).halt ≠ .finish ∧ s.heldByDamage r = false
      (sends → s.txPass = ((s.txAdvance 320 r).txPrime).txEnd r) ∧ (¬sends → s.txPass = s))
    ∧ ∀ n, (∀ t, s.txMove r false = some t → State.txAdvance (n + 1) s r = State.txAdvance n t r)
      ∧ (s.txMove r false = none → State.txAdvance (n + 1) s r = s))
  ∧ (∀ s : State,
    (s.line.slot = none ∨ s.line.tx ≠ .sending → s.txNext = .zero)
    ∧ ∀ r, s.line.slot = some r →
      ((s.route r).live = false → s.txNext = .zero)
      ∧ (s.line.tx = .sending → (s.route r).live = true →
        (0 < s.line.fill → s.txNext = .fill none)
        ∧ (s.line.fill = 0 → s.line.txFifo = [] → s.txNext = .empty)
        ∧ ∀ t rest, s.line.fill = 0 → s.line.txFifo = t :: rest →
          (∀ n, t.mark = some (s.line.sent, n) → 0 < n → s.txNext = .fill (some n))
          ∧ ((∀ n, t.mark = some (s.line.sent, n) → n = 0) →
            s.txNext = .bit ((bitsOfByte t.byte).getD s.line.txBit false) (s.txLast r)))
      ∧ (s.txLast r = true ↔
        s.line.endPos = some (s.line.sent + 1)
          ∨ ((s.route r).halt = .finish ∧ s.line.endPos = none ∧ s.line.txBit = 7
            ∧ s.line.txFifo.length = 1)))
  ∧ ∀ s : State,
    (s.txNext = .zero →
      exec .transmitClock s = .next { s with line := { s.line with txd := false } }.react)
    ∧ (s.txNext = .fill none →
      exec .transmitClock s = .next
        { s with line := { s.line with txd := false, fill := s.line.fill - 1 } }.react)
    ∧ (∀ n, s.txNext = .fill (some n) →
      exec .transmitClock s = .next
        { s with line :=
          { s.line with
            txd := false, fill := n - 1
            txFifo := (s.line.txFifo.take 1).map TxByte.unmarked ++ s.line.txFifo.drop 1 } }.react)
    ∧ (s.txNext = .empty → s.line.inUnderrun = true →
      exec .transmitClock s = .next { s with line := { s.line with txd := false } }.react)
    ∧ (∀ b, s.txNext = .bit b false →
      exec .transmitClock s = .next
        { s with line :=
          { s.line with
            txd := b, sent := s.line.sent + 1
            txBit := if s.line.txBit = 7 then 0 else s.line.txBit + 1
            txFifo := if s.line.txBit = 7 then s.line.txFifo.drop 1 else s.line.txFifo } }.react)
    ∧ (∀ b r, s.txNext = .bit b true → s.line.slot = some r →
      exec .lineSendEnd s = .next
        (({ s with line :=
          { s.line with
            txd := b, sent := s.line.sent + 1
            txBit := if s.line.txBit = 7 then 0 else s.line.txBit + 1
            txFifo := if s.line.txBit = 7 then s.line.txFifo.drop 1
              else s.line.txFifo } }.completeRoute r s.line.unterminated none)).react)
    ∧ (∀ r, s.txNext = .empty → s.line.inUnderrun = false → s.line.slot = some r →
      exec .underrun s = .next
        ({ s with line :=
          { s.line with
            txd := false, underruns := min (s.line.underruns + 1) 65535
            inUnderrun := true } }.queueReport
          (.underrun r (min (s.line.underruns + 1) 65535))).react)

/-! ## Scanner, print head, motors, cutter (chapters 5 to 7) -/

/-- A readout's dot x is black where its sample is below the threshold of segment x / 64 (R82). A completed readout
puts its line into the ring of its route: the scan ring, or in COPY the print ring, planned and then offered to a
resting PF (R82, R84, R98, R120). A line enters the print ring with its plan, made from the held samples and the
history line, and becomes the history line (R98); the SETUP watermark comes into force with it (R145). That a readout
without a slot of its own leaves the state is the model's choice (log entry 13), and so is the clock's part (log entry
1). At a line start a slot of the ring is claimed and a readout begun, timed from the last, where the ring has one free
and the scan period has passed since the last start (R83, R84, R92, R93, R99); else the line is skipped, counted and
reported (R85). TRAIL counts down at each; its end, or the maximum lines, makes the line the last (R92, R93). The first
capture of a SCAN-STORE's sheet asks for its page (R92). That the captured count stands at 65535 is the model's choice,
and which count makes the maximum hold its reading (log entries 53, 31). -/
def Obligations.CapturesFillTheirRing : Prop :=
  (∀ (s : State) (r : RouteNo), s.engines.scanner = some r →
    let x := s.route r
    let c := s.scanner
    let left := if c.phase = .trail then c.trailLeft - 1 else c.trailLeft
    let trailEnd := c.phase = .trail ∧ left = 0
    let free := if x.kind = some .copy then s.head.capacity - (s.head.ready.length + s.head.capturing.toNat)
      else 4 - (c.coding.toNat + c.ready.length + c.capturing.toNat)
    let spaced := c.firstStart = true ∨ ∀ t, c.lastStart = some t → t + s.scanPeriod ≤ s.now
    let n := min (c.captured + 1) 65535
    let mark : LastMark :=
      if c.mark ≠ .none then c.mark
      else if trailEnd then .normal
      else if 0 < x.maxLines ∧ n = x.maxLines then .cutShort
      else .none
    let claimed : Scanner :=
      { c with
        trailLeft := left, captureTimer := some (s.now + 864), lastStart := some s.now
        firstStart := false, captured := n, capturing := true, mark := mark
        lastLine := c.lastLine || decide (trailEnd ∨ (0 < x.maxLines ∧ n = x.maxLines)) }
    (0 < free → spaced →
      (x.kind = some .copy →
        s.lineStart r = { s.setRoute r { x with linesDone := min (x.linesDone + 1) 65535 } with
          scanner := claimed
          head :=
            { s.head with
              capturing := true, nextSlot := (s.head.nextSlot + 1) % s.head.capacity } })
      ∧ (x.kind ≠ some .copy →
        let u := s.setScanner { claimed with nextSlot := (c.nextSlot + 1) % 4 }
        (x.kind ≠ some .scanStore ∨ c.pageAsked = true → s.lineStart r = u)
        ∧ (x.kind = some .scanStore → c.pageAsked = false →
          s.lineStart r
            = (u.setScanner { u.scanner with pageAsked := true }).askOpen r .scanStore)))
    ∧ ((free = 0 ∨ ¬spaced) →
      let k := min (x.skipped + 1) 65535
      s.lineStart r = ((s.setRoute r { x with skipped := k }).queueReport (.skip r k)).setScanner
        { c with
          trailLeft := left, firstStart := false
          mark := if c.mark = .none ∧ trailEnd then .normal else c.mark
          lastLine := c.lastLine || decide trailEnd }))
  ∧ (∀ (shade samples : List Byte) (x : Nat) (h : x < samples.length), samples.length = 1728 →
    Dots.dot (thresholdLine shade samples) x
      = decide ((samples[x]'h).toNat < (shade.getD (x / 64) 0).toNat))
  ∧ (∀ (samples : List Byte) (s : State) (r : RouteNo) (d : Nat), s.engines.scanner = some r →
     s.scanner.captureTimer = some d →
     let dots := thresholdLine (s.storage (s.route r).shade) samples
     (s.copying = false → s.scanner.capturing = true →
       exec (.captureComplete samples) s = .next
         { s with
           now := max s.now d
           scanner := { s.scanner with
             capturing := false, captureTimer := none
             ready := s.scanner.ready ++ [dots] } }.react)
     ∧ (s.copying = true → s.head.capturing = true →
       exec (.captureComplete samples) s = .next
         (({ s with
           now := max s.now d
           scanner := { s.scanner with capturing := false, captureTimer := none }
           head := { s.head with capturing := false } }.enterRing dots).pfReexamine).react)
     ∧ ((if s.copying then s.head.capturing else s.scanner.capturing) = false →
       exec (.captureComplete samples) s = .next s))
  ∧ (∀ (s : State) (dots : Dots),
     (s.enterRing dots).head.ready
         = s.head.ready
           ++ [{ dots := dots, plan := planOf s.heat s.head.theta s.head.volts dots s.head.history }]
       ∧ (s.enterRing dots).head.history = dots
       ∧ (s.enterRing dots).power = { s.power with watermark := s.setup.watermark }
       ∧ { s.enterRing dots with head := s.head, power := s.power } = s)

/-- A change of DOC-IN or DOC-EDGE is reported and, for DOC-IN's assertion, wakes the part; with no route at SCANNER it
does nothing else; before READY and at RETAIN it only changes the level (R87, R148). DOC-EDGE ends FEED-IN (R90). Where
DOC-IN wakes the part to RUN the parser resumes (R149). The passage of a sheet: the feed goes to FEED-IN, or with
DOC-EDGE asserted straight to LEAD; the jam steps spent without it are a JAM, a fault of SCANNER that fails the route,
or under FINISH with steps unspent its end (R77, R90, R91, R96). DOC-EDGE's assertion begins LEAD, or EJECT under
FINISH; its deassertion in LEAD marks a short sheet, in CAPTURE begins TRAIL (R90 to R94). A scanned sheet that is out
with its page closed ends the route, or under CONTINUE with DOC-IN asserted tells PAGE-DONE and feeds the next (R74,
R77, R95). That a FEED-IN shortened by FINISH is no jam, that a trail of 0 with SF at rest begins EJECT in the event,
and that after the last line the phase stays CAPTURE is the model's reading and choice (log entries 30, 15, 54). -/
def Obligations.DocumentSensorsAreReported : Prop :=
  (∀ (s : State) (r : RouteNo),
    let x := s.route r
    let c := s.scanner
    let fed := s.setScanner
      { c with
        phase := .feedIn, shortLead := false, captured := 0, mark := .none, lastLine := false
        sheetOut := false, pageAsked := false }
    let led := s.setScanner { c with phase := .lead, shortLead := false, trailLeft := x.trail }
    (s.pins.docEdge = true → s.beginFeed r = fed.startLead r)
    ∧ (s.pins.docEdge = false →
      (x.jam = 0 → s.beginFeed r = fed.jam r)
      ∧ (x.jam ≠ 0 → s.beginFeed r = fed.restart .sf (.move .feedIn) (x.jam - 1)))
    ∧ (s.sf.state = .moving →
      s.startLead r = { led with sf := { s.sf with motion := .lines, left := x.lead, overrun := false } })
    ∧ (s.sf.state ≠ .moving →
      (x.lead = 0 → s.startLead r = led.scanLineEnd r)
      ∧ (x.lead ≠ 0 → s.startLead r = led.restart .sf .lines (x.lead - 1)))
    ∧ s.jam r = { s with engines := { s.engines with scannerFault := true } }.failRoute r .jam
    ∧ (x.halt = .finish ∧ s.sf.taken < x.jam → s.feedInDone r = s.haltRoute r)
    ∧ (x.halt ≠ .finish ∨ x.jam ≤ s.sf.taken → s.feedInDone r = s.jam r)
    ∧ (c.phase = .feedIn →
      (x.halt ≠ .finish → s.edgeOn r = s.startLead r)
      ∧ (x.halt = .finish →
        s.edgeOn r = { s with
          scanner := { c with phase := .eject, lastLine := true }
          sf := { s.sf with motion := .move .eject, left := x.eject, overrun := false } }))
    ∧ (c.phase ≠ .feedIn → s.edgeOn r = s)
    ∧ (c.phase = .lead → s.edgeOff r = s.setScanner { c with shortLead := true })
    ∧ (c.phase = .capture → c.lastLine = false → x.halt ≠ .finish →
      (x.trail ≠ 0 → s.edgeOff r = s.setScanner { c with phase := .trail, trailLeft := x.trail })
      ∧ (x.trail = 0 →
        let u := s.setScanner
          { c with
            phase := .trail, trailLeft := 0, lastLine := true
            mark := if c.mark = .none then .normal else c.mark }
        s.edgeOff r = if s.sf.state = .waitRoom then u.beginEject r else u))
    ∧ (c.phase = .capture → c.lastLine = true ∨ x.halt = .finish → s.edgeOff r = s)
    ∧ (c.phase ≠ .lead → c.phase ≠ .capture → s.edgeOff r = s)
    ∧ (s.sensing = true → s.engines.scanner = some r → x.live = true →
      let u (level : Bool) : State :=
        { s with pins := { s.pins with docEdge := level } }.queueReport (.sensor .docEdge level)
      (s.pins.docEdge = false → exec (.docEdgeChange true) s = .next ((u true).edgeOn r).react)
      ∧ (s.pins.docEdge = true → exec (.docEdgeChange false) s = .next ((u false).edgeOff r).react)))
  ∧ (∀ (s : State) (r : RouteNo), s.engines.scanner = some r →
    let x := s.route r
    let ended := x.kind = some .scanStore ∧ x.live = true ∧ s.scanner.sheetOut = true ∧ x.page = none
      ∧ s.coder.writer.opening = false
    let told := if s.scanner.pageAsked then s.queueReport (.pageDone r x.lastPage x.linesDone) else s
    (¬ended → s.sheetPass = s)
    ∧ (ended → x.halt = .finish → s.sheetPass = s.haltRoute r)
    ∧ (ended → x.halt ≠ .finish →
      (x.continues = false ∨ s.pins.docIn = false → s.sheetPass = s.completeRoute r false none)
      ∧ (x.continues = true → s.pins.docIn = true →
        s.sheetPass = (told.setRoute r
          { x with
            linesDone := 0, badLines := 0, consecBad := 0, lastLineEnd := 0, badReported := false
            lastCounts := some (x.lastCounts.getD (x.linesDone, x.badLines)), skipped := 0 }).beginFeed r)))
  ∧ ∀ s : State,
    (s.sensing = true → s.pins.docIn = false →
      exec (.docInChange true) s = .next
        ((({ s with pins := { s.pins with docIn := true } }.queueReport
          (.sensor .docIn true)).takeWake .docIn).react.resume s.power.level))
    ∧ (s.sensing = true → s.pins.docIn = true →
      exec (.docInChange false) s = .next
        (({ s with pins := { s.pins with docIn := false } }.queueReport
          (.sensor .docIn false)).react.resume s.power.level))
    ∧ (s.sensing = true → s.engines.scanner = none → ∀ level, s.pins.docEdge ≠ level →
      exec (.docEdgeChange level) s = .next
        ({ s with pins := { s.pins with docEdge := level } }.queueReport
          (.sensor .docEdge level)).react)
    ∧ (s.power.level = some .run → s.boot.state = .ready → s.pins.docEdge = false →
      ∀ r, s.engines.scanner = some r → (s.route r).live = true → s.scanner.phase = .feedIn →
      (s.route r).halt ≠ .finish →
      exec (.docEdgeChange true) s = .next
        (({ s with pins := { s.pins with docEdge := true } }.putReport
          (.sensor .docEdge true) false).startLead r).react)
    ∧ (s.sensing = false → ∀ level,
      exec (.docInChange level) s = .next { s with pins := { s.pins with docIn := level } }
      ∧ exec (.docEdgeChange level) s = .next { s with pins := { s.pins with docEdge := level } })

/-- The lamp is WARM after its warm-up, the head supply SETTLED after its settling, which lets a resting PF be
re-examined (R88, R105, R120); that the expiry of a stopped timer leaves the state is the model's choice (log entry
13), and so is the clock's part (log entry 1). The converter's sample replaces the held value of its channel, the next
of the other channel comes 1 ms later, and a θ sample re-examines a resting PF (R104, R106, R120). An ARMED route
starts once its hardware is ready: a SCAN-STORE with a document in and the lamp warm, a COPY with the head settled too,
a PRINT-PAGE with the head settled; it goes RUNNING, PF resting in WAIT-COOL while the head is hot and else in
WAIT-DATA, the sheet fed, the page's fetch begun at its head block (R66, R89, R119). -/
def Obligations.LampSupplyAndConverterTimers : Prop :=
  (∀ (s : State) (x : Route),
    s.armed x = true ↔
      (x.kind = some .scanStore ∧ s.pins.docIn = true ∧ s.scanner.lamp = .warm)
      ∨ (x.kind = some .copy ∧ s.pins.docIn = true ∧ s.scanner.lamp = .warm ∧ s.head.supply = .settled)
      ∨ (x.kind = some .printPage ∧ s.head.supply = .settled))
  ∧ (∀ (s : State) (r : RouteNo),
    let x := s.route r
    let u := s.routeTo r .running
    let placed : State :=
      { u with pf :=
        { u.pf with state := if u.headHot then .waitCool else .waitData, motion := .lines } }
    (x.state ≠ .armed ∨ x.live = false ∨ s.armed x = false → s.armRoute r = s)
    ∧ (x.state = .armed → x.live = true → s.armed x = true →
      (x.kind = some .scanStore → s.armRoute r = u.beginFeed r)
      ∧ (x.kind = some .copy → s.armRoute r = placed.beginFeed r)
      ∧ ∀ p, x.kind = some .printPage → x.page = some p →
        s.armRoute r = { placed with printDec :=
          { PrintDecoder.idleDecoder with
            slot := some r
            fetch :=
              { active := true, block := (u.page p).head, offset := 0
                left := ((u.page p).bitLength + 15) / 16, queue := [] }
            bitLength := (u.page p).bitLength } })
    ∧ s.armPass = (allFin 4).foldl State.armRoute s)
  ∧ (∀ s : State,
     (∀ d, s.scanner.lampTimer = some d →
       exec .lampWarm s = .next
         { s with
           now := max s.now d
           scanner := { s.scanner with lamp := .warm, lampTimer := none } }.react)
     ∧ (∀ d, s.head.settleTimer = some d →
       exec .headSettled s = .next
         ({ s with
           now := max s.now d
           head := { s.head with supply := .settled, settleTimer := none } }.pfReexamine).react)
     ∧ (s.scanner.lampTimer = none → exec .lampWarm s = .next s)
     ∧ (s.head.settleTimer = none → exec .headSettled s = .next s))
  ∧ (∀ (value : Byte) (s : State) (d : Nat), s.head.sampleTimer = some d →
     (s.head.thetaNext = true →
       exec (.converterSample value) s = .next
         ({ s with
           now := max s.now d
           head := { s.head with
             theta := value, thetaNext := false, sampleTimer := some (max s.now d + 1000) } }.pfReexamine).react)
     ∧ (s.head.thetaNext = false →
       exec (.converterSample value) s = .next
         { s with
           now := max s.now d
           head := { s.head with
             volts := value, thetaNext := true, sampleTimer := some (max s.now d + 1000) } }.react))

/-- A burn's load ends with its first phase driven for its width, where the head is ready, and with no burn where it is
not; a width ends with the gap, an over-budget phase counted; the last gap completes the burn and tells PF (R108,
R118). A phase of a burn cut off completes its width and then its gap, beside a burn that has begun since, the earlier
first (R109). That it counts in the record of the slot it burnt for is the model's reading (log entry 29), that a new
burn goes on beside it its choice (log entry 29), and so is the clock's part (log entry 1). The strobe lines driven are
the groups of the phase that fires and of the phases cut off that are driven still, so none in a load or a gap, and
cutting a burn off leaves them as they are (R108, R109); that they are a function of the state is the model's reading
(log entry 39). PF takes a line: it becomes the current line, its slot is free, and its load begins, or a blank one is
complete at once; the watermark in force follows the SETUP, and a take that lowers the ready lines to it withdraws the
stutter request (R107, R108, R112, R145, R154); that a take which leaves them below a watermark raised since withdraws
it too is the model's choice (log entry 70). PF then steps on, or starts from rest, and a COPY's room may let SF on
(R107, R119, R121). At a line's last step without its burn complete PF is stretched, reported above Z (R110, R118);
with it complete the line ends, and a completed burn ends a stretched one (R118). -/
def Obligations.BurnsRunPhaseByPhase : Prop :=
  (∀ (s : State) (r : RouteNo),
    (∀ (l : PlannedLine) (rest : List PlannedLine), s.head.ready = l :: rest →
      let taken : State :=
        { s with
          power := { s.power with watermark := s.setup.watermark }
          head :=
            { s.head with
              ready := rest, current := some l
              burn := some
                { stage := if l.plan.phases = [] then .complete else .loading
                  phases := l.plan.phases, gap := l.plan.gap
                  timer := if l.plan.phases = [] then none else some (s.now + l.plan.load), slot := r } } }
      s.takeLine r
        = if s.power.level = some .run ∧ rest.length ≤ s.setup.watermark then taken.withdrawOrdinary
          else taken)
    ∧ (let u := s.takeLine r
      let first := u.splOf .pf - 1
      let moved := if u.pf.state = .moving then u.stepEvent .pf first else u.restart .pf .lines first
      (s.copying = false → s.pfTake r = moved) ∧ (s.copying = true → s.pfTake r = moved.roomRaised))
    ∧ (s.head.burnDone = true → s.pfLineExpiry r = s.pfLineEnd r)
    ∧ (s.head.burnDone = false →
      let u := { s with pf := { s.pf with stretched := true, timer := none } }
      (s.pf.index ≤ (s.rampInUse .pf).z → s.pfLineExpiry r = u)
      ∧ ∀ l, (s.rampInUse .pf).z < s.pf.index → s.head.current = some l →
        s.pfLineExpiry r = u.queueReport (.stretch r s.pf.index l.plan.burn))
    ∧ (s.head.burnDone = true
      ↔ (s.head.current = none ∨ ∀ b, s.head.burn = some b → b.stage = .complete))
    ∧ (s.engines.printer = some r → s.pf.stretched = true → s.pf.state = .moving →
      s.burnComplete = s.pfLineEnd r)
    ∧ (s.engines.printer = none ∨ s.pf.stretched = false ∨ s.pf.state ≠ .moving → s.burnComplete = s))
  ∧ (∀ (s : State) (b : Burn) (d : Nat), s.head.burn = some b → b.timer = some d → s.head.cutOff = [] →
    let now := max s.now d
    (∀ p rest, b.stage = .loading → b.phases = p :: rest →
      (s.headReady = true →
        exec .strobeTimerExpiry s = .next
          { s with
            now := now
            head := { s.head with
              burn := some { b with stage := .firing, timer := some (now + p.width) } } }.react)
      ∧ (s.headReady = false →
        exec .strobeTimerExpiry s = .next
          { s with now := now, head := { s.head with burn := none } }.react))
    ∧ (∀ p rest, b.stage = .firing → b.phases = p :: rest →
      exec .strobeTimerExpiry s = .next
        ({ (if p.overBudget then
            s.setRoute b.slot { s.route b.slot with
              overPhases := min ((s.route b.slot).overPhases + 1) 65535 }
            else s) with
          now := now
          head := { s.head with
            burn := some { b with stage := .gap, timer := some (now + b.gap) } } }.react))
    ∧ (∀ p, b.stage = .gap → b.phases = [p] →
      exec .strobeTimerExpiry s = .next
        ({ s with
          now := now
          head := { s.head with
            burn := some { b with stage := .complete, phases := [], timer := none } } }.burnComplete).react)
    ∧ (∀ p q rest, b.stage = .gap → b.phases = p :: q :: rest → s.headReady = true →
      exec .strobeTimerExpiry s = .next
        { s with
          now := now
          head := { s.head with
            burn := some
              { b with
                stage := .firing, phases := q :: rest, timer := some (now + q.width) } } }.react))
  ∧ (∀ h : Head,
    (∀ g : Nat, g ∈ h.strobes ↔
      (∃ (b : Burn) (p : Phase) (rest : List Phase), h.burn = some b ∧ b.stage = .firing
        ∧ b.phases = p :: rest ∧ g ∈ p.groups)
      ∨ ∃ c ∈ h.cutOff, c.driven = true ∧ g ∈ c.groups)
    ∧ (∀ b p rest, h.burn = some b → b.stage = .firing → b.phases = p :: rest → h.cutOff = [] →
      h.strobes = p.groups)
    ∧ (∀ b, h.burn = some b → b.stage ≠ .firing → h.cutOff = [] → h.strobes = [])
    ∧ (h.burn = none → h.cutOff = [] → h.strobes = [])
    ∧ ∀ b d, h.burn = some b → b.timer = some d →
      h.cutBurn.burn = none ∧ ∀ g, g ∈ h.cutBurn.strobes ↔ g ∈ h.strobes)
  ∧ ∀ (s : State) (c : CutPhase), s.head.cutOff = [c] →
    (∀ b d, s.head.burn = some b → b.timer = some d → c.ends ≤ d) →
    let now := max s.now c.ends
    (c.driven = true →
      exec .strobeTimerExpiry s = .next
        ({ (match c.slot, c.overBudget with
            | some r, true => s.setRoute r
              { s.route r with overPhases := min ((s.route r).overPhases + 1) 65535 }
            | _, _ => s) with
          now := now
          head := { s.head with
            cutOff := [{ c with driven := false, ends := now + c.gap }] } }.react))
    ∧ (c.driven = false →
      exec .strobeTimerExpiry s = .next
        { s with now := now, head := { s.head with cutOff := [] } }.react)

/-- The target of a step event is the lowest of the motor's top and of every ceiling of its motion, and the index
moves one place at most toward it (R115, R117). The ceilings are R117's: Z in a run-down, Z and the steps remaining in a
move, and Z alone once its count is out; in a line, Z and the steps remaining with those of
the lines ready for PF, or of the slots free for SF, the highest index whose line time is not below the longest burn,
or not below the scan period, and Z while PF's head is hot or unsettled or PAPER is out (R117, R118). The highest
index is 0 where no line time is long enough. The longest burn is that of one of the current and the READY lines, and 0
where there is none; the scan period is the larger of the SHADE table's T_int and 864 µs (R83, R117). That a
motor without a motion has the one ceiling 0 is the model's choice (log entry 60). -/
def Obligations.TargetIsTheLowestCeiling : Prop :=
  (∀ (s : State) (m : MotorName) (r : Nat),
    s.target m r ≤ s.topOf m ∧ (∀ c ∈ s.ceilings m r, s.target m r ≤ c)
    ∧ s.target m r ∈ s.topOf m :: s.ceilings m r
    ∧ ∀ index target : Nat,
      (index < target → towards index target = index + 1)
      ∧ (target < index → towards index target + 1 = index) ∧ (index = target → towards index target = index))
  ∧ (∀ (s : State) (m : MotorName) (r : Nat), let z := (s.rampInUse m).z
    ((s.motor m).motion = .none → s.ceilings m r = [0])
    ∧ ((s.motor m).motion = .runDown → s.ceilings m r = [z])
    ∧ (∀ owner, (s.motor m).motion = .move owner →
      s.ceilings m r = if (s.motor m).overrun then [z] else [z + r]))
  ∧ (∀ (s : State) (r c : Nat), s.pf.motion = .lines →
    (c ∈ s.ceilings .pf r ↔
      c = (s.rampInUse .pf).z + r + s.head.ready.length * s.splOf .pf
      ∨ c = (if s.head.largestBurn = 0 then (s.rampInUse .pf).periods.length - 1
          else highestIndex (s.rampInUse .pf) (s.splOf .pf) s.head.largestBurn)
      ∨ (c = (s.rampInUse .pf).z
          ∧ (s.headHot = true ∨ s.pins.paperOut = true ∨ s.head.supply ≠ .settled))))
  ∧ (∀ (s : State) (r c : Nat), s.sf.motion = .lines →
    (c ∈ s.ceilings .sf r ↔
      c = (s.rampInUse .sf).z + r + s.scanFree * s.splOf .sf
      ∨ c = highestIndex (s.rampInUse .sf) (s.splOf .sf) s.scanPeriod))
  ∧ (∀ (ramp : Ramp) (spl time : Nat),
    (∀ i < ramp.periods.length, time ≤ ramp.periods.getD i 0 * spl →
      (∀ j, i < j → j < ramp.periods.length → ramp.periods.getD j 0 * spl < time) →
      highestIndex ramp spl time = i)
    ∧ ((∀ j < ramp.periods.length, ramp.periods.getD j 0 * spl < time) → highestIndex ramp spl time = 0))
  ∧ (∀ s : State, let lines := s.head.current.toList ++ s.head.ready
    (∀ l ∈ lines, l.plan.burn ≤ s.head.largestBurn)
    ∧ (lines = [] → s.head.largestBurn = 0)
    ∧ (lines ≠ [] → ∃ l ∈ lines, l.plan.burn = s.head.largestBurn))
  ∧ ∀ (s : State) (r : RouteNo), s.engines.scanner = some r →
    let shade := s.storage (s.route r).shade
    s.scanPeriod = max 864 ((shade.getD 27 0).toNat + 256 * (shade.getD 28 0).toNat)

/-- A step event within a line puts out the next phase forward or back, counts the step off, moves the index one place
toward the target and loads R[index] (R115). A run-down at or below Z comes to rest IDLE and gives up its claim (R125,
R126), and a MOVE that is out of steps there ends with its MOVED report and unbinds its slot (R123, R124). The hold
timer's expiry turns the motor's drive off, its index and phase kept (R126). The phase lines are those of the phase's
half-step pattern at DRIVEN and at HOLD, held at hold current at HOLD, and none at OFF (R115, R126). That the expiry of
a stopped hold timer leaves the state is the model's choice (log entry 13), and so is the clock's part (log entry 1). A
step timer's expiry goes on by the motion: a run-down above Z steps on, a MOVE as its steps and Z allow, its end its
owner's, and the last step of a line ends it (R115, R118, R121 to R125). A motor that starts takes its first step at
R[0] (R116), a MOVE in its direction, and one that rests holds as its ramp says (R126). SF's line end goes from LEAD to
CAPTURE, or TRAIL for a short sheet, then ejects after the last line, takes the next while the ring has room or it
moves above Z, or rests in WAIT-ROOM until room comes (R91 to R94, R121, R122). EJECT ends with the sheet out (R94),
the phase staying EJECT, the model's reading (log entry 66), and so is the step count that MOVED reports (log entry
31). -/
def Obligations.StepsAndHoldsFollowTheirMotion : Prop :=
  (∀ (m : MotorName) (s : State) (left : Nat),
    let mo := s.motor m
    let ramp := s.rampInUse m
    let index := towards mo.index (s.target m left)
    let hold : Motor :=
      { mo with
        hold := if 0 < ramp.hold then .hold else .off
        holdTimer := if 0 < ramp.hold then some (s.now + ramp.hold * 10000) else none }
    let spent := mo.overrun = true ∨ left = 0
    (∀ d, mo.timer = some d →
      exec (.stepTimerExpiry m) s = .next ({ s with now := max s.now d }.stepExpiry m).react)
    ∧ s.stepEvent m left = s.setMotor m
      { mo with
        state := .moving, phase := if mo.back then (mo.phase + 7) % 8 else (mo.phase + 1) % 8
        left := left, index := index, stretched := false
        taken := match mo.motion with
          | .move _ => mo.taken + 1
          | _ => mo.taken
        timer := some (s.now + ramp.periods.getD index 0) }
    ∧ (∀ motion : Motion,
      let back := mo.back && decide (motion = .move .order)
      s.restart m motion left = s.setMotor m
        { mo with
          state := .moving, index := 0, back := back
          phase := if back then (mo.phase + 7) % 8 else (mo.phase + 1) % 8, motion := motion, left := left
          overrun := false, stretched := false, hold := .driven, holdTimer := none
          taken := match motion with
            | .move _ => 1
            | _ => 0
          timer := some (s.now + ramp.periods.getD 0 0) })
    ∧ (∀ state motion, s.restMotor m state motion = s.setMotor m
      { hold with
        state := state, motion := motion, timer := none, left := 0, overrun := false
        stretched := false })
    ∧ (¬spent → s.moveStep m left = (s.stepEvent m (left - 1), false))
    ∧ (spent → mo.index ≤ ramp.z → s.moveStep m left = (s.restMotor m .idle .none, true))
    ∧ (spent → ramp.z < mo.index →
      s.moveStep m left = ((s.setMotor m { mo with overrun := true }).stepEvent m 0, false))
    ∧ (mo.motion = .none → s.stepExpiry m = s)
    ∧ (mo.motion = .runDown → ramp.z < mo.index → s.stepExpiry m = s.stepEvent m 0)
    ∧ (∀ owner, mo.motion = .move owner →
      let x := s.moveStep m mo.left
      (x.2 = false → s.stepExpiry m = x.1) ∧ (x.2 = true → s.stepExpiry m = x.1.moveDone m owner))
    ∧ (mo.motion = .lines → mo.left = 0 → ∀ r,
      (m = .pf → s.engines.printer = some r → s.stepExpiry m = s.pfLineExpiry r)
      ∧ (m = .sf → s.engines.scanner = some r → s.stepExpiry m = s.scanLineEnd r))
    ∧ s.moveDone m .eject = s.sheetIsOut
    ∧ (∀ r, s.engines.scanner = some r → s.moveDone m .feedIn = s.feedInDone r))
  ∧ (∀ (s : State) (r : RouteNo),
    let c := s.scanner
    let after : State :=
      if c.phase = .lead then
        s.setScanner
          { c with
            phase := if c.shortLead then .trail else .capture
            lastLine := c.shortLead && decide ((s.route r).trail = 0) }
      else s
    let ejects := after.scanner.lastLine = true ∨ (s.route r).halt = .finish
    (ejects → s.scanLineEnd r = after.beginEject r)
    ∧ (¬ejects →
      (0 < s.scanFree ∨ (s.sf.state = .moving ∧ (s.rampInUse .sf).z < s.sf.index) →
        s.scanLineEnd r = after.takeScanLine r)
      ∧ (s.scanFree = 0 → s.sf.state = .moving → s.sf.index ≤ (s.rampInUse .sf).z →
        s.scanLineEnd r = after.restMotor .sf .waitRoom .lines)
      ∧ (s.scanFree = 0 → s.sf.state ≠ .moving →
        s.scanLineEnd r = { after with sf := { s.sf with state := .waitRoom, motion := .lines } }))
    ∧ (s.sf.state = .moving →
      s.takeScanLine r = (s.stepEvent .sf (s.splOf .sf - 1)).lineStart r)
    ∧ (s.sf.state ≠ .moving →
      s.takeScanLine r = (s.restart .sf .lines (s.splOf .sf - 1)).lineStart r)
    ∧ (s.engines.scanner = some r →
      (s.sf.state = .waitRoom → 0 < s.scanFree → (s.route r).live = true →
        s.roomRaised = s.takeScanLine r)
      ∧ (s.sf.state ≠ .waitRoom ∨ s.scanFree = 0 ∨ (s.route r).live = false → s.roomRaised = s)))
  ∧ (∀ (s : State) (r : RouteNo),
    let count := (s.route r).eject
    let u := s.setScanner { s.scanner with phase := .eject, lastLine := true }
    let x := ({ u with sf := { s.sf with motion := .move .eject, overrun := false } } : State).moveStep
      .sf count
    (s.sf.state = .moving →
      (x.2 = false → s.beginEject r = x.1) ∧ (x.2 = true → s.beginEject r = x.1.sheetIsOut))
    ∧ (s.sf.state ≠ .moving →
      (count ≠ 0 → s.beginEject r = u.restart .sf (.move .eject) (count - 1))
      ∧ (count = 0 →
        s.beginEject r = { u with sf := { s.sf with state := .idle, motion := .none } }.sheetIsOut))
    ∧ s.sheetIsOut = { s with scanner := { s.scanner with sheetOut := true } })
  ∧ (∀ (m : MotorName) (s : State) (d : Nat), (s.motor m).timer = some d →
     let u : State := { s with now := max s.now d }
     let mo := s.motor m
     (mo.motion = .lines → 0 < mo.left →
       let index := towards mo.index (u.target m (mo.left - 1))
       exec (.stepTimerExpiry m) s = .next
         (u.setMotor m
           { mo with
             state := .moving
             phase := if mo.back then (mo.phase + 7) % 8 else (mo.phase + 1) % 8
             left := mo.left - 1, index := index, stretched := false
             timer := some (u.now + (s.rampInUse m).periods.getD index 0) }).react)
     ∧ (mo.motion = .runDown → mo.index ≤ (s.rampInUse m).z →
       exec (.stepTimerExpiry m) s = .next
         (u.setMotor m
           { mo with
             state := .idle, motion := .none, timer := none, left := 0, overrun := false
             stretched := false, claim := none, copy := none
             hold := if 0 < (s.rampInUse m).hold then .hold else .off
             holdTimer := if 0 < (s.rampInUse m).hold then
               some (u.now + (s.rampInUse m).hold * 10000) else none }).react)
     ∧ (∀ t, mo.motion = .move .order → mo.slot = some t → mo.left = 0 →
       mo.index ≤ (s.rampInUse m).z → s.dozing = false →
       exec (.stepTimerExpiry m) s = .next
         (((u.setTable t { u.table t with binds := (u.table t).binds - 1 }).setMotor m
           { mo with
             state := .idle, motion := .none, timer := none, left := 0, overrun := false
             stretched := false, claim := none, slot := none
             hold := if 0 < (s.rampInUse m).hold then .hold else .off
             holdTimer := if 0 < (s.rampInUse m).hold then
               some (u.now + (s.rampInUse m).hold * 10000) else none }).putReport
           (.moved m mo.taken false) false).react))
  ∧ (∀ (m : MotorName) (s : State),
     (∀ d, (s.motor m).holdTimer = some d →
       exec (.holdTimerExpiry m) s = .next
         ({ s with now := max s.now d }.setMotor m { s.motor m with hold := .off, holdTimer := none }))
     ∧ ((s.motor m).holdTimer = none → exec (.holdTimerExpiry m) s = .next s))
  ∧ ∀ m : Motor,
    (m.hold = .off → m.lines = []) ∧ (m.hold ≠ .off → m.lines = patternLines m.phase)
    ∧ (m.holdSelect = true ↔ m.hold = .hold)
    ∧ (List.range 8).map patternLines
      = [[.a], [.a, .b], [.b], [.b, .c], [.c], [.c, .d], [.d], [.d, .a]]

/-- A change of PAPER is reported; its presence re-examines a resting PF, and its loss fails a resting print route and
every ARMED one that would print (R66, R120). That a level that does not change leaves the state is the model's choice
(log entry 13). PF at rest in a print takes the next ready line with the head settled and not hot, COVER closed and
PAPER present, and else rests in WAIT-COOL or WAIT-DATA; without paper the route fails PAPER (R107, R119, R120). At a
line's end it takes the next line, above Z without asking for cool head and paper; else it comes to rest, in WAIT-DATA
with the print complete, and fails PAPER out of WAIT-PAPER (R111, R118 to R120). The head is hot at its stop
temperature (R106). A print is complete with its decoder told or its sheet's captures ended, no line ready and none
burning (R76, R111). -/
def Obligations.PaperIsReportedAndWatched : Prop :=
  (∀ (s : State) (r : RouteNo),
    (s.engines.printer = none → s.pfReexamine = s ∧ s.pfPaperOut = s ∧ s.headHot = false)
    ∧ (s.engines.printer = some r →
      let rests := (s.pf.state = .waitData ∨ s.pf.state = .waitCool) ∧ (s.route r).live = true
        ∧ s.printComplete r = false
      let takes := s.head.ready ≠ [] ∧ s.head.supply = .settled ∧ s.pins.coverOpen = false
        ∧ s.headHot = false ∧ s.pins.paperOut = false
      (¬rests → s.pfReexamine = s ∧ s.pfPaperOut = s)
      ∧ (rests →
        (takes → s.pfReexamine = s.pfTake r)
        ∧ (¬takes → s.pfReexamine = { s with pf :=
          { s.pf with
            state := if s.headHot = true ∨ s.head.supply ≠ .settled then .waitCool else .waitData } })
        ∧ (s.pins.paperOut = true → s.pfPaperOut = s.failRoute r .paper)
        ∧ (s.pins.paperOut = false → s.pfPaperOut = s))
      ∧ (s.headHot = true ↔ (heatOf (s.storage (s.route r).heat)).stop ≤ s.head.theta.toNat / 16))
    ∧ (s.printComplete r = true ↔
      (if (s.route r).kind = some .copy then
          (s.scanner.lastLine = true ∨ s.scanner.sheetOut = true ∨ (s.route r).halt = .finish)
            ∧ s.scanner.capturing = false
        else s.printDec.told = true ∧ s.printDec.held = none)
        ∧ s.head.ready = []
        ∧ (s.head.current = none ∨ ∀ b, s.head.burn = some b → b.stage = .complete))
    ∧ (let asks := s.head.ready ≠ [] ∧ ((s.rampInUse .pf).z < s.pf.index
        ∨ (s.head.supply = .settled ∧ s.headHot = false ∧ s.pins.paperOut = false))
      let granted := s.head.supply = .settled ∧ s.pins.coverOpen = false
      let u : State := { s with head := { s.head with current := none, burn := none } }
      (asks → granted → s.pfLineEnd r = s.pfTake r)
      ∧ (¬(asks ∧ granted) →
        (s.printComplete r = true → s.pfLineEnd r = u.restMotor .pf .waitData .lines)
        ∧ (s.printComplete r = false →
          (s.pins.paperOut = true →
            s.pfLineEnd r = (u.restMotor .pf .waitPaper .lines).failRoute r .paper)
          ∧ (s.pins.paperOut = false →
            s.pfLineEnd r = u.restMotor .pf
              (if s.headHot = true ∨ s.head.supply ≠ .settled then .waitCool else .waitData) .lines)))))
  ∧ ∀ s : State, s.boot.state = .ready → s.power.level ≠ some .retain →
    (s.pins.paperOut = true →
      exec (.paperChange true) s = .next
        (({ s with pins := { s.pins with paperOut := false } }.queueReport
          (.sensor .paper true)).pfReexamine).react)
    ∧ (s.pins.paperOut = false →
      let u := { s with pins := { s.pins with paperOut := true } }.queueReport (.sensor .paper false)
      exec (.paperChange false) s = .next
        (u.armedPrinters.foldl (fun v r => v.failRoute r .paper) u.pfPaperOut).react)
    ∧ (s.pins.paperOut = false → exec (.paperChange true) s = .next s)
    ∧ (s.pins.paperOut = true → exec (.paperChange false) s = .next s)

/-- The blade leaving HOME in OUT is on its way BACK, and HOME in BACK ends the cut: an order's with its report, a
route's with the route's end, HALTED where a NOW waited on the cut and else complete (R75, R76, R129, R130). The cutter
timer's expiry is a FAULT of the cutter and of PRINTER, reported TIMEOUT; the route whose cut it was ends
FAILED(CUTTER), or HALTED where a NOW waited on it (R75, R130). That its expiry while it is stopped leaves the state is
the model's choice (log entry 13), and so is the clock's part (log entry 1), and what becomes of a cut whose route has
ended: at its timeout the route that claims PRINTER since ends FAILED(CUTTER) (log entry 50, R80). A route halted NOW
while such a cut is under way waits on it, and ends HALTED as it ends or times out (R75). A print that is complete, at
rest and of a COPY its sheet out, ends in the event, or with CUT-AFTER, not halted, runs its tail and then cuts, at
once with no tail steps (R74, R76, R111, R131). A cut starts OUT from HOME, else BACK, its timer running (R130); a cut
whose route has ended becomes the new owner's, the model's choice (log entry 50). -/
def Obligations.CutsEndAtHomeOrTimeOut : Prop :=
  (∀ (s : State) (r : RouteNo), s.engines.printer = some r →
    let x := s.route r
    let due := x.live = true ∧ (x.state = .running ∨ x.state = .halting) ∧ x.halt ≠ .nowWaiting
      ∧ x.cutStage = .none ∧ s.printComplete r = true ∧ s.pf.state ≠ .moving
      ∧ (x.kind = some .copy → s.scanner.sheetOut = true)
    let tailing := s.setRoute r { x with cutStage := .tail }
    (¬due → s.printEndPass = s)
    ∧ (due → x.cutAfter = false ∨ x.halt = .finish →
      s.printEndPass = s.completeRoute r s.printDec.unterminated none)
    ∧ (due → x.cutAfter = true → x.halt = .none → x.tail ≠ 0 →
      s.printEndPass = tailing.restart .pf (.move .tail) (x.tail - 1))
    ∧ (due → x.cutAfter = true → x.halt = .none → x.tail = 0 →
      s.printEndPass = { tailing with pf := { s.pf with state := .idle, motion := .none } }.routeCut r)
    ∧ (∀ m, s.moveDone m .tail = s.routeCut r)
    ∧ s.routeCut r = (s.setRoute r { x with cutStage := .cut }).startCut (.route r)
    ∧ ∀ owner,
      (s.cutter.state = .idle →
        s.startCut owner = { s with cutter :=
          { state := if s.pins.home then .out else .back
            timer := some (s.now + 1000 * s.setup.cutter), owner := some owner } })
      ∧ (s.cutter.state = .out ∨ s.cutter.state = .back → s.cutter.owner = none →
        s.startCut owner = { s with cutter := { s.cutter with owner := some owner } }))
  ∧ ∀ s : State,
    (s.cutter.state = .out → s.pins.home = true →
      exec (.homeChange false) s = .next
        { s with
          pins := { s.pins with home := false }
          cutter := { s.cutter with state := .back } })
    ∧ (s.cutter.state = .back → s.pins.home = false → s.cutter.owner = some .order →
      exec (.homeChange true) s = .next
        ({ s with
          pins := { s.pins with home := true }
          cutter := { state := .idle, timer := none, owner := none } }.queueReport .cutDone).react)
    ∧ (∀ owner, s.cutter.state = .back → s.pins.home = false → s.cutter.owner = owner →
      let u : State :=
        { s with
          pins := { s.pins with home := true }
          cutter := { state := .idle, timer := none, owner := none } }
      (owner = none →
        ((∀ r, s.engines.printer = some r → (s.route r).halt ≠ .nowWaiting) →
          exec (.homeChange true) s = .next u.react)
        ∧ ∀ r, s.engines.printer = some r → (s.route r).halt = .nowWaiting →
          exec (.homeChange true) s = .next (u.haltRoute r).react)
      ∧ ∀ r, owner = some (.route r) →
        ((s.route r).halt = .nowWaiting → exec (.homeChange true) s = .next (u.haltRoute r).react)
        ∧ ((s.route r).halt ≠ .nowWaiting →
          exec (.homeChange true) s = .next
            (u.completeRoute r s.printDec.unterminated none).react))
    ∧ (∀ d, s.cutter.timer = some d → s.cutter.owner = some .order →
      exec .cutterTimeout s = .next
        ({ s with
          now := max s.now d
          cutter := { state := .fault, timer := none, owner := none }
          engines := { s.engines with printerFault := true } }.queueReport (.cutTimeout none)).react)
    ∧ (∀ d r, s.cutter.timer = some d → s.cutter.owner = some (.route r) →
      (s.route r).halt ≠ .nowWaiting →
      exec .cutterTimeout s = .next
        (({ s with
          now := max s.now d
          cutter := { state := .fault, timer := none, owner := none }
          engines := { s.engines with printerFault := true } }.queueReport
            (.cutTimeout (some r))).failRoute r .cutter).react)
    ∧ (∀ d r, s.cutter.timer = some d → s.cutter.owner = some (.route r) →
      (s.route r).halt = .nowWaiting →
      exec .cutterTimeout s = .next
        (({ s with
          now := max s.now d
          cutter := { state := .fault, timer := none, owner := none }
          engines := { s.engines with printerFault := true } }.queueReport
            (.cutTimeout (some r))).haltRoute r).react)
    ∧ (∀ d, s.cutter.timer = some d → s.cutter.owner = none →
      let u := { s with
        now := max s.now d
        cutter := { state := .fault, timer := none, owner := none }
        engines := { s.engines with printerFault := true } }.queueReport (.cutTimeout none)
      (s.engines.printer = none → exec .cutterTimeout s = .next u.react)
      ∧ ∀ r, s.engines.printer = some r →
        ((s.route r).halt ≠ .nowWaiting →
          exec .cutterTimeout s = .next (u.failRoute r .cutter).react)
        ∧ ((s.route r).halt = .nowWaiting →
          exec .cutterTimeout s = .next (u.haltRoute r).react))
    ∧ (s.cutter.timer = none → exec .cutterTimeout s = .next s)

/-! ## COVER and power (chapters 4 and 9) -/

/-- From READY on, but at RETAIN, an opening of COVER stops the mechanics at once, fails every live route at SCANNER or
PRINTER, puts both engines into FAULT, and is reported, not withheld, and a wake cause; a closing is reported so and,
at RUN, turns the supply on, and leaves the faults to CLEAR (R79, R80, R105, R148, R152). The wake cause COVER is
recorded alone at RUN and WAKING, begins a full wake at DOZE, where the controller leaves self-refresh for WAKING, and
has no effect in power-fail entry and at RETAIN (R39, R148, R149); where the event wakes the part to RUN the parser
resumes, and at RUN no wake is due (R149). Before READY and at RETAIN the level of the pin alone changes (R155, R165).
That an opening while open and a closing while closed leave the state is the model's choice (log entry 13). The stop of
the mechanics: both motors IDLE with drive off, claims, copies and slots given up; a MOVE cut short reports MOVED by
COVER, and not by PFAIL; the cutter in OUT is IDLE, in BACK in FAULT, with STOPPED reported by COVER; the head supply
is OFF and the burn ends (R79, R105, R109, R124, R127, R131, R155). Of the routes, each live one at SCANNER or PRINTER
fails COVER, as `RouteEndsInOneEvent` says; a STALLED one may go RUNNING by the blocks this frees (R16, R79). That the
request withdrawn in SELF-REFRESH stays PLACED until WAKING ends is the model's reading (log entry 36). -/
def Obligations.CoverStopsTheMechanics : Prop :=
  (∀ (s : State) (report : Bool),
    let u := s.stopMechanics report
    let pf := if report = true ∧ s.pf.slot ≠ none then enqueue (.moved .pf s.pf.taken true) false s.reports
      else s.reports
    let sf := if report = true ∧ s.sf.slot ≠ none then enqueue (.moved .sf s.sf.taken true) false pf else pf
    (∀ m, u.motor m
        = { s.motor m with
            state := .idle, motion := .none, timer := none, left := 0, overrun := false
            stretched := false, hold := .off, holdTimer := none, claim := none, slot := none
            copy := none })
    ∧ (∀ t, u.table t
        = { s.table t with
            binds := (s.table t).binds - (if s.pf.slot = some t then 1 else 0)
              - (if s.sf.slot = some t then 1 else 0) })
    ∧ u.head = { s.head with supply := .off, settleTimer := none, burn := none, cutOff := [] }
    ∧ (s.cutter.state = .out → u.cutter = { state := .idle, timer := none, owner := none })
    ∧ (s.cutter.state = .back → u.cutter = { state := .fault, timer := none, owner := none })
    ∧ (s.cutter.state ≠ .out → s.cutter.state ≠ .back → u.cutter = s.cutter)
    ∧ u.reports
      = (if report = true ∧ (s.cutter.state = .out ∨ s.cutter.state = .back) then
          enqueue (.cutStopped (if s.cutter.state = .out then .idle else .fault)) false sf
        else sf)
    ∧ { u with
        pf := s.pf, sf := s.sf, tables := s.tables, head := s.head, cutter := s.cutter
        reports := s.reports } = s)
  ∧ (∀ s : State,
    s.failMechanics
        = (allFin 4).foldl
          (fun u r =>
            if (u.route r).usesScanner || (u.route r).usesPrinter then u.failRoute r .cover else u) s
      ∧ ∀ r,
        let x := s.route r
        let y := s.failMechanics.route r
        (x.live = true → x.usesScanner = true ∨ x.usesPrinter = true →
          y.outcome = some .failed ∧ y.cause = some .cover ∧ y.live = false)
        ∧ (x.live = false ∨ (x.usesScanner = false ∧ x.usesPrinter = false) →
          { y with state := x.state } = x ∧ y.live = x.live))
  ∧ (∀ s : State, s.boot.state = .ready → s.power.level ≠ some .retain →
    (s.pins.coverOpen = false →
      let u := ({ s with pins := { s.pins with coverOpen := true } }.stopMechanics true).failMechanics
      exec .coverOpening s = .next
        ((({ u with engines := { u.engines with scannerFault := true, printerFault := true } }.putReport
          (.sensor .cover true) false).takeWake .cover).react.resume s.power.level))
    ∧ (s.pins.coverOpen = true →
      let u := { s with pins := { s.pins with coverOpen := false } }.putReport (.sensor .cover false) false
      exec .coverClosing s = .next
        (((if s.power.level = some .run then u.supplyOn else u).takeWake .cover).react.resume
          s.power.level)))
  ∧ (∀ s : State, s.boot.state ≠ .ready ∨ s.power.level = some .retain →
    (s.pins.coverOpen = false →
      exec .coverOpening s = .next { s with pins := { s.pins with coverOpen := true } })
    ∧ (s.pins.coverOpen = true →
      exec .coverClosing s = .next { s with pins := { s.pins with coverOpen := false } }))
  ∧ (∀ s : State,
    (s.pins.coverOpen = true → exec .coverOpening s = .next s)
    ∧ (s.pins.coverOpen = false → exec .coverClosing s = .next s)
    ∧ s.resume (some .run) = s)
  ∧ ∀ s : State,
    let record : Power :=
      { s.power with
        wakeFirst := some (s.power.wakeFirst.getD .cover)
        wakeSet := if .cover ∈ s.power.wakeSet then s.power.wakeSet else s.power.wakeSet ++ [.cover] }
    (s.power.level = some .run ∨ s.power.level = some .waking →
      s.takeWake .cover = { s with power := record })
    ∧ (s.power.level = some .doze → s.power.request = .ordinary → s.store.request = .ordinary →
      s.store.state = .selfRefresh →
      s.takeWake .cover
        = { s with
            power := { record with level := some .waking, step := .none, abandoned := false }
            store :=
              { s.store with
                state := .waking, request := .none, wakeTimer := some (s.now + 200) } })
    ∧ (s.power.level = some .enteringRetain ∨ s.power.level = some .retain → s.takeWake .cover = s)

/-- WAKE's assertion at DOZE is the wake cause WAKE: it is recorded, the level is WAKING, and the controller leaves
self-refresh for WAKING; its deassertion only changes the level of the pin (R39, R148, R149). With the directory write
queue drained in DOZE entry the request for self-refresh is placed; with the controller ON and nothing left to do, DOZE
is entered in the event (R38, R147). Until then the drain goes on. A first sync at DOZE or ENTERING-DOZE moves the
level to DOZE-RX, with LINE recorded: the controller leaves self-refresh or its entry, the converter stands still, and
the page's reception begins (R104, R136, R148, R150). The end of a LINE-RECEIVE at DOZE-RX, or of its page under
CONTINUE, returns the part to DOZE by R147's steps where no error report wakes it (R151, R152). Any wake cause is
recorded once, the first kept. At RUN and WAKING it does no more; at ENTERING-DOZE, DOZE and DOZE-RX it moves to
WAKING, the request withdrawn, an entry abandoned marked so, and reaches RUN in the event with the controller ON (R147
to R149). RUN is reached with the supply on where DOZE turned it off and COVER is closed, the converter resumed with θ,
every mark of withholding cleared, and LEVEL RUN queued with first cause, set and mark (R104, R105, R149, R152). That a
request withdrawn in SELF-REFRESH stays PLACED until WAKING ends, and is NONE at once from ENTERING, is the model's
reading, and so is when the converter resumes (log entries 36, 22). -/
def Obligations.DozeIsEnteredAndLeft : Prop :=
  (∀ (s : State) (c : WakeCause),
    let record : Power :=
      { s.power with
        wakeFirst := some (s.power.wakeFirst.getD c)
        wakeSet := if c ∈ s.power.wakeSet then s.power.wakeSet else s.power.wakeSet ++ [c] }
    (s.power.level = some .run ∨ s.power.level = some .waking →
      s.takeWake c = { s with power := record })
    ∧ (∀ level : Level, s.power.level = some level →
      level = Level.enteringDoze ∨ level = .doze ∨ level = .dozeRx →
      let u := { s with power :=
        { record with
          level := some .waking, step := .none
          abandoned := decide (level = Level.enteringDoze) } }.withdrawOrdinary
      (u.store.state = .on → s.takeWake c = u.completeRun)
      ∧ (u.store.state ≠ .on → s.takeWake c = u))
    ∧ (s.power.level = none ∨ s.power.level = some .enteringRetain ∨ s.power.level = some .retain →
      s.takeWake c = s))
  ∧ (∀ s : State,
    let u := s.completeRun
    let on := s.power.drivesOff = true ∧ s.pins.coverOpen = false ∧ s.head.supply = .off
    u.power
        = { s.power with
            level := some .run, step := .none, drivesOff := false, abandoned := false, asleep := false }
      ∧ u.head
        = { s.head with
            supply := if on then (if s.setup.settle = 0 then .settled else .settling) else s.head.supply
            settleTimer :=
              if on then (if s.setup.settle = 0 then none else some (s.now + 1000 * s.setup.settle))
              else s.head.settleTimer
            thetaNext := s.power.asleep || s.head.thetaNext
            sampleTimer := if s.power.asleep then some (s.now + 1000) else s.head.sampleTimer }
      ∧ u.reports
        = enqueue (.levelRun s.power.wakeFirst s.power.wakeSet s.power.abandoned) false
            (s.reports.map fun e => { e with withheld := false })
      ∧ { u with power := s.power, head := s.head, reports := s.reports } = s)
  ∧ (∀ s : State,
     (s.power.level = some .doze → s.power.request = .ordinary → s.store.request = .ordinary →
       s.store.state = .selfRefresh → s.power.wakeFirst = none → s.power.wakeSet = [] →
       exec (.wake true) s = .next
         ({ s with
           pins := { s.pins with wake := true }
           power :=
             { s.power with
               level := some .waking, step := .none, abandoned := false
               wakeFirst := some .wake, wakeSet := [.wake] }
           store :=
             { s.store with
               state := .waking, request := .none, wakeTimer := some (s.now + 200) } }.react.resume s.power.level))
     ∧ exec (.wake false) s = .next { s with pins := { s.pins with wake := false } })
  ∧ (∀ s : State, s.power.level = some .enteringDoze → s.power.step = .drain →
     (s.pool.dirQueue = [] → s.store.state = .on → s.store.burst = none → s.store.backlog = 0 →
       s.urgentWaits = false →
       exec .dozeDrainDone s = .next
         { s with
           head := { s.head with sampleTimer := none }
           store :=
             { s.store with
               state := .selfRefresh, request := .ordinary, backlog := 0, refreshTimer := none
               scrubTimer := none }
           power :=
             { s.power with
               level := some .doze, step := .none, request := .ordinary, asleep := true } }.react)
     ∧ (s.pool.dirQueue ≠ [] → exec .dozeDrainDone s = .next s))
  ∧ (∀ (b : Bool) (s : State) (r : RouteNo), s.line.slot = some r → (s.route r).live = true →
     s.line.rx = .seeking → s.pins.lineValid = true →
     s.power.level = some .doze ∨ s.power.level = some .enteringDoze →
     let sync := syncBits (s.storage (s.route r).code)
     let window := (s.line.window ++ [b]).drop ((s.line.window ++ [b]).length - 16)
     sync ≠ [] → sync.isSuffixOf window = true →
     ∃ u : State, exec (.firstSync [b]) s
         = .next (((u.routeTo r .running).askOpen r .lineReceive).react.resume s.power.level)
       ∧ u.power.level = some .dozeRx ∧ u.power.step = .none ∧ u.power.asleep = true
       ∧ u.power.wakeFirst = some (s.power.wakeFirst.getD .line)
       ∧ u.power.wakeSet
         = (if .line ∈ s.power.wakeSet then s.power.wakeSet else s.power.wakeSet ++ [.line])
       ∧ u.head = { s.head with sampleTimer := none } ∧ u.line.rx = .storing
       ∧ u.line.rxFifo.flatMap bitsOfByte ++ u.line.assembly = sync
       ∧ u.routes = s.routes ∧ u.pages = s.pages ∧ u.pool = s.pool ∧ u.reports = s.reports
       ∧ (s.power.request = .ordinary → s.store.request = .ordinary →
         (s.store.state = .selfRefresh →
           u.power.request = .ordinary ∧ u.store =
             { s.store with
               state := .waking, request := .none, wakeTimer := some (s.now + 200) })
         ∧ (s.store.state = .entering →
           u.power.request = .none ∧ u.store =
             { s.store with
               state := .on, request := .none, burst := s.store.burst.map Burst.notFinal })))
  ∧ (∀ (s : State) (r : RouteNo) (f : Fate), s.power.level = some .dozeRx →
     (s.route r).kind = some .lineReceive → s.power.quietErrors = true ∨ f.cause = none →
     (s.finishRoute r f).power.level = some .enteringDoze
       ∨ (s.finishRoute r f).power.level = some .doze)
  ∧ (∀ (s : State) (r : RouteNo) (p : PageNo) (c : PageClose), s.power.level = some .dozeRx →
     s.pins.lineValid = true →
     let u := s.rxAgain r p c
     (u.power.level = some .enteringDoze ∨ u.power.level = some .doze)
       ∧ (u.route r).state = .armed ∧ u.line.rx = .seeking ∧ u.line.slot = some r)
  ∧ ∀ s : State, s.power.level = some .dozeRx →
     let off : State :=
       { s with
         head := { s.head with supply := .off, settleTimer := none, burn := none, cutOff := [] }
         pf := { s.pf with hold := .off, holdTimer := none }
         sf := { s.sf with hold := .off, holdTimer := none }
         power := { s.power with level := some .enteringDoze, step := .drain, drivesOff := true } }
     (s.pool.dirQueue ≠ [] → s.returnToDoze (some .lineReceive) = off)
     ∧ (s.pool.dirQueue = [] → s.store.state = .on → s.store.burst = none → s.store.backlog = 0 →
       s.urgentWaits = false →
       s.returnToDoze (some .lineReceive)
         = { off with
             head := { off.head with sampleTimer := none }
             store :=
               { s.store with
                 state := .selfRefresh, request := .ordinary, backlog := 0, refreshTimer := none
                 scrubTimer := none }
             power :=
               { off.power with
                 level := some .doze, step := .none, request := .ordinary, asleep := true } })

/-- PFAIL at RUN, ENTERING-DOZE, DOZE, WAKING or DOZE-RX begins power-fail entry: clocks that DOZE stopped restart, the
converter with them, every withheld mark is cleared, a geometry clear is left where it stands, the mechanics stop,
every route is halted, an ordinary request is withdrawn, so that a controller in ENTERING returns to ON and one in
SELF-REFRESH leaves it for WAKING, and ENTERING-RETAIN is reported (R38, R39, R104, R155, R156); it is done once. That
the converter resumes with θ, 1 ms later, is the model's reading (log entry 22). With every route IDLE and the
directory write queue drained the CLEAN header is asked for, or in a geometry clear the retained flag set and the
retain request placed (R155, R156). The stop of the mechanics is that of `CoverStopsTheMechanics`, without its reports,
and a route is halted as `RouteEndsInOneEvent` says. That a request withdrawn in SELF-REFRESH stays PLACED until WAKING
ends, and is NONE at once from ENTERING, is the model's reading (log entry 36). -/
def Obligations.PowerFailEntersRetain : Prop :=
  (∀ (s : State) (x : Level), s.boot.state = .ready → s.power.level = some x → x ≠ .enteringRetain →
    x ≠ .retain →
    let entered : State :=
      { s with
        pins := { s.pins with pfail := true }
        power :=
          { s.power with
            level := some .enteringRetain, step := .retainOn, drivesOff := false
            abandoned := false, asleep := false }
        head :=
          if s.power.asleep then
            { s.head with thetaNext := true, sampleTimer := some (s.now + 1000) }
          else s.head
        reports := s.reports.map fun e => { e with withheld := false }
        boot := s.boot.leaveClear }
    let u := (allFin 4).foldl State.haltRoute (entered.stopMechanics false)
    exec .pfailAssert s = .next (u.withdrawOrdinary.queueReport .levelRetain).react)
  ∧ (∀ b : Boot,
    (b.task = .geometryWait ∨ (∃ a, b.task = .geometryClear a) ∨ b.task = .geometryHeader →
      b.leaveClear = { b with task := .none })
    ∧ (b.task ≠ .geometryWait → (∀ a, b.task ≠ .geometryClear a) → b.task ≠ .geometryHeader →
      b.leaveClear = b))
  ∧ (∀ u : State,
    (u.power.request ≠ .ordinary ∨ u.store.request ≠ .ordinary → u.withdrawOrdinary = u)
    ∧ (u.power.request = .ordinary → u.store.request = .ordinary →
      (u.store.state = .selfRefresh →
        u.withdrawOrdinary
          = { u with store :=
              { u.store with
                state := .waking, request := .none, wakeTimer := some (u.now + 200) } })
      ∧ (u.store.state = .entering →
        u.withdrawOrdinary
          = { u with
              power := { u.power with request := .none }
              store :=
                { u.store with
                  state := .on, request := .none, burst := u.store.burst.map Burst.notFinal } })))
  ∧ ∀ s : State,
    (s.boot.state = .ready → (s.power.level = some .enteringRetain ∨ s.power.level = some .retain) →
      exec .pfailAssert s = .next { s with pins := { s.pins with pfail := true } })
    ∧ (s.power.level = some .enteringRetain → s.power.step = .retainDrain → s.routesInUse = [] →
      s.pool.dirQueue = [] →
      (s.pool.state ≠ .clearing →
        exec .retainDrainDone s = .next { s with power := { s.power with step := .retainHeader } })
      ∧ (s.pool.state = .clearing →
        exec .retainDrainDone s = .next
          { s with
            boot := { s.boot with retained := true }
            power := { s.power with step := .retainRequest, request := .retain } }.placeRetain))

/-- A reset at any level leaves the retained flag where the backup domain held it, and returns everything else to the
value its rule gives (R157, R37). That it leaves the DRAM and the input levels, and the model's own clock, choice
counter and waiting commands, is the model's reading (log entry 11), and so is that every page is FREE and the pool
empty from the reset on (log entry 6); that a burst in progress is dropped, and that a slot never started has no kind,
are its choices (log entries 64 and 65), and so is that no byte stands as the one the host read last (log entry 4).
HOLD then ends in MEMORY-START, with the
standing retain request withdrawn (R158). -/
def Obligations.ResetReturnsToHold : Prop :=
  (∀ (held : Bool) (s : State), ∃ t : State, exec (.reset held) s = .next t
    ∧ t.store.dram = s.store.dram ∧ t.pins = s.pins ∧ t.boot.retained = (s.boot.retained && held)
    ∧ t.boot.state = .hold ∧ t.boot.hostHold = true ∧ t.boot.romPos = 0 ∧ t.boot.imageSum = 0
    ∧ t.boot.loaded = [] ∧ t.boot.romOutcome = none ∧ t.boot.warm = none
    ∧ (t.store.state = if s.boot.retained && held then StoreState.selfRefresh else .init)
    ∧ (t.store.request = if s.boot.retained && held then SelfRequest.retain else .none)
    ∧ t.store.log = none ∧ t.store.geometry = 1024 ∧ t.setup = Setup.default
    ∧ t.reports = [] ∧ t.port.inFifo = [] ∧ t.port.outFifo = [] ∧ t.port.record = none
    ∧ t.parser.state = .head ∧ t.parser.source = .rom
    ∧ (∀ i, t.table i = TableSlot.emptySlot) ∧ (∀ p, t.page p = PageEntry.freeEntry)
    ∧ (∀ r, (t.route r).state = .idle ∧ (t.route r).outcome = none)
    ∧ t.pf = Motor.idleMotor ∧ t.sf = Motor.idleMotor
    ∧ t.head.theta = 128 ∧ t.head.volts = 128 ∧ t.head.thetaNext = true
    ∧ t.head.sampleTimer = some (s.now + 1000) ∧ t.head.supply = .off
    ∧ t.pending = s.pending ∧ t.now = s.now ∧ t.choices = s.choices
    ∧ t.port.lastRead = none ∧ t.parser = Parser.start
    ∧ t.store =
      { t.store with
        initLeft := if s.boot.retained && held then 0 else 8
        burst := none, backlog := 0, refreshTimer := none, scrubTimer := none
        scrubWaiting := false, scrubPos := 0, wakeTimer := none }
    ∧ t.pool =
      { state := .inService, freeHead := none, freeTail := none, freeCount := 0, spare := []
        stranded := 0, alert := .none, rebuild := none, dirQueue := [], damage := [] }
    ∧ (∀ r, t.route r = Route.idleRecord)
    ∧ t.engines =
      { scanner := none, coder := none, printer := none, decoder := none, line := none
        hostIn := none, hostOut := none, scannerFault := false, printerFault := false }
    ∧ t.coder = Coder.idleCoder ∧ t.printDec = PrintDecoder.idleDecoder ∧ t.line = LinePort.idlePort
    ∧ t.scanner = Scanner.idlePort ∧ t.hostIn = HostIn.idleFlow ∧ t.hostOut = HostOut.idleFlow
    ∧ t.cutter = { state := .idle, timer := none, owner := none }
    ∧ t.head =
      { t.head with
        capacity := 4, ready := [], capturing := false, nextSlot := 0, history := Dots.white
        current := none, burn := none, cutOff := [], settleTimer := none }
    ∧ t.power =
      { level := none, stutter := false, quietReceive := false, quietErrors := false
        wakeFirst := none, wakeSet := [], request := .none, step := .none, drivesOff := false
        abandoned := false, asleep := false, watermark := 2 }
    ∧ t.boot =
      { t.boot with
        coldReason := none, kept := 0, discarded := 0, dropList := [], marks := [], task := .none })
  ∧ ∀ s : State, s.boot.state = .hold →
    (s.boot.retained = false → s.store.state = .init →
      exec .holdRelease s = .next
        { s with
          pins := { s.pins with pfail := false }
          boot := { s.boot with state := .memoryStart } })
    ∧ (s.boot.retained = true → s.store.state = .selfRefresh →
      exec .holdRelease s = .next
        { s with
          pins := { s.pins with pfail := false }
          boot := { s.boot with state := .memoryStart }
          store :=
            { s.store with
              state := .waking, request := .none, wakeTimer := some (s.now + 200) } })

end
end

