-- ==== Sys2Proof/Laws/State.lean ====
section
/-! SUPPORT. What each update of the state leaves of each field, and the records read back after an update. -/

namespace Sys2Proof.Machine

/-! ## Records read back -/

@[simp] theorem route_setRoute_same (s : State) (r : RouteNo) (x : Route) :
    (s.setRoute r x).route r = x := by simp [State.route, State.setRoute]
theorem route_setRoute_other (s : State) {r q : RouteNo} (x : Route) (h : q ≠ r) :
    (s.setRoute r x).route q = s.route q := by
  have h' : ¬ (r : Nat) = q := fun e => h (Fin.ext e.symm)
  simp [State.route, State.setRoute, h']
theorem route_setRoute (s : State) (r q : RouteNo) (x : Route) :
    (s.setRoute r x).route q = if q = r then x else s.route q := by
  split
  · subst_vars; exact route_setRoute_same s _ x
  · exact route_setRoute_other s x ‹_›
@[simp] theorem page_setPage_same (s : State) (p : PageNo) (e : PageEntry) :
    (s.setPage p e).page p = e := by simp [State.page, State.setPage]
theorem page_setPage_other (s : State) {p q : PageNo} (e : PageEntry) (h : q ≠ p) :
    (s.setPage p e).page q = s.page q := by
  have h' : ¬ (p : Nat) = q := fun e => h (Fin.ext e.symm)
  simp [State.page, State.setPage, h']
@[simp] theorem table_setTable_same (s : State) (t : TableNo) (x : TableSlot) :
    (s.setTable t x).table t = x := by simp [State.table, State.setTable]
theorem table_setTable_other (s : State) {t u : TableNo} (x : TableSlot) (h : u ≠ t) :
    (s.setTable t x).table u = s.table u := by
  have h' : ¬ (t : Nat) = u := fun e => h (Fin.ext e.symm)
  simp [State.table, State.setTable, h']
@[simp] theorem motor_setMotor_same (s : State) (m : MotorName) (x : Motor) :
    (s.setMotor m x).motor m = x := by cases m <;> rfl
theorem motor_setMotor_other (s : State) {m n : MotorName} (x : Motor) (h : n ≠ m) :
    (s.setMotor m x).motor n = s.motor n := by
  cases m <;> cases n <;> first | exact absurd rfl h | rfl

/-! ## setRoute -/

@[simp] theorem setRoute_pending (s : State) (r : RouteNo) (x : Route) : (s.setRoute r x).pending = s.pending := rfl
@[simp] theorem setRoute_now (s : State) (r : RouteNo) (x : Route) : (s.setRoute r x).now = s.now := rfl
@[simp] theorem setRoute_choices (s : State) (r : RouteNo) (x : Route) : (s.setRoute r x).choices = s.choices := rfl
@[simp] theorem setRoute_pins (s : State) (r : RouteNo) (x : Route) : (s.setRoute r x).pins = s.pins := rfl
@[simp] theorem setRoute_setup (s : State) (r : RouteNo) (x : Route) : (s.setRoute r x).setup = s.setup := rfl
@[simp] theorem setRoute_parser (s : State) (r : RouteNo) (x : Route) : (s.setRoute r x).parser = s.parser := rfl
@[simp] theorem setRoute_port (s : State) (r : RouteNo) (x : Route) : (s.setRoute r x).port = s.port := rfl
@[simp] theorem setRoute_reports (s : State) (r : RouteNo) (x : Route) : (s.setRoute r x).reports = s.reports := rfl
@[simp] theorem setRoute_tables (s : State) (r : RouteNo) (x : Route) : (s.setRoute r x).tables = s.tables := rfl
@[simp] theorem setRoute_store (s : State) (r : RouteNo) (x : Route) : (s.setRoute r x).store = s.store := rfl
@[simp] theorem setRoute_pool (s : State) (r : RouteNo) (x : Route) : (s.setRoute r x).pool = s.pool := rfl
@[simp] theorem setRoute_pages (s : State) (r : RouteNo) (x : Route) : (s.setRoute r x).pages = s.pages := rfl
@[simp] theorem setRoute_engines (s : State) (r : RouteNo) (x : Route) : (s.setRoute r x).engines = s.engines := rfl
@[simp] theorem setRoute_coder (s : State) (r : RouteNo) (x : Route) : (s.setRoute r x).coder = s.coder := rfl
@[simp] theorem setRoute_printDec (s : State) (r : RouteNo) (x : Route) : (s.setRoute r x).printDec = s.printDec := rfl
@[simp] theorem setRoute_line (s : State) (r : RouteNo) (x : Route) : (s.setRoute r x).line = s.line := rfl
@[simp] theorem setRoute_scanner (s : State) (r : RouteNo) (x : Route) : (s.setRoute r x).scanner = s.scanner := rfl
@[simp] theorem setRoute_head (s : State) (r : RouteNo) (x : Route) : (s.setRoute r x).head = s.head := rfl
@[simp] theorem setRoute_pf (s : State) (r : RouteNo) (x : Route) : (s.setRoute r x).pf = s.pf := rfl
@[simp] theorem setRoute_sf (s : State) (r : RouteNo) (x : Route) : (s.setRoute r x).sf = s.sf := rfl
@[simp] theorem setRoute_cutter (s : State) (r : RouteNo) (x : Route) : (s.setRoute r x).cutter = s.cutter := rfl
@[simp] theorem setRoute_hostIn (s : State) (r : RouteNo) (x : Route) : (s.setRoute r x).hostIn = s.hostIn := rfl
@[simp] theorem setRoute_hostOut (s : State) (r : RouteNo) (x : Route) : (s.setRoute r x).hostOut = s.hostOut := rfl
@[simp] theorem setRoute_power (s : State) (r : RouteNo) (x : Route) : (s.setRoute r x).power = s.power := rfl
@[simp] theorem setRoute_boot (s : State) (r : RouteNo) (x : Route) : (s.setRoute r x).boot = s.boot := rfl
@[simp] theorem setRoute_page (s : State) (r : RouteNo) (x : Route) (i : PageNo) : (s.setRoute r x).page i = s.page i := rfl
@[simp] theorem setRoute_table (s : State) (r : RouteNo) (x : Route) (i : TableNo) : (s.setRoute r x).table i = s.table i := rfl
@[simp] theorem setRoute_motor (s : State) (r : RouteNo) (x : Route) (i : MotorName) : (s.setRoute r x).motor i = s.motor i := by cases i <;> rfl

/-! ## setPage -/

@[simp] theorem setPage_pending (s : State) (p : PageNo) (x : PageEntry) : (s.setPage p x).pending = s.pending := rfl
@[simp] theorem setPage_now (s : State) (p : PageNo) (x : PageEntry) : (s.setPage p x).now = s.now := rfl
@[simp] theorem setPage_choices (s : State) (p : PageNo) (x : PageEntry) : (s.setPage p x).choices = s.choices := rfl
@[simp] theorem setPage_pins (s : State) (p : PageNo) (x : PageEntry) : (s.setPage p x).pins = s.pins := rfl
@[simp] theorem setPage_setup (s : State) (p : PageNo) (x : PageEntry) : (s.setPage p x).setup = s.setup := rfl
@[simp] theorem setPage_parser (s : State) (p : PageNo) (x : PageEntry) : (s.setPage p x).parser = s.parser := rfl
@[simp] theorem setPage_port (s : State) (p : PageNo) (x : PageEntry) : (s.setPage p x).port = s.port := rfl
@[simp] theorem setPage_reports (s : State) (p : PageNo) (x : PageEntry) : (s.setPage p x).reports = s.reports := rfl
@[simp] theorem setPage_tables (s : State) (p : PageNo) (x : PageEntry) : (s.setPage p x).tables = s.tables := rfl
@[simp] theorem setPage_store (s : State) (p : PageNo) (x : PageEntry) : (s.setPage p x).store = s.store := rfl
@[simp] theorem setPage_pool (s : State) (p : PageNo) (x : PageEntry) : (s.setPage p x).pool = s.pool := rfl
@[simp] theorem setPage_routes (s : State) (p : PageNo) (x : PageEntry) : (s.setPage p x).routes = s.routes := rfl
@[simp] theorem setPage_engines (s : State) (p : PageNo) (x : PageEntry) : (s.setPage p x).engines = s.engines := rfl
@[simp] theorem setPage_coder (s : State) (p : PageNo) (x : PageEntry) : (s.setPage p x).coder = s.coder := rfl
@[simp] theorem setPage_printDec (s : State) (p : PageNo) (x : PageEntry) : (s.setPage p x).printDec = s.printDec := rfl
@[simp] theorem setPage_line (s : State) (p : PageNo) (x : PageEntry) : (s.setPage p x).line = s.line := rfl
@[simp] theorem setPage_scanner (s : State) (p : PageNo) (x : PageEntry) : (s.setPage p x).scanner = s.scanner := rfl
@[simp] theorem setPage_head (s : State) (p : PageNo) (x : PageEntry) : (s.setPage p x).head = s.head := rfl
@[simp] theorem setPage_pf (s : State) (p : PageNo) (x : PageEntry) : (s.setPage p x).pf = s.pf := rfl
@[simp] theorem setPage_sf (s : State) (p : PageNo) (x : PageEntry) : (s.setPage p x).sf = s.sf := rfl
@[simp] theorem setPage_cutter (s : State) (p : PageNo) (x : PageEntry) : (s.setPage p x).cutter = s.cutter := rfl
@[simp] theorem setPage_hostIn (s : State) (p : PageNo) (x : PageEntry) : (s.setPage p x).hostIn = s.hostIn := rfl
@[simp] theorem setPage_hostOut (s : State) (p : PageNo) (x : PageEntry) : (s.setPage p x).hostOut = s.hostOut := rfl
@[simp] theorem setPage_power (s : State) (p : PageNo) (x : PageEntry) : (s.setPage p x).power = s.power := rfl
@[simp] theorem setPage_boot (s : State) (p : PageNo) (x : PageEntry) : (s.setPage p x).boot = s.boot := rfl
@[simp] theorem setPage_route (s : State) (p : PageNo) (x : PageEntry) (i : RouteNo) : (s.setPage p x).route i = s.route i := rfl
@[simp] theorem setPage_table (s : State) (p : PageNo) (x : PageEntry) (i : TableNo) : (s.setPage p x).table i = s.table i := rfl
@[simp] theorem setPage_motor (s : State) (p : PageNo) (x : PageEntry) (i : MotorName) : (s.setPage p x).motor i = s.motor i := by cases i <;> rfl

/-! ## setTable -/

@[simp] theorem setTable_pending (s : State) (t : TableNo) (x : TableSlot) : (s.setTable t x).pending = s.pending := rfl
@[simp] theorem setTable_now (s : State) (t : TableNo) (x : TableSlot) : (s.setTable t x).now = s.now := rfl
@[simp] theorem setTable_choices (s : State) (t : TableNo) (x : TableSlot) : (s.setTable t x).choices = s.choices := rfl
@[simp] theorem setTable_pins (s : State) (t : TableNo) (x : TableSlot) : (s.setTable t x).pins = s.pins := rfl
@[simp] theorem setTable_setup (s : State) (t : TableNo) (x : TableSlot) : (s.setTable t x).setup = s.setup := rfl
@[simp] theorem setTable_parser (s : State) (t : TableNo) (x : TableSlot) : (s.setTable t x).parser = s.parser := rfl
@[simp] theorem setTable_port (s : State) (t : TableNo) (x : TableSlot) : (s.setTable t x).port = s.port := rfl
@[simp] theorem setTable_reports (s : State) (t : TableNo) (x : TableSlot) : (s.setTable t x).reports = s.reports := rfl
@[simp] theorem setTable_store (s : State) (t : TableNo) (x : TableSlot) : (s.setTable t x).store = s.store := rfl
@[simp] theorem setTable_pool (s : State) (t : TableNo) (x : TableSlot) : (s.setTable t x).pool = s.pool := rfl
@[simp] theorem setTable_pages (s : State) (t : TableNo) (x : TableSlot) : (s.setTable t x).pages = s.pages := rfl
@[simp] theorem setTable_routes (s : State) (t : TableNo) (x : TableSlot) : (s.setTable t x).routes = s.routes := rfl
@[simp] theorem setTable_engines (s : State) (t : TableNo) (x : TableSlot) : (s.setTable t x).engines = s.engines := rfl
@[simp] theorem setTable_coder (s : State) (t : TableNo) (x : TableSlot) : (s.setTable t x).coder = s.coder := rfl
@[simp] theorem setTable_printDec (s : State) (t : TableNo) (x : TableSlot) : (s.setTable t x).printDec = s.printDec := rfl
@[simp] theorem setTable_line (s : State) (t : TableNo) (x : TableSlot) : (s.setTable t x).line = s.line := rfl
@[simp] theorem setTable_scanner (s : State) (t : TableNo) (x : TableSlot) : (s.setTable t x).scanner = s.scanner := rfl
@[simp] theorem setTable_head (s : State) (t : TableNo) (x : TableSlot) : (s.setTable t x).head = s.head := rfl
@[simp] theorem setTable_pf (s : State) (t : TableNo) (x : TableSlot) : (s.setTable t x).pf = s.pf := rfl
@[simp] theorem setTable_sf (s : State) (t : TableNo) (x : TableSlot) : (s.setTable t x).sf = s.sf := rfl
@[simp] theorem setTable_cutter (s : State) (t : TableNo) (x : TableSlot) : (s.setTable t x).cutter = s.cutter := rfl
@[simp] theorem setTable_hostIn (s : State) (t : TableNo) (x : TableSlot) : (s.setTable t x).hostIn = s.hostIn := rfl
@[simp] theorem setTable_hostOut (s : State) (t : TableNo) (x : TableSlot) : (s.setTable t x).hostOut = s.hostOut := rfl
@[simp] theorem setTable_power (s : State) (t : TableNo) (x : TableSlot) : (s.setTable t x).power = s.power := rfl
@[simp] theorem setTable_boot (s : State) (t : TableNo) (x : TableSlot) : (s.setTable t x).boot = s.boot := rfl
@[simp] theorem setTable_route (s : State) (t : TableNo) (x : TableSlot) (i : RouteNo) : (s.setTable t x).route i = s.route i := rfl
@[simp] theorem setTable_page (s : State) (t : TableNo) (x : TableSlot) (i : PageNo) : (s.setTable t x).page i = s.page i := rfl
@[simp] theorem setTable_motor (s : State) (t : TableNo) (x : TableSlot) (i : MotorName) : (s.setTable t x).motor i = s.motor i := by cases i <;> rfl

/-! ## setScanner -/

@[simp] theorem setScanner_pending (s : State) (c : Scanner) : (s.setScanner c).pending = s.pending := rfl
@[simp] theorem setScanner_now (s : State) (c : Scanner) : (s.setScanner c).now = s.now := rfl
@[simp] theorem setScanner_choices (s : State) (c : Scanner) : (s.setScanner c).choices = s.choices := rfl
@[simp] theorem setScanner_pins (s : State) (c : Scanner) : (s.setScanner c).pins = s.pins := rfl
@[simp] theorem setScanner_setup (s : State) (c : Scanner) : (s.setScanner c).setup = s.setup := rfl
@[simp] theorem setScanner_parser (s : State) (c : Scanner) : (s.setScanner c).parser = s.parser := rfl
@[simp] theorem setScanner_port (s : State) (c : Scanner) : (s.setScanner c).port = s.port := rfl
@[simp] theorem setScanner_reports (s : State) (c : Scanner) : (s.setScanner c).reports = s.reports := rfl
@[simp] theorem setScanner_tables (s : State) (c : Scanner) : (s.setScanner c).tables = s.tables := rfl
@[simp] theorem setScanner_store (s : State) (c : Scanner) : (s.setScanner c).store = s.store := rfl
@[simp] theorem setScanner_pool (s : State) (c : Scanner) : (s.setScanner c).pool = s.pool := rfl
@[simp] theorem setScanner_pages (s : State) (c : Scanner) : (s.setScanner c).pages = s.pages := rfl
@[simp] theorem setScanner_routes (s : State) (c : Scanner) : (s.setScanner c).routes = s.routes := rfl
@[simp] theorem setScanner_engines (s : State) (c : Scanner) : (s.setScanner c).engines = s.engines := rfl
@[simp] theorem setScanner_coder (s : State) (c : Scanner) : (s.setScanner c).coder = s.coder := rfl
@[simp] theorem setScanner_printDec (s : State) (c : Scanner) : (s.setScanner c).printDec = s.printDec := rfl
@[simp] theorem setScanner_line (s : State) (c : Scanner) : (s.setScanner c).line = s.line := rfl
@[simp] theorem setScanner_head (s : State) (c : Scanner) : (s.setScanner c).head = s.head := rfl
@[simp] theorem setScanner_pf (s : State) (c : Scanner) : (s.setScanner c).pf = s.pf := rfl
@[simp] theorem setScanner_sf (s : State) (c : Scanner) : (s.setScanner c).sf = s.sf := rfl
@[simp] theorem setScanner_cutter (s : State) (c : Scanner) : (s.setScanner c).cutter = s.cutter := rfl
@[simp] theorem setScanner_hostIn (s : State) (c : Scanner) : (s.setScanner c).hostIn = s.hostIn := rfl
@[simp] theorem setScanner_hostOut (s : State) (c : Scanner) : (s.setScanner c).hostOut = s.hostOut := rfl
@[simp] theorem setScanner_power (s : State) (c : Scanner) : (s.setScanner c).power = s.power := rfl
@[simp] theorem setScanner_boot (s : State) (c : Scanner) : (s.setScanner c).boot = s.boot := rfl
@[simp] theorem setScanner_scanner (s : State) (c : Scanner) : (s.setScanner c).scanner = c := rfl
@[simp] theorem setScanner_route (s : State) (c : Scanner) (i : RouteNo) : (s.setScanner c).route i = s.route i := rfl
@[simp] theorem setScanner_page (s : State) (c : Scanner) (i : PageNo) : (s.setScanner c).page i = s.page i := rfl
@[simp] theorem setScanner_table (s : State) (c : Scanner) (i : TableNo) : (s.setScanner c).table i = s.table i := rfl
@[simp] theorem setScanner_motor (s : State) (c : Scanner) (i : MotorName) : (s.setScanner c).motor i = s.motor i := by cases i <;> rfl

/-! ## setLine -/

@[simp] theorem setLine_pending (s : State) (l : LinePort) : (s.setLine l).pending = s.pending := rfl
@[simp] theorem setLine_now (s : State) (l : LinePort) : (s.setLine l).now = s.now := rfl
@[simp] theorem setLine_choices (s : State) (l : LinePort) : (s.setLine l).choices = s.choices := rfl
@[simp] theorem setLine_pins (s : State) (l : LinePort) : (s.setLine l).pins = s.pins := rfl
@[simp] theorem setLine_setup (s : State) (l : LinePort) : (s.setLine l).setup = s.setup := rfl
@[simp] theorem setLine_parser (s : State) (l : LinePort) : (s.setLine l).parser = s.parser := rfl
@[simp] theorem setLine_port (s : State) (l : LinePort) : (s.setLine l).port = s.port := rfl
@[simp] theorem setLine_reports (s : State) (l : LinePort) : (s.setLine l).reports = s.reports := rfl
@[simp] theorem setLine_tables (s : State) (l : LinePort) : (s.setLine l).tables = s.tables := rfl
@[simp] theorem setLine_store (s : State) (l : LinePort) : (s.setLine l).store = s.store := rfl
@[simp] theorem setLine_pool (s : State) (l : LinePort) : (s.setLine l).pool = s.pool := rfl
@[simp] theorem setLine_pages (s : State) (l : LinePort) : (s.setLine l).pages = s.pages := rfl
@[simp] theorem setLine_routes (s : State) (l : LinePort) : (s.setLine l).routes = s.routes := rfl
@[simp] theorem setLine_engines (s : State) (l : LinePort) : (s.setLine l).engines = s.engines := rfl
@[simp] theorem setLine_coder (s : State) (l : LinePort) : (s.setLine l).coder = s.coder := rfl
@[simp] theorem setLine_printDec (s : State) (l : LinePort) : (s.setLine l).printDec = s.printDec := rfl
@[simp] theorem setLine_scanner (s : State) (l : LinePort) : (s.setLine l).scanner = s.scanner := rfl
@[simp] theorem setLine_head (s : State) (l : LinePort) : (s.setLine l).head = s.head := rfl
@[simp] theorem setLine_pf (s : State) (l : LinePort) : (s.setLine l).pf = s.pf := rfl
@[simp] theorem setLine_sf (s : State) (l : LinePort) : (s.setLine l).sf = s.sf := rfl
@[simp] theorem setLine_cutter (s : State) (l : LinePort) : (s.setLine l).cutter = s.cutter := rfl
@[simp] theorem setLine_hostIn (s : State) (l : LinePort) : (s.setLine l).hostIn = s.hostIn := rfl
@[simp] theorem setLine_hostOut (s : State) (l : LinePort) : (s.setLine l).hostOut = s.hostOut := rfl
@[simp] theorem setLine_power (s : State) (l : LinePort) : (s.setLine l).power = s.power := rfl
@[simp] theorem setLine_boot (s : State) (l : LinePort) : (s.setLine l).boot = s.boot := rfl
@[simp] theorem setLine_line (s : State) (l : LinePort) : (s.setLine l).line = l := rfl
@[simp] theorem setLine_route (s : State) (l : LinePort) (i : RouteNo) : (s.setLine l).route i = s.route i := rfl
@[simp] theorem setLine_page (s : State) (l : LinePort) (i : PageNo) : (s.setLine l).page i = s.page i := rfl
@[simp] theorem setLine_table (s : State) (l : LinePort) (i : TableNo) : (s.setLine l).table i = s.table i := rfl
@[simp] theorem setLine_motor (s : State) (l : LinePort) (i : MotorName) : (s.setLine l).motor i = s.motor i := by cases i <;> rfl

/-! ## setBoot -/

@[simp] theorem setBoot_pending (s : State) (b : Boot) : (s.setBoot b).pending = s.pending := rfl
@[simp] theorem setBoot_now (s : State) (b : Boot) : (s.setBoot b).now = s.now := rfl
@[simp] theorem setBoot_choices (s : State) (b : Boot) : (s.setBoot b).choices = s.choices := rfl
@[simp] theorem setBoot_pins (s : State) (b : Boot) : (s.setBoot b).pins = s.pins := rfl
@[simp] theorem setBoot_setup (s : State) (b : Boot) : (s.setBoot b).setup = s.setup := rfl
@[simp] theorem setBoot_parser (s : State) (b : Boot) : (s.setBoot b).parser = s.parser := rfl
@[simp] theorem setBoot_port (s : State) (b : Boot) : (s.setBoot b).port = s.port := rfl
@[simp] theorem setBoot_reports (s : State) (b : Boot) : (s.setBoot b).reports = s.reports := rfl
@[simp] theorem setBoot_tables (s : State) (b : Boot) : (s.setBoot b).tables = s.tables := rfl
@[simp] theorem setBoot_store (s : State) (b : Boot) : (s.setBoot b).store = s.store := rfl
@[simp] theorem setBoot_pool (s : State) (b : Boot) : (s.setBoot b).pool = s.pool := rfl
@[simp] theorem setBoot_pages (s : State) (b : Boot) : (s.setBoot b).pages = s.pages := rfl
@[simp] theorem setBoot_routes (s : State) (b : Boot) : (s.setBoot b).routes = s.routes := rfl
@[simp] theorem setBoot_engines (s : State) (b : Boot) : (s.setBoot b).engines = s.engines := rfl
@[simp] theorem setBoot_coder (s : State) (b : Boot) : (s.setBoot b).coder = s.coder := rfl
@[simp] theorem setBoot_printDec (s : State) (b : Boot) : (s.setBoot b).printDec = s.printDec := rfl
@[simp] theorem setBoot_line (s : State) (b : Boot) : (s.setBoot b).line = s.line := rfl
@[simp] theorem setBoot_scanner (s : State) (b : Boot) : (s.setBoot b).scanner = s.scanner := rfl
@[simp] theorem setBoot_head (s : State) (b : Boot) : (s.setBoot b).head = s.head := rfl
@[simp] theorem setBoot_pf (s : State) (b : Boot) : (s.setBoot b).pf = s.pf := rfl
@[simp] theorem setBoot_sf (s : State) (b : Boot) : (s.setBoot b).sf = s.sf := rfl
@[simp] theorem setBoot_cutter (s : State) (b : Boot) : (s.setBoot b).cutter = s.cutter := rfl
@[simp] theorem setBoot_hostIn (s : State) (b : Boot) : (s.setBoot b).hostIn = s.hostIn := rfl
@[simp] theorem setBoot_hostOut (s : State) (b : Boot) : (s.setBoot b).hostOut = s.hostOut := rfl
@[simp] theorem setBoot_power (s : State) (b : Boot) : (s.setBoot b).power = s.power := rfl
@[simp] theorem setBoot_boot (s : State) (b : Boot) : (s.setBoot b).boot = b := rfl
@[simp] theorem setBoot_route (s : State) (b : Boot) (i : RouteNo) : (s.setBoot b).route i = s.route i := rfl
@[simp] theorem setBoot_page (s : State) (b : Boot) (i : PageNo) : (s.setBoot b).page i = s.page i := rfl
@[simp] theorem setBoot_table (s : State) (b : Boot) (i : TableNo) : (s.setBoot b).table i = s.table i := rfl
@[simp] theorem setBoot_motor (s : State) (b : Boot) (i : MotorName) : (s.setBoot b).motor i = s.motor i := by cases i <;> rfl

/-! ## setRebuild -/

@[simp] theorem setRebuild_pending (s : State) (b : Rebuild) : (s.setRebuild b).pending = s.pending := rfl
@[simp] theorem setRebuild_now (s : State) (b : Rebuild) : (s.setRebuild b).now = s.now := rfl
@[simp] theorem setRebuild_choices (s : State) (b : Rebuild) : (s.setRebuild b).choices = s.choices := rfl
@[simp] theorem setRebuild_pins (s : State) (b : Rebuild) : (s.setRebuild b).pins = s.pins := rfl
@[simp] theorem setRebuild_setup (s : State) (b : Rebuild) : (s.setRebuild b).setup = s.setup := rfl
@[simp] theorem setRebuild_parser (s : State) (b : Rebuild) : (s.setRebuild b).parser = s.parser := rfl
@[simp] theorem setRebuild_port (s : State) (b : Rebuild) : (s.setRebuild b).port = s.port := rfl
@[simp] theorem setRebuild_reports (s : State) (b : Rebuild) : (s.setRebuild b).reports = s.reports := rfl
@[simp] theorem setRebuild_tables (s : State) (b : Rebuild) : (s.setRebuild b).tables = s.tables := rfl
@[simp] theorem setRebuild_store (s : State) (b : Rebuild) : (s.setRebuild b).store = s.store := rfl
@[simp] theorem setRebuild_pages (s : State) (b : Rebuild) : (s.setRebuild b).pages = s.pages := rfl
@[simp] theorem setRebuild_routes (s : State) (b : Rebuild) : (s.setRebuild b).routes = s.routes := rfl
@[simp] theorem setRebuild_engines (s : State) (b : Rebuild) : (s.setRebuild b).engines = s.engines := rfl
@[simp] theorem setRebuild_coder (s : State) (b : Rebuild) : (s.setRebuild b).coder = s.coder := rfl
@[simp] theorem setRebuild_printDec (s : State) (b : Rebuild) : (s.setRebuild b).printDec = s.printDec := rfl
@[simp] theorem setRebuild_line (s : State) (b : Rebuild) : (s.setRebuild b).line = s.line := rfl
@[simp] theorem setRebuild_scanner (s : State) (b : Rebuild) : (s.setRebuild b).scanner = s.scanner := rfl
@[simp] theorem setRebuild_head (s : State) (b : Rebuild) : (s.setRebuild b).head = s.head := rfl
@[simp] theorem setRebuild_pf (s : State) (b : Rebuild) : (s.setRebuild b).pf = s.pf := rfl
@[simp] theorem setRebuild_sf (s : State) (b : Rebuild) : (s.setRebuild b).sf = s.sf := rfl
@[simp] theorem setRebuild_cutter (s : State) (b : Rebuild) : (s.setRebuild b).cutter = s.cutter := rfl
@[simp] theorem setRebuild_hostIn (s : State) (b : Rebuild) : (s.setRebuild b).hostIn = s.hostIn := rfl
@[simp] theorem setRebuild_hostOut (s : State) (b : Rebuild) : (s.setRebuild b).hostOut = s.hostOut := rfl
@[simp] theorem setRebuild_power (s : State) (b : Rebuild) : (s.setRebuild b).power = s.power := rfl
@[simp] theorem setRebuild_boot (s : State) (b : Rebuild) : (s.setRebuild b).boot = s.boot := rfl
@[simp] theorem setRebuild_route (s : State) (b : Rebuild) (i : RouteNo) : (s.setRebuild b).route i = s.route i := rfl
@[simp] theorem setRebuild_page (s : State) (b : Rebuild) (i : PageNo) : (s.setRebuild b).page i = s.page i := rfl
@[simp] theorem setRebuild_table (s : State) (b : Rebuild) (i : TableNo) : (s.setRebuild b).table i = s.table i := rfl
@[simp] theorem setRebuild_motor (s : State) (b : Rebuild) (i : MotorName) : (s.setRebuild b).motor i = s.motor i := by cases i <;> rfl

/-! ## setDram -/

@[simp] theorem setDram_pending (s : State) (m : List (Nat × StoreWord)) : (s.setDram m).pending = s.pending := rfl
@[simp] theorem setDram_now (s : State) (m : List (Nat × StoreWord)) : (s.setDram m).now = s.now := rfl
@[simp] theorem setDram_choices (s : State) (m : List (Nat × StoreWord)) : (s.setDram m).choices = s.choices := rfl
@[simp] theorem setDram_pins (s : State) (m : List (Nat × StoreWord)) : (s.setDram m).pins = s.pins := rfl
@[simp] theorem setDram_setup (s : State) (m : List (Nat × StoreWord)) : (s.setDram m).setup = s.setup := rfl
@[simp] theorem setDram_parser (s : State) (m : List (Nat × StoreWord)) : (s.setDram m).parser = s.parser := rfl
@[simp] theorem setDram_port (s : State) (m : List (Nat × StoreWord)) : (s.setDram m).port = s.port := rfl
@[simp] theorem setDram_reports (s : State) (m : List (Nat × StoreWord)) : (s.setDram m).reports = s.reports := rfl
@[simp] theorem setDram_tables (s : State) (m : List (Nat × StoreWord)) : (s.setDram m).tables = s.tables := rfl
@[simp] theorem setDram_pool (s : State) (m : List (Nat × StoreWord)) : (s.setDram m).pool = s.pool := rfl
@[simp] theorem setDram_pages (s : State) (m : List (Nat × StoreWord)) : (s.setDram m).pages = s.pages := rfl
@[simp] theorem setDram_routes (s : State) (m : List (Nat × StoreWord)) : (s.setDram m).routes = s.routes := rfl
@[simp] theorem setDram_engines (s : State) (m : List (Nat × StoreWord)) : (s.setDram m).engines = s.engines := rfl
@[simp] theorem setDram_coder (s : State) (m : List (Nat × StoreWord)) : (s.setDram m).coder = s.coder := rfl
@[simp] theorem setDram_printDec (s : State) (m : List (Nat × StoreWord)) : (s.setDram m).printDec = s.printDec := rfl
@[simp] theorem setDram_line (s : State) (m : List (Nat × StoreWord)) : (s.setDram m).line = s.line := rfl
@[simp] theorem setDram_scanner (s : State) (m : List (Nat × StoreWord)) : (s.setDram m).scanner = s.scanner := rfl
@[simp] theorem setDram_head (s : State) (m : List (Nat × StoreWord)) : (s.setDram m).head = s.head := rfl
@[simp] theorem setDram_pf (s : State) (m : List (Nat × StoreWord)) : (s.setDram m).pf = s.pf := rfl
@[simp] theorem setDram_sf (s : State) (m : List (Nat × StoreWord)) : (s.setDram m).sf = s.sf := rfl
@[simp] theorem setDram_cutter (s : State) (m : List (Nat × StoreWord)) : (s.setDram m).cutter = s.cutter := rfl
@[simp] theorem setDram_hostIn (s : State) (m : List (Nat × StoreWord)) : (s.setDram m).hostIn = s.hostIn := rfl
@[simp] theorem setDram_hostOut (s : State) (m : List (Nat × StoreWord)) : (s.setDram m).hostOut = s.hostOut := rfl
@[simp] theorem setDram_power (s : State) (m : List (Nat × StoreWord)) : (s.setDram m).power = s.power := rfl
@[simp] theorem setDram_boot (s : State) (m : List (Nat × StoreWord)) : (s.setDram m).boot = s.boot := rfl
@[simp] theorem setDram_route (s : State) (m : List (Nat × StoreWord)) (i : RouteNo) : (s.setDram m).route i = s.route i := rfl
@[simp] theorem setDram_page (s : State) (m : List (Nat × StoreWord)) (i : PageNo) : (s.setDram m).page i = s.page i := rfl
@[simp] theorem setDram_table (s : State) (m : List (Nat × StoreWord)) (i : TableNo) : (s.setDram m).table i = s.table i := rfl
@[simp] theorem setDram_motor (s : State) (m : List (Nat × StoreWord)) (i : MotorName) : (s.setDram m).motor i = s.motor i := by cases i <;> rfl

/-! ## putReport -/

@[simp] theorem putReport_pending (s : State) (x : Report) (w : Bool) : (s.putReport x w).pending = s.pending := rfl
@[simp] theorem putReport_now (s : State) (x : Report) (w : Bool) : (s.putReport x w).now = s.now := rfl
@[simp] theorem putReport_choices (s : State) (x : Report) (w : Bool) : (s.putReport x w).choices = s.choices := rfl
@[simp] theorem putReport_pins (s : State) (x : Report) (w : Bool) : (s.putReport x w).pins = s.pins := rfl
@[simp] theorem putReport_setup (s : State) (x : Report) (w : Bool) : (s.putReport x w).setup = s.setup := rfl
@[simp] theorem putReport_parser (s : State) (x : Report) (w : Bool) : (s.putReport x w).parser = s.parser := rfl
@[simp] theorem putReport_port (s : State) (x : Report) (w : Bool) : (s.putReport x w).port = s.port := rfl
@[simp] theorem putReport_tables (s : State) (x : Report) (w : Bool) : (s.putReport x w).tables = s.tables := rfl
@[simp] theorem putReport_store (s : State) (x : Report) (w : Bool) : (s.putReport x w).store = s.store := rfl
@[simp] theorem putReport_pool (s : State) (x : Report) (w : Bool) : (s.putReport x w).pool = s.pool := rfl
@[simp] theorem putReport_pages (s : State) (x : Report) (w : Bool) : (s.putReport x w).pages = s.pages := rfl
@[simp] theorem putReport_routes (s : State) (x : Report) (w : Bool) : (s.putReport x w).routes = s.routes := rfl
@[simp] theorem putReport_engines (s : State) (x : Report) (w : Bool) : (s.putReport x w).engines = s.engines := rfl
@[simp] theorem putReport_coder (s : State) (x : Report) (w : Bool) : (s.putReport x w).coder = s.coder := rfl
@[simp] theorem putReport_printDec (s : State) (x : Report) (w : Bool) : (s.putReport x w).printDec = s.printDec := rfl
@[simp] theorem putReport_line (s : State) (x : Report) (w : Bool) : (s.putReport x w).line = s.line := rfl
@[simp] theorem putReport_scanner (s : State) (x : Report) (w : Bool) : (s.putReport x w).scanner = s.scanner := rfl
@[simp] theorem putReport_head (s : State) (x : Report) (w : Bool) : (s.putReport x w).head = s.head := rfl
@[simp] theorem putReport_pf (s : State) (x : Report) (w : Bool) : (s.putReport x w).pf = s.pf := rfl
@[simp] theorem putReport_sf (s : State) (x : Report) (w : Bool) : (s.putReport x w).sf = s.sf := rfl
@[simp] theorem putReport_cutter (s : State) (x : Report) (w : Bool) : (s.putReport x w).cutter = s.cutter := rfl
@[simp] theorem putReport_hostIn (s : State) (x : Report) (w : Bool) : (s.putReport x w).hostIn = s.hostIn := rfl
@[simp] theorem putReport_hostOut (s : State) (x : Report) (w : Bool) : (s.putReport x w).hostOut = s.hostOut := rfl
@[simp] theorem putReport_power (s : State) (x : Report) (w : Bool) : (s.putReport x w).power = s.power := rfl
@[simp] theorem putReport_boot (s : State) (x : Report) (w : Bool) : (s.putReport x w).boot = s.boot := rfl
@[simp] theorem putReport_route (s : State) (x : Report) (w : Bool) (i : RouteNo) : (s.putReport x w).route i = s.route i := rfl
@[simp] theorem putReport_page (s : State) (x : Report) (w : Bool) (i : PageNo) : (s.putReport x w).page i = s.page i := rfl
@[simp] theorem putReport_table (s : State) (x : Report) (w : Bool) (i : TableNo) : (s.putReport x w).table i = s.table i := rfl
@[simp] theorem putReport_motor (s : State) (x : Report) (w : Bool) (i : MotorName) : (s.putReport x w).motor i = s.motor i := by cases i <;> rfl

/-! ## clearWithheld -/

@[simp] theorem clearWithheld_pending (s : State) : (s.clearWithheld).pending = s.pending := rfl
@[simp] theorem clearWithheld_now (s : State) : (s.clearWithheld).now = s.now := rfl
@[simp] theorem clearWithheld_choices (s : State) : (s.clearWithheld).choices = s.choices := rfl
@[simp] theorem clearWithheld_pins (s : State) : (s.clearWithheld).pins = s.pins := rfl
@[simp] theorem clearWithheld_setup (s : State) : (s.clearWithheld).setup = s.setup := rfl
@[simp] theorem clearWithheld_parser (s : State) : (s.clearWithheld).parser = s.parser := rfl
@[simp] theorem clearWithheld_port (s : State) : (s.clearWithheld).port = s.port := rfl
@[simp] theorem clearWithheld_tables (s : State) : (s.clearWithheld).tables = s.tables := rfl
@[simp] theorem clearWithheld_store (s : State) : (s.clearWithheld).store = s.store := rfl
@[simp] theorem clearWithheld_pool (s : State) : (s.clearWithheld).pool = s.pool := rfl
@[simp] theorem clearWithheld_pages (s : State) : (s.clearWithheld).pages = s.pages := rfl
@[simp] theorem clearWithheld_routes (s : State) : (s.clearWithheld).routes = s.routes := rfl
@[simp] theorem clearWithheld_engines (s : State) : (s.clearWithheld).engines = s.engines := rfl
@[simp] theorem clearWithheld_coder (s : State) : (s.clearWithheld).coder = s.coder := rfl
@[simp] theorem clearWithheld_printDec (s : State) : (s.clearWithheld).printDec = s.printDec := rfl
@[simp] theorem clearWithheld_line (s : State) : (s.clearWithheld).line = s.line := rfl
@[simp] theorem clearWithheld_scanner (s : State) : (s.clearWithheld).scanner = s.scanner := rfl
@[simp] theorem clearWithheld_head (s : State) : (s.clearWithheld).head = s.head := rfl
@[simp] theorem clearWithheld_pf (s : State) : (s.clearWithheld).pf = s.pf := rfl
@[simp] theorem clearWithheld_sf (s : State) : (s.clearWithheld).sf = s.sf := rfl
@[simp] theorem clearWithheld_cutter (s : State) : (s.clearWithheld).cutter = s.cutter := rfl
@[simp] theorem clearWithheld_hostIn (s : State) : (s.clearWithheld).hostIn = s.hostIn := rfl
@[simp] theorem clearWithheld_hostOut (s : State) : (s.clearWithheld).hostOut = s.hostOut := rfl
@[simp] theorem clearWithheld_power (s : State) : (s.clearWithheld).power = s.power := rfl
@[simp] theorem clearWithheld_boot (s : State) : (s.clearWithheld).boot = s.boot := rfl
@[simp] theorem clearWithheld_route (s : State) (i : RouteNo) : (s.clearWithheld).route i = s.route i := rfl
@[simp] theorem clearWithheld_page (s : State) (i : PageNo) : (s.clearWithheld).page i = s.page i := rfl
@[simp] theorem clearWithheld_table (s : State) (i : TableNo) : (s.clearWithheld).table i = s.table i := rfl
@[simp] theorem clearWithheld_motor (s : State) (i : MotorName) : (s.clearWithheld).motor i = s.motor i := by cases i <;> rfl

/-! ## reach -/

@[simp] theorem reach_pending (s : State) (d : Nat) : (s.reach d).pending = s.pending := rfl
@[simp] theorem reach_choices (s : State) (d : Nat) : (s.reach d).choices = s.choices := rfl
@[simp] theorem reach_pins (s : State) (d : Nat) : (s.reach d).pins = s.pins := rfl
@[simp] theorem reach_setup (s : State) (d : Nat) : (s.reach d).setup = s.setup := rfl
@[simp] theorem reach_parser (s : State) (d : Nat) : (s.reach d).parser = s.parser := rfl
@[simp] theorem reach_port (s : State) (d : Nat) : (s.reach d).port = s.port := rfl
@[simp] theorem reach_reports (s : State) (d : Nat) : (s.reach d).reports = s.reports := rfl
@[simp] theorem reach_tables (s : State) (d : Nat) : (s.reach d).tables = s.tables := rfl
@[simp] theorem reach_store (s : State) (d : Nat) : (s.reach d).store = s.store := rfl
@[simp] theorem reach_pool (s : State) (d : Nat) : (s.reach d).pool = s.pool := rfl
@[simp] theorem reach_pages (s : State) (d : Nat) : (s.reach d).pages = s.pages := rfl
@[simp] theorem reach_routes (s : State) (d : Nat) : (s.reach d).routes = s.routes := rfl
@[simp] theorem reach_engines (s : State) (d : Nat) : (s.reach d).engines = s.engines := rfl
@[simp] theorem reach_coder (s : State) (d : Nat) : (s.reach d).coder = s.coder := rfl
@[simp] theorem reach_printDec (s : State) (d : Nat) : (s.reach d).printDec = s.printDec := rfl
@[simp] theorem reach_line (s : State) (d : Nat) : (s.reach d).line = s.line := rfl
@[simp] theorem reach_scanner (s : State) (d : Nat) : (s.reach d).scanner = s.scanner := rfl
@[simp] theorem reach_head (s : State) (d : Nat) : (s.reach d).head = s.head := rfl
@[simp] theorem reach_pf (s : State) (d : Nat) : (s.reach d).pf = s.pf := rfl
@[simp] theorem reach_sf (s : State) (d : Nat) : (s.reach d).sf = s.sf := rfl
@[simp] theorem reach_cutter (s : State) (d : Nat) : (s.reach d).cutter = s.cutter := rfl
@[simp] theorem reach_hostIn (s : State) (d : Nat) : (s.reach d).hostIn = s.hostIn := rfl
@[simp] theorem reach_hostOut (s : State) (d : Nat) : (s.reach d).hostOut = s.hostOut := rfl
@[simp] theorem reach_power (s : State) (d : Nat) : (s.reach d).power = s.power := rfl
@[simp] theorem reach_boot (s : State) (d : Nat) : (s.reach d).boot = s.boot := rfl
@[simp] theorem reach_route (s : State) (d : Nat) (i : RouteNo) : (s.reach d).route i = s.route i := rfl
@[simp] theorem reach_page (s : State) (d : Nat) (i : PageNo) : (s.reach d).page i = s.page i := rfl
@[simp] theorem reach_table (s : State) (d : Nat) (i : TableNo) : (s.reach d).table i = s.table i := rfl
@[simp] theorem reach_motor (s : State) (d : Nat) (i : MotorName) : (s.reach d).motor i = s.motor i := by cases i <;> rfl

/-! ## queueLink -/

@[simp] theorem queueLink_pending (s : State) (b : Nat) (v : Word) : (s.queueLink b v).pending = s.pending := rfl
@[simp] theorem queueLink_now (s : State) (b : Nat) (v : Word) : (s.queueLink b v).now = s.now := rfl
@[simp] theorem queueLink_choices (s : State) (b : Nat) (v : Word) : (s.queueLink b v).choices = s.choices := rfl
@[simp] theorem queueLink_pins (s : State) (b : Nat) (v : Word) : (s.queueLink b v).pins = s.pins := rfl
@[simp] theorem queueLink_setup (s : State) (b : Nat) (v : Word) : (s.queueLink b v).setup = s.setup := rfl
@[simp] theorem queueLink_parser (s : State) (b : Nat) (v : Word) : (s.queueLink b v).parser = s.parser := rfl
@[simp] theorem queueLink_port (s : State) (b : Nat) (v : Word) : (s.queueLink b v).port = s.port := rfl
@[simp] theorem queueLink_reports (s : State) (b : Nat) (v : Word) : (s.queueLink b v).reports = s.reports := rfl
@[simp] theorem queueLink_tables (s : State) (b : Nat) (v : Word) : (s.queueLink b v).tables = s.tables := rfl
@[simp] theorem queueLink_store (s : State) (b : Nat) (v : Word) : (s.queueLink b v).store = s.store := rfl
@[simp] theorem queueLink_pages (s : State) (b : Nat) (v : Word) : (s.queueLink b v).pages = s.pages := rfl
@[simp] theorem queueLink_routes (s : State) (b : Nat) (v : Word) : (s.queueLink b v).routes = s.routes := rfl
@[simp] theorem queueLink_engines (s : State) (b : Nat) (v : Word) : (s.queueLink b v).engines = s.engines := rfl
@[simp] theorem queueLink_coder (s : State) (b : Nat) (v : Word) : (s.queueLink b v).coder = s.coder := rfl
@[simp] theorem queueLink_printDec (s : State) (b : Nat) (v : Word) : (s.queueLink b v).printDec = s.printDec := rfl
@[simp] theorem queueLink_line (s : State) (b : Nat) (v : Word) : (s.queueLink b v).line = s.line := rfl
@[simp] theorem queueLink_scanner (s : State) (b : Nat) (v : Word) : (s.queueLink b v).scanner = s.scanner := rfl
@[simp] theorem queueLink_head (s : State) (b : Nat) (v : Word) : (s.queueLink b v).head = s.head := rfl
@[simp] theorem queueLink_pf (s : State) (b : Nat) (v : Word) : (s.queueLink b v).pf = s.pf := rfl
@[simp] theorem queueLink_sf (s : State) (b : Nat) (v : Word) : (s.queueLink b v).sf = s.sf := rfl
@[simp] theorem queueLink_cutter (s : State) (b : Nat) (v : Word) : (s.queueLink b v).cutter = s.cutter := rfl
@[simp] theorem queueLink_hostIn (s : State) (b : Nat) (v : Word) : (s.queueLink b v).hostIn = s.hostIn := rfl
@[simp] theorem queueLink_hostOut (s : State) (b : Nat) (v : Word) : (s.queueLink b v).hostOut = s.hostOut := rfl
@[simp] theorem queueLink_power (s : State) (b : Nat) (v : Word) : (s.queueLink b v).power = s.power := rfl
@[simp] theorem queueLink_boot (s : State) (b : Nat) (v : Word) : (s.queueLink b v).boot = s.boot := rfl
@[simp] theorem queueLink_route (s : State) (b : Nat) (v : Word) (i : RouteNo) : (s.queueLink b v).route i = s.route i := rfl
@[simp] theorem queueLink_page (s : State) (b : Nat) (v : Word) (i : PageNo) : (s.queueLink b v).page i = s.page i := rfl
@[simp] theorem queueLink_table (s : State) (b : Nat) (v : Word) (i : TableNo) : (s.queueLink b v).table i = s.table i := rfl
@[simp] theorem queueLink_motor (s : State) (b : Nat) (v : Word) (i : MotorName) : (s.queueLink b v).motor i = s.motor i := by cases i <;> rfl

/-! ## setMotor -/

@[simp] theorem setMotor_pending (s : State) (m : MotorName) (x : Motor) : (s.setMotor m x).pending = s.pending := by cases m <;> rfl
@[simp] theorem setMotor_now (s : State) (m : MotorName) (x : Motor) : (s.setMotor m x).now = s.now := by cases m <;> rfl
@[simp] theorem setMotor_choices (s : State) (m : MotorName) (x : Motor) : (s.setMotor m x).choices = s.choices := by cases m <;> rfl
@[simp] theorem setMotor_pins (s : State) (m : MotorName) (x : Motor) : (s.setMotor m x).pins = s.pins := by cases m <;> rfl
@[simp] theorem setMotor_setup (s : State) (m : MotorName) (x : Motor) : (s.setMotor m x).setup = s.setup := by cases m <;> rfl
@[simp] theorem setMotor_parser (s : State) (m : MotorName) (x : Motor) : (s.setMotor m x).parser = s.parser := by cases m <;> rfl
@[simp] theorem setMotor_port (s : State) (m : MotorName) (x : Motor) : (s.setMotor m x).port = s.port := by cases m <;> rfl
@[simp] theorem setMotor_reports (s : State) (m : MotorName) (x : Motor) : (s.setMotor m x).reports = s.reports := by cases m <;> rfl
@[simp] theorem setMotor_tables (s : State) (m : MotorName) (x : Motor) : (s.setMotor m x).tables = s.tables := by cases m <;> rfl
@[simp] theorem setMotor_store (s : State) (m : MotorName) (x : Motor) : (s.setMotor m x).store = s.store := by cases m <;> rfl
@[simp] theorem setMotor_pool (s : State) (m : MotorName) (x : Motor) : (s.setMotor m x).pool = s.pool := by cases m <;> rfl
@[simp] theorem setMotor_pages (s : State) (m : MotorName) (x : Motor) : (s.setMotor m x).pages = s.pages := by cases m <;> rfl
@[simp] theorem setMotor_routes (s : State) (m : MotorName) (x : Motor) : (s.setMotor m x).routes = s.routes := by cases m <;> rfl
@[simp] theorem setMotor_engines (s : State) (m : MotorName) (x : Motor) : (s.setMotor m x).engines = s.engines := by cases m <;> rfl
@[simp] theorem setMotor_coder (s : State) (m : MotorName) (x : Motor) : (s.setMotor m x).coder = s.coder := by cases m <;> rfl
@[simp] theorem setMotor_printDec (s : State) (m : MotorName) (x : Motor) : (s.setMotor m x).printDec = s.printDec := by cases m <;> rfl
@[simp] theorem setMotor_line (s : State) (m : MotorName) (x : Motor) : (s.setMotor m x).line = s.line := by cases m <;> rfl
@[simp] theorem setMotor_scanner (s : State) (m : MotorName) (x : Motor) : (s.setMotor m x).scanner = s.scanner := by cases m <;> rfl
@[simp] theorem setMotor_head (s : State) (m : MotorName) (x : Motor) : (s.setMotor m x).head = s.head := by cases m <;> rfl
@[simp] theorem setMotor_cutter (s : State) (m : MotorName) (x : Motor) : (s.setMotor m x).cutter = s.cutter := by cases m <;> rfl
@[simp] theorem setMotor_hostIn (s : State) (m : MotorName) (x : Motor) : (s.setMotor m x).hostIn = s.hostIn := by cases m <;> rfl
@[simp] theorem setMotor_hostOut (s : State) (m : MotorName) (x : Motor) : (s.setMotor m x).hostOut = s.hostOut := by cases m <;> rfl
@[simp] theorem setMotor_power (s : State) (m : MotorName) (x : Motor) : (s.setMotor m x).power = s.power := by cases m <;> rfl
@[simp] theorem setMotor_boot (s : State) (m : MotorName) (x : Motor) : (s.setMotor m x).boot = s.boot := by cases m <;> rfl
@[simp] theorem setMotor_route (s : State) (m : MotorName) (x : Motor) (i : RouteNo) : (s.setMotor m x).route i = s.route i := by cases m <;> rfl
@[simp] theorem setMotor_page (s : State) (m : MotorName) (x : Motor) (i : PageNo) : (s.setMotor m x).page i = s.page i := by cases m <;> rfl
@[simp] theorem setMotor_table (s : State) (m : MotorName) (x : Motor) (i : TableNo) : (s.setMotor m x).table i = s.table i := by cases m <;> rfl

/-! ## takeWatermark -/

@[simp] theorem takeWatermark_pending (s : State) : (s.takeWatermark).pending = s.pending := rfl
@[simp] theorem takeWatermark_now (s : State) : (s.takeWatermark).now = s.now := rfl
@[simp] theorem takeWatermark_choices (s : State) : (s.takeWatermark).choices = s.choices := rfl
@[simp] theorem takeWatermark_pins (s : State) : (s.takeWatermark).pins = s.pins := rfl
@[simp] theorem takeWatermark_setup (s : State) : (s.takeWatermark).setup = s.setup := rfl
@[simp] theorem takeWatermark_parser (s : State) : (s.takeWatermark).parser = s.parser := rfl
@[simp] theorem takeWatermark_port (s : State) : (s.takeWatermark).port = s.port := rfl
@[simp] theorem takeWatermark_reports (s : State) : (s.takeWatermark).reports = s.reports := rfl
@[simp] theorem takeWatermark_tables (s : State) : (s.takeWatermark).tables = s.tables := rfl
@[simp] theorem takeWatermark_store (s : State) : (s.takeWatermark).store = s.store := rfl
@[simp] theorem takeWatermark_pool (s : State) : (s.takeWatermark).pool = s.pool := rfl
@[simp] theorem takeWatermark_pages (s : State) : (s.takeWatermark).pages = s.pages := rfl
@[simp] theorem takeWatermark_routes (s : State) : (s.takeWatermark).routes = s.routes := rfl
@[simp] theorem takeWatermark_engines (s : State) : (s.takeWatermark).engines = s.engines := rfl
@[simp] theorem takeWatermark_coder (s : State) : (s.takeWatermark).coder = s.coder := rfl
@[simp] theorem takeWatermark_printDec (s : State) : (s.takeWatermark).printDec = s.printDec := rfl
@[simp] theorem takeWatermark_line (s : State) : (s.takeWatermark).line = s.line := rfl
@[simp] theorem takeWatermark_scanner (s : State) : (s.takeWatermark).scanner = s.scanner := rfl
@[simp] theorem takeWatermark_head (s : State) : (s.takeWatermark).head = s.head := rfl
@[simp] theorem takeWatermark_pf (s : State) : (s.takeWatermark).pf = s.pf := rfl
@[simp] theorem takeWatermark_sf (s : State) : (s.takeWatermark).sf = s.sf := rfl
@[simp] theorem takeWatermark_cutter (s : State) : (s.takeWatermark).cutter = s.cutter := rfl
@[simp] theorem takeWatermark_hostIn (s : State) : (s.takeWatermark).hostIn = s.hostIn := rfl
@[simp] theorem takeWatermark_hostOut (s : State) : (s.takeWatermark).hostOut = s.hostOut := rfl
@[simp] theorem takeWatermark_boot (s : State) : (s.takeWatermark).boot = s.boot := rfl
@[simp] theorem takeWatermark_route (s : State) (i : RouteNo) : (s.takeWatermark).route i = s.route i := rfl
@[simp] theorem takeWatermark_page (s : State) (i : PageNo) : (s.takeWatermark).page i = s.page i := rfl
@[simp] theorem takeWatermark_table (s : State) (i : TableNo) : (s.takeWatermark).table i = s.table i := rfl
@[simp] theorem takeWatermark_motor (s : State) (i : MotorName) : (s.takeWatermark).motor i = s.motor i := by cases i <;> rfl
@[simp] theorem takeWatermark_level (s : State) : s.takeWatermark.power.level = s.power.level := rfl
@[simp] theorem takeWatermark_watermark (s : State) : s.takeWatermark.power.watermark = s.setup.watermark := rfl

/-! ## clearDamage -/

@[simp] theorem clearDamage_pending (s : State) (p : PageNo) : (s.clearDamage p).pending = s.pending := rfl
@[simp] theorem clearDamage_now (s : State) (p : PageNo) : (s.clearDamage p).now = s.now := rfl
@[simp] theorem clearDamage_choices (s : State) (p : PageNo) : (s.clearDamage p).choices = s.choices := rfl
@[simp] theorem clearDamage_pins (s : State) (p : PageNo) : (s.clearDamage p).pins = s.pins := rfl
@[simp] theorem clearDamage_setup (s : State) (p : PageNo) : (s.clearDamage p).setup = s.setup := rfl
@[simp] theorem clearDamage_parser (s : State) (p : PageNo) : (s.clearDamage p).parser = s.parser := rfl
@[simp] theorem clearDamage_port (s : State) (p : PageNo) : (s.clearDamage p).port = s.port := rfl
@[simp] theorem clearDamage_reports (s : State) (p : PageNo) : (s.clearDamage p).reports = s.reports := rfl
@[simp] theorem clearDamage_tables (s : State) (p : PageNo) : (s.clearDamage p).tables = s.tables := rfl
@[simp] theorem clearDamage_store (s : State) (p : PageNo) : (s.clearDamage p).store = s.store := rfl
@[simp] theorem clearDamage_pages (s : State) (p : PageNo) : (s.clearDamage p).pages = s.pages := rfl
@[simp] theorem clearDamage_routes (s : State) (p : PageNo) : (s.clearDamage p).routes = s.routes := rfl
@[simp] theorem clearDamage_engines (s : State) (p : PageNo) : (s.clearDamage p).engines = s.engines := rfl
@[simp] theorem clearDamage_coder (s : State) (p : PageNo) : (s.clearDamage p).coder = s.coder := rfl
@[simp] theorem clearDamage_printDec (s : State) (p : PageNo) : (s.clearDamage p).printDec = s.printDec := rfl
@[simp] theorem clearDamage_line (s : State) (p : PageNo) : (s.clearDamage p).line = s.line := rfl
@[simp] theorem clearDamage_scanner (s : State) (p : PageNo) : (s.clearDamage p).scanner = s.scanner := rfl
@[simp] theorem clearDamage_head (s : State) (p : PageNo) : (s.clearDamage p).head = s.head := rfl
@[simp] theorem clearDamage_pf (s : State) (p : PageNo) : (s.clearDamage p).pf = s.pf := rfl
@[simp] theorem clearDamage_sf (s : State) (p : PageNo) : (s.clearDamage p).sf = s.sf := rfl
@[simp] theorem clearDamage_cutter (s : State) (p : PageNo) : (s.clearDamage p).cutter = s.cutter := rfl
@[simp] theorem clearDamage_hostIn (s : State) (p : PageNo) : (s.clearDamage p).hostIn = s.hostIn := rfl
@[simp] theorem clearDamage_hostOut (s : State) (p : PageNo) : (s.clearDamage p).hostOut = s.hostOut := rfl
@[simp] theorem clearDamage_power (s : State) (p : PageNo) : (s.clearDamage p).power = s.power := rfl
@[simp] theorem clearDamage_boot (s : State) (p : PageNo) : (s.clearDamage p).boot = s.boot := rfl
@[simp] theorem clearDamage_route (s : State) (p : PageNo) (i : RouteNo) : (s.clearDamage p).route i = s.route i := rfl
@[simp] theorem clearDamage_page (s : State) (p : PageNo) (i : PageNo) : (s.clearDamage p).page i = s.page i := rfl
@[simp] theorem clearDamage_table (s : State) (p : PageNo) (i : TableNo) : (s.clearDamage p).table i = s.table i := rfl
@[simp] theorem clearDamage_motor (s : State) (p : PageNo) (i : MotorName) : (s.clearDamage p).motor i = s.motor i := by cases i <;> rfl
@[simp] theorem clearDamage_state (s : State) (p : PageNo) : (s.clearDamage p).pool.state = s.pool.state := rfl
@[simp] theorem clearDamage_freeHead (s : State) (p : PageNo) : (s.clearDamage p).pool.freeHead = s.pool.freeHead := rfl
@[simp] theorem clearDamage_freeTail (s : State) (p : PageNo) : (s.clearDamage p).pool.freeTail = s.pool.freeTail := rfl
@[simp] theorem clearDamage_freeCount (s : State) (p : PageNo) : (s.clearDamage p).pool.freeCount = s.pool.freeCount := rfl
@[simp] theorem clearDamage_spare (s : State) (p : PageNo) : (s.clearDamage p).pool.spare = s.pool.spare := rfl
@[simp] theorem clearDamage_stranded (s : State) (p : PageNo) : (s.clearDamage p).pool.stranded = s.pool.stranded := rfl
@[simp] theorem clearDamage_alert (s : State) (p : PageNo) : (s.clearDamage p).pool.alert = s.pool.alert := rfl
@[simp] theorem clearDamage_rebuild (s : State) (p : PageNo) : (s.clearDamage p).pool.rebuild = s.pool.rebuild := rfl
@[simp] theorem clearDamage_dirQueue (s : State) (p : PageNo) : (s.clearDamage p).pool.dirQueue = s.pool.dirQueue := rfl

/-! ## disownDamage -/

@[simp] theorem disownDamage_pending (s : State) (r : RouteNo) : (s.disownDamage r).pending = s.pending := rfl
@[simp] theorem disownDamage_now (s : State) (r : RouteNo) : (s.disownDamage r).now = s.now := rfl
@[simp] theorem disownDamage_choices (s : State) (r : RouteNo) : (s.disownDamage r).choices = s.choices := rfl
@[simp] theorem disownDamage_pins (s : State) (r : RouteNo) : (s.disownDamage r).pins = s.pins := rfl
@[simp] theorem disownDamage_setup (s : State) (r : RouteNo) : (s.disownDamage r).setup = s.setup := rfl
@[simp] theorem disownDamage_parser (s : State) (r : RouteNo) : (s.disownDamage r).parser = s.parser := rfl
@[simp] theorem disownDamage_port (s : State) (r : RouteNo) : (s.disownDamage r).port = s.port := rfl
@[simp] theorem disownDamage_reports (s : State) (r : RouteNo) : (s.disownDamage r).reports = s.reports := rfl
@[simp] theorem disownDamage_tables (s : State) (r : RouteNo) : (s.disownDamage r).tables = s.tables := rfl
@[simp] theorem disownDamage_store (s : State) (r : RouteNo) : (s.disownDamage r).store = s.store := rfl
@[simp] theorem disownDamage_pages (s : State) (r : RouteNo) : (s.disownDamage r).pages = s.pages := rfl
@[simp] theorem disownDamage_routes (s : State) (r : RouteNo) : (s.disownDamage r).routes = s.routes := rfl
@[simp] theorem disownDamage_engines (s : State) (r : RouteNo) : (s.disownDamage r).engines = s.engines := rfl
@[simp] theorem disownDamage_coder (s : State) (r : RouteNo) : (s.disownDamage r).coder = s.coder := rfl
@[simp] theorem disownDamage_printDec (s : State) (r : RouteNo) : (s.disownDamage r).printDec = s.printDec := rfl
@[simp] theorem disownDamage_line (s : State) (r : RouteNo) : (s.disownDamage r).line = s.line := rfl
@[simp] theorem disownDamage_scanner (s : State) (r : RouteNo) : (s.disownDamage r).scanner = s.scanner := rfl
@[simp] theorem disownDamage_head (s : State) (r : RouteNo) : (s.disownDamage r).head = s.head := rfl
@[simp] theorem disownDamage_pf (s : State) (r : RouteNo) : (s.disownDamage r).pf = s.pf := rfl
@[simp] theorem disownDamage_sf (s : State) (r : RouteNo) : (s.disownDamage r).sf = s.sf := rfl
@[simp] theorem disownDamage_cutter (s : State) (r : RouteNo) : (s.disownDamage r).cutter = s.cutter := rfl
@[simp] theorem disownDamage_hostIn (s : State) (r : RouteNo) : (s.disownDamage r).hostIn = s.hostIn := rfl
@[simp] theorem disownDamage_hostOut (s : State) (r : RouteNo) : (s.disownDamage r).hostOut = s.hostOut := rfl
@[simp] theorem disownDamage_power (s : State) (r : RouteNo) : (s.disownDamage r).power = s.power := rfl
@[simp] theorem disownDamage_boot (s : State) (r : RouteNo) : (s.disownDamage r).boot = s.boot := rfl
@[simp] theorem disownDamage_route (s : State) (r : RouteNo) (i : RouteNo) : (s.disownDamage r).route i = s.route i := rfl
@[simp] theorem disownDamage_page (s : State) (r : RouteNo) (i : PageNo) : (s.disownDamage r).page i = s.page i := rfl
@[simp] theorem disownDamage_table (s : State) (r : RouteNo) (i : TableNo) : (s.disownDamage r).table i = s.table i := rfl
@[simp] theorem disownDamage_motor (s : State) (r : RouteNo) (i : MotorName) : (s.disownDamage r).motor i = s.motor i := by cases i <;> rfl
@[simp] theorem disownDamage_state (s : State) (r : RouteNo) : (s.disownDamage r).pool.state = s.pool.state := rfl
@[simp] theorem disownDamage_freeHead (s : State) (r : RouteNo) : (s.disownDamage r).pool.freeHead = s.pool.freeHead := rfl
@[simp] theorem disownDamage_freeTail (s : State) (r : RouteNo) : (s.disownDamage r).pool.freeTail = s.pool.freeTail := rfl
@[simp] theorem disownDamage_freeCount (s : State) (r : RouteNo) : (s.disownDamage r).pool.freeCount = s.pool.freeCount := rfl
@[simp] theorem disownDamage_spare (s : State) (r : RouteNo) : (s.disownDamage r).pool.spare = s.pool.spare := rfl
@[simp] theorem disownDamage_stranded (s : State) (r : RouteNo) : (s.disownDamage r).pool.stranded = s.pool.stranded := rfl
@[simp] theorem disownDamage_alert (s : State) (r : RouteNo) : (s.disownDamage r).pool.alert = s.pool.alert := rfl
@[simp] theorem disownDamage_rebuild (s : State) (r : RouteNo) : (s.disownDamage r).pool.rebuild = s.pool.rebuild := rfl
@[simp] theorem disownDamage_dirQueue (s : State) (r : RouteNo) : (s.disownDamage r).pool.dirQueue = s.pool.dirQueue := rfl

/-! ## The parts an update sets -/

@[simp] theorem putReport_reports (s : State) (x : Report) (w : Bool) :
    (s.putReport x w).reports = enqueue x w s.reports := rfl
@[simp] theorem clearWithheld_reports (s : State) :
    s.clearWithheld.reports = s.reports.map QueueEntry.shown := rfl
@[simp] theorem reach_now (s : State) (d : Nat) : (s.reach d).now = max s.now d := rfl
@[simp] theorem setDram_dram (s : State) (m : List (Nat × StoreWord)) :
    (s.setDram m).store.dram = m := rfl
@[simp] theorem queueLink_dirQueue (s : State) (b : Nat) (v : Word) :
    (s.queueLink b v).pool.dirQueue = s.pool.dirQueue ++ [.link b v] := rfl
@[simp] theorem setMotor_pf (s : State) (x : Motor) : (s.setMotor .pf x).pf = x := rfl
@[simp] theorem setMotor_sf (s : State) (x : Motor) : (s.setMotor .sf x).sf = x := rfl
@[simp] theorem setMotor_pf_sf (s : State) (x : Motor) : (s.setMotor .pf x).sf = s.sf := rfl
@[simp] theorem setMotor_sf_pf (s : State) (x : Motor) : (s.setMotor .sf x).pf = s.pf := rfl

end Sys2Proof.Machine
end

