-- ==== Sys2Proof/Laws/Calm.lean ====
section
/-! SUPPORT. What every operation that follows within an event leaves as it is (`Calm`): the clock, the pins, the
SETUP values, the parser, the tables but for their bind counts, the DRAM, the error log, the Boot Controller but for
its task; and that it keeps the queue's form and the capacities. -/

namespace Sys2Proof.Machine

/-- A table slot but for its bind count. -/
def TableSlot.unbound (x : TableSlot) : TableSlot := { x with binds := 0 }

/-- The Boot Controller but for its work in hand. -/
def Boot.idle (b : Boot) : Boot := { b with task := .none }

/-- The counts of a route record. -/
def Route.counts (x : Route) : Nat × Nat × Nat × Nat × Nat :=
  (x.linesDone, x.badLines, x.consecBad, x.skipped, x.overPhases)

theorem Route.countsWf_of_counts {x y : Route} (h : y.counts = x.counts) (hx : x.countsWf) :
    y.countsWf := by
  simp only [Route.counts, Prod.mk.injEq] at h
  simp only [Route.countsWf] at *
  omega

/-- Every part of a state that the operations of an event leave as it is. -/
structure Same (s t : State) : Prop where
  pending : t.pending = s.pending
  now : t.now = s.now
  pins : t.pins = s.pins
  setup : t.setup = s.setup
  parser : t.parser = s.parser
  geometry : t.store.geometry = s.store.geometry
  dram : t.store.dram = s.store.dram
  initLeft : t.store.initLeft = s.store.initLeft
  init : (t.store.state = .init) = (s.store.state = .init)
  log : t.store.log = s.store.log
  scrubPos : t.store.scrubPos = s.store.scrubPos
  theta : t.head.theta = s.head.theta
  volts : t.head.volts = s.head.volts
  tables : ∀ i, (t.table i).unbound = (s.table i).unbound
  inFifo : t.port.inFifo = s.port.inFifo
  lastRead : t.port.lastRead = s.port.lastRead
  boot : t.boot.idle = s.boot.idle

/-- `Same`, and the form and the capacities are kept. -/
structure Calm (s t : State) : Prop extends Same s t where
  lite : s.Lite → t.Lite

theorem Same.refl (s : State) : Same s s := by constructor <;> intros <;> rfl

theorem Same.trans {s t u : State} (h : Same s t) (k : Same t u) : Same s u where
  pending := k.pending.trans h.pending
  now := k.now.trans h.now
  pins := k.pins.trans h.pins
  setup := k.setup.trans h.setup
  parser := k.parser.trans h.parser
  geometry := k.geometry.trans h.geometry
  dram := k.dram.trans h.dram
  initLeft := k.initLeft.trans h.initLeft
  init := k.init.trans h.init
  log := k.log.trans h.log
  scrubPos := k.scrubPos.trans h.scrubPos
  theta := k.theta.trans h.theta
  volts := k.volts.trans h.volts
  tables i := (k.tables i).trans (h.tables i)
  inFifo := k.inFifo.trans h.inFifo
  lastRead := k.lastRead.trans h.lastRead
  boot := k.boot.trans h.boot

theorem Calm.refl (s : State) : Calm s s := ⟨Same.refl s, id⟩

theorem Calm.trans {s t u : State} (h : Calm s t) (k : Calm t u) : Calm s u :=
  ⟨h.toSame.trans k.toSame, fun l => k.lite (h.lite l)⟩

theorem calm_ite {s a b : State} {c : Prop} [Decidable c] (ha : Calm s a) (hb : Calm s b) :
    Calm s (if c then a else b) := by split <;> assumption

theorem calm_foldl {α : Type} (f : State → α → State) (hf : ∀ u x, Calm u (f u x)) (l : List α)
    (s : State) : Calm s (l.foldl f s) := by
  induction l generalizing s with
  | nil => exact Calm.refl s
  | cons x l ih => exact (hf s x).trans (ih _)

/-! ## Updates -/

/-- An update of parts that `Calm` leaves open. -/
theorem calm_mk {s t : State} {ch : Nat} {po : Port} {st : Store} {p : Pool}
    {pg : Vector PageEntry 32} {e : Engines} {co : Coder} {pd : PrintDecoder} {l : LinePort}
    {sc : Scanner} {h : Head} {m m' : Motor} {cu : Cutter} {hi : HostIn} {ho : HostOut} {pw : Power}
    {b : Boot} (h1 : po.inFifo = t.port.inFifo) (h2 : po.lastRead = t.port.lastRead)
    (h3 : po.outFifo = t.port.outFifo) (h4 : st.geometry = t.store.geometry)
    (h5 : st.dram = t.store.dram) (h6 : st.initLeft = t.store.initLeft)
    (h7 : (st.state = .init) = (t.store.state = .init)) (h8 : st.log = t.store.log)
    (h9 : st.scrubPos = t.store.scrubPos) (h10 : co.queue = t.coder.queue) (h11 : co.acc = t.coder.acc)
    (h12 : l.rxFifo = t.line.rxFifo) (h13 : l.txFifo = t.line.txFifo) (h14 : h.theta = t.head.theta)
    (h15 : h.volts = t.head.volts) (h16 : m.phase = t.pf.phase) (h17 : m'.phase = t.sf.phase)
    (h18 : hi.queue = t.hostIn.queue) (h19 : b.idle = t.boot.idle) :
    Calm s (State.mk t.pending t.now ch t.pins t.setup t.parser po t.reports t.tables st p pg t.routes
      e co pd l sc h m m' cu hi ho pw b) ↔ Calm s t := by
  have same : Same t (State.mk t.pending t.now ch t.pins t.setup t.parser po t.reports t.tables st p pg
      t.routes e co pd l sc h m m' cu hi ho pw b) :=
    ⟨rfl, rfl, rfl, rfl, rfl, h4, h5, h6, h7, h8, h9, h14, h15, fun _ => rfl, h1, h2, h19⟩
  have back : Same (State.mk t.pending t.now ch t.pins t.setup t.parser po t.reports t.tables st p pg
      t.routes e co pd l sc h m m' cu hi ho pw b) t :=
    ⟨rfl, rfl, rfl, rfl, rfl, h4.symm, h5.symm, h6.symm, h7.symm, h8.symm, h9.symm, h14.symm,
      h15.symm, fun _ => rfl, h1.symm, h2.symm, h19.symm⟩
  have lite : (State.mk t.pending t.now ch t.pins t.setup t.parser po t.reports t.tables st p pg
      t.routes e co pd l sc h m m' cu hi ho pw b).Lite ↔ t.Lite := by
    simp only [State.Lite, State.capsWf, h1, h3, h10, h11, h12, h13, h16, h17, h18, State.route]
  exact ⟨fun k => ⟨k.toSame.trans back, fun x => lite.1 (k.lite x)⟩,
    fun k => ⟨k.toSame.trans same, fun x => lite.2 (k.lite x)⟩⟩

theorem calm_setPage {s t : State} {p : PageNo} {e : PageEntry} :
    Calm s (t.setPage p e) ↔ Calm s t := by
  unfold State.setPage
  exact calm_mk rfl rfl rfl rfl rfl rfl rfl rfl rfl rfl rfl rfl rfl rfl rfl rfl rfl rfl rfl

theorem calm_setScanner {s t : State} {c : Scanner} : Calm s (t.setScanner c) ↔ Calm s t := by
  unfold State.setScanner
  exact calm_mk rfl rfl rfl rfl rfl rfl rfl rfl rfl rfl rfl rfl rfl rfl rfl rfl rfl rfl rfl

theorem calm_setRebuild {s t : State} {b : Rebuild} : Calm s (t.setRebuild b) ↔ Calm s t := by
  unfold State.setRebuild
  exact calm_mk rfl rfl rfl rfl rfl rfl rfl rfl rfl rfl rfl rfl rfl rfl rfl rfl rfl rfl rfl

theorem calm_setLine_eq {s t : State} {l : LinePort} (h1 : l.rxFifo = t.line.rxFifo)
    (h2 : l.txFifo = t.line.txFifo) : Calm s (t.setLine l) ↔ Calm s t := by
  unfold State.setLine
  exact calm_mk rfl rfl rfl rfl rfl rfl rfl rfl rfl rfl rfl h1 h2 rfl rfl rfl rfl rfl rfl

theorem calm_setMotor_eq {s t : State} {m : MotorName} {x : Motor}
    (h : x.phase = (t.motor m).phase) : Calm s (t.setMotor m x) ↔ Calm s t := by
  cases m
  · exact calm_mk rfl rfl rfl rfl rfl rfl rfl rfl rfl rfl rfl rfl rfl rfl rfl h rfl rfl rfl
  · exact calm_mk rfl rfl rfl rfl rfl rfl rfl rfl rfl rfl rfl rfl rfl rfl rfl rfl h rfl rfl

theorem calm_setPf_eq {s t : State} {x : Motor} (h : x.phase = t.pf.phase) :
    Calm s (t.setMotor .pf x) ↔ Calm s t := calm_setMotor_eq h

theorem calm_setSf_eq {s t : State} {x : Motor} (h : x.phase = t.sf.phase) :
    Calm s (t.setMotor .sf x) ↔ Calm s t := calm_setMotor_eq h

/-- A motor set with a phase that is in range where the old one is. -/
theorem calm_setMotor (t : State) (m : MotorName) (x : Motor)
    (h : (t.motor m).phase < 8 → x.phase < 8) : Calm t (t.setMotor m x) := by
  refine ⟨by cases m <;> (constructor <;> intros <;> rfl), fun k => ⟨by cases m <;> exact k.1, ?_,
    by cases m <;> exact k.2.2⟩⟩
  obtain ⟨a1, a2, a3, a4, a5, a6, a7, a8, a9⟩ := k.2.1
  cases m
  · exact ⟨a1, a2, a3, a4, a5, a6, a7, h a8, a9⟩
  · exact ⟨a1, a2, a3, a4, a5, a6, a7, a8, h a9⟩

/-- A route record set whose counts are in range where the old ones are. -/
theorem calm_setRoute (t : State) (r : RouteNo) (x : Route)
    (h : (t.route r).countsWf → x.countsWf) : Calm t (t.setRoute r x) := by
  refine ⟨by constructor <;> intros <;> rfl, fun k => ⟨k.1, k.2.1, fun q => ?_⟩⟩
  rw [route_setRoute]
  split
  · exact h (k.2.2 r)
  · exact k.2.2 q

theorem calm_setRoute_eq (t : State) (r : RouteNo) (x : Route)
    (h : x.counts = (t.route r).counts) : Calm t (t.setRoute r x) :=
  calm_setRoute t r x (Route.countsWf_of_counts h)

/-- A table slot set that differs in its bind count alone. -/
theorem calm_setTable (t : State) (i : TableNo) (x : TableSlot)
    (h : x.unbound = (t.table i).unbound) : Calm t (t.setTable i x) := by
  refine ⟨⟨rfl, rfl, rfl, rfl, rfl, rfl, rfl, rfl, rfl, rfl, rfl, rfl, rfl, fun j => ?_, rfl, rfl, rfl⟩,
    fun k => k⟩
  by_cases e : j = i
  · subst e; rw [table_setTable_same]; exact h
  · rw [table_setTable_other _ _ e]

theorem calm_bind (t : State) (i : TableNo) : Calm t (t.bind i) := calm_setTable t i _ rfl
theorem calm_unbind (t : State) (i : TableNo) : Calm t (t.unbind i) := calm_setTable t i _ rfl

/-! ## The Report Queue (R182) -/

theorem Report.place_of_key {x y : Report} (hx : x.key.isSome = true) (h : y.key = x.key) :
    y.place = x.place := by
  simp only [Report.place, h]
  cases hk : x.key with
  | none => simp [hk] at hx
  | some k => rfl

/-- Places of the queue after an entry joins or merges. -/
theorem enqueue_places (x : Report) (w : Bool) (q : List QueueEntry) :
    (enqueue x w q).map (fun e => e.report.place) = q.map (fun e => e.report.place) ∨
      ((enqueue x w q).map (fun e => e.report.place)
          = q.map (fun e => e.report.place) ++ [x.place] ∧
        ∀ e ∈ q, x.key.isSome = true → e.report.key ≠ x.key) := by
  induction q with
  | nil => right; simp [enqueue]
  | cons e q ih =>
    simp only [enqueue]
    split
    · rename_i h
      simp only [Bool.and_eq_true, beq_iff_eq] at h
      left
      simp [Report.place_of_key h.1 h.2]
    · rename_i h
      simp only [Bool.and_eq_true, beq_iff_eq, not_and] at h
      rcases ih with ih | ⟨ih, no⟩
      · left; simp [ih]
      · right
        refine ⟨by simp [ih], fun f hf hx => ?_⟩
        rcases List.mem_cons.1 hf with rfl | hf
        · exact h hx
        · exact no f hf hx

theorem Report.key_kind {x : Report} {k : Nat × Nat} (h : x.key = some k) :
    k.1 ≠ 0x8B ∧ k.1 ≠ 0x8C := by
  cases x <;> first | (cases h; done) | (cases h; constructor <;> simp [Report.kindCode])

theorem Report.key_of_place {x y : Report} (hx : x.key.isSome = true) (h : y.place = x.place) :
    y.key = x.key := by
  cases hk : x.key with
  | none => rw [hk] at hx; exact absurd hx (by decide)
  | some k =>
    have hp : x.place = k := by rw [Report.place, hk]; rfl
    cases hy : y.key with
    | some j =>
      have : y.place = j := by rw [Report.place, hy]; rfl
      rw [← this, h, hp]
    | none =>
      exfalso
      have kind := Report.key_kind hk
      have hj : y.place = (y.kindCode, 0) := by rw [Report.place, hy]; rfl
      have hc : y.kindCode = 0x8B ∨ y.kindCode = 0x8C := by
        cases y <;> first | (left; rfl) | (right; rfl) | (simp only [Report.key] at hy; exact absurd hy (by simp))
      have : k.1 = y.kindCode := by rw [← hp, ← h, hj]
      rcases hc with hc | hc
      · exact kind.1 (this.trans hc)
      · exact kind.2 (this.trans hc)

theorem enqueue_counts (x : Report) (w : Bool) (q : List QueueEntry)
    (h : ∀ e ∈ q, 1 ≤ e.count ∧ e.count ≤ 255) :
    ∀ e ∈ enqueue x w q, 1 ≤ e.count ∧ e.count ≤ 255 := by
  induction q with
  | nil => simp [enqueue]
  | cons e q ih =>
    simp only [enqueue]
    split
    · intro f hf
      rcases List.mem_cons.1 hf with rfl | hf
      · simp only []; omega
      · exact h f (List.mem_cons_of_mem _ hf)
    · intro f hf
      rcases List.mem_cons.1 hf with rfl | hf
      · exact h f List.mem_cons_self
      · exact ih (fun g hg => h g (List.mem_cons_of_mem _ hg)) f hf

/-- A keyed report keeps the queue's form; one without a key keeps it where no entry has its place. -/
theorem enqueue_wf (x : Report) (w : Bool) (q : List QueueEntry) (h : queueWf q)
    (hx : x.key.isSome = true ∨ ∀ e ∈ q, e.report.place ≠ x.place) : queueWf (enqueue x w q) := by
  refine ⟨?_, enqueue_counts x w q h.2⟩
  rcases enqueue_places x w q with e | ⟨e, no⟩
  · rw [e]; exact h.1
  · rw [e, List.nodup_append]
    refine ⟨h.1, List.nodup_singleton _, fun a ha b hb => ?_⟩
    obtain ⟨f, hf, rfl⟩ := List.mem_map.1 ha
    rw [List.mem_singleton.1 hb]
    rcases hx with hx | hx
    · exact fun heq => no f hf hx (Report.key_of_place hx heq)
    · exact hx f hf

theorem shown_wf (q : List QueueEntry) (h : queueWf q) : queueWf (q.map QueueEntry.shown) := by
  refine ⟨by simpa [List.map_map, Function.comp_def, QueueEntry.shown] using h.1, fun e he => ?_⟩
  obtain ⟨f, hf, rfl⟩ := List.mem_map.1 he
  exact h.2 f hf

theorem calm_putReport (t : State) (x : Report) (w : Bool) (hx : x.key.isSome = true) :
    Calm t (t.putReport x w) :=
  ⟨by constructor <;> intros <;> rfl, fun k => ⟨enqueue_wf x w t.reports k.1 (.inl hx), k.2⟩⟩

/-- A report without a key, of whose kind none waits. -/
theorem calm_putFree (t : State) (x : Report) (w : Bool) (hx : x.key = none)
    (no : ∀ e ∈ t.reports, e.report.kindCode ≠ x.kindCode) : Calm t (t.putReport x w) := by
  refine ⟨by constructor <;> intros <;> rfl,
    fun k => ⟨enqueue_wf x w t.reports k.1 (.inr fun e he h => ?_), k.2⟩⟩
  have hp : x.place = (x.kindCode, 0) := by rw [Report.place, hx]; rfl
  cases hy : e.report.key with
  | none =>
    have : e.report.place = (e.report.kindCode, 0) := by rw [Report.place, hy]; rfl
    rw [this, hp] at h
    exact no e he (Prod.mk.inj h).1
  | some k =>
    exact absurd (Report.key_of_place (x := e.report) (by simp [hy]) h.symm) (by simp [hx, hy])

theorem calm_clearWithheld (t : State) : Calm t t.clearWithheld :=
  ⟨by constructor <;> intros <;> rfl, fun k => ⟨shown_wf t.reports k.1, k.2⟩⟩

end Sys2Proof.Machine
end

