-- ==== Sys2Proof/Laws/CalmBlocks.lean ====
section
/-! SUPPORT. `Calm` of the operations of the requests, the levels, the pool, the strobe plan, the motors and the ends of
routes. -/

namespace Sys2Proof.Machine

theorem calm_queueImage (s : State) (p : PageNo) : Calm s (s.queueImage p) := by
  unfold State.queueImage
  try dsimp -proj only
  repeat' (first
    | with_reducible exact Calm.refl _
    | exact rfl
    | exact (fun h => h)
    | with_reducible refine calm_ite ?_ ?_
    | simp only [↓calm_mk])

theorem calm_queueLink (s : State) (block : Nat) (value : Word) : Calm s (s.queueLink block value) := by
  unfold State.queueLink
  try dsimp -proj only
  repeat' (first
    | with_reducible exact Calm.refl _
    | exact rfl
    | exact (fun h => h)
    | with_reducible refine calm_ite ?_ ?_
    | simp only [↓calm_mk])

theorem calm_granted (s : State) (b : BurstKind) : Calm s (s.granted b) := by
  unfold State.granted
  try dsimp -proj only
  repeat' (first
    | with_reducible exact Calm.refl _
    | exact rfl
    | exact (fun h => h)
    | with_reducible refine calm_ite ?_ ?_
    | simp only [↓calm_mk]
    | split)

theorem calm_supplyOn (s : State) : Calm s (s.supplyOn) := by
  unfold State.supplyOn
  try dsimp -proj only
  repeat' (first
    | with_reducible exact Calm.refl _
    | exact rfl
    | exact (fun h => h)
    | with_reducible refine calm_ite ?_ ?_
    | simp only [↓calm_mk])

theorem calm_supplyOff (s : State) : Calm s (s.supplyOff) := by
  unfold State.supplyOff
  try dsimp -proj only
  repeat' (first
    | with_reducible exact Calm.refl _
    | exact rfl
    | exact (fun h => h)
    | with_reducible refine calm_ite ?_ ?_
    | simp only [↓calm_mk])

theorem calm_holdsOff (s : State) : Calm s (s.holdsOff) := by
  unfold State.holdsOff
  try dsimp -proj only
  repeat' (first
    | with_reducible exact Calm.refl _
    | exact rfl
    | exact (fun h => h)
    | with_reducible refine calm_ite ?_ ?_
    | simp only [↓calm_mk, Motor.driveOff])

theorem calm_converterOn (s : State) : Calm s (s.converterOn) := by
  unfold State.converterOn
  try dsimp -proj only
  repeat' (first
    | with_reducible exact Calm.refl _
    | exact rfl
    | exact (fun h => h)
    | with_reducible refine calm_ite ?_ ?_
    | simp only [↓calm_mk])

theorem calm_startExit (s : State) (h : s.store.state ≠ .init) : Calm s s.startExit := by
  unfold State.startExit
  simp [↓calm_mk, h, Calm.refl]

theorem calm_storeWithdraw (s : State) : Calm s s.storeWithdraw := by
  unfold State.storeWithdraw
  split
  · rename_i h
    simp [↓calm_mk, h, Calm.refl]
  · rename_i h
    exact calm_startExit s (by simp [h])
  · simp [↓calm_mk, Calm.refl]

theorem calm_withdrawOrdinary (s : State) : Calm s (s.withdrawOrdinary) := by
  unfold State.withdrawOrdinary
  try dsimp -proj only
  repeat' (first
    | with_reducible exact Calm.refl _
    | exact rfl
    | exact (fun h => h)
    | with_reducible refine Calm.trans ?_ (calm_storeWithdraw ..)
    | with_reducible refine calm_ite ?_ ?_
    | simp only [↓calm_mk])

theorem calm_completeRun (s : State) : Calm s (s.completeRun) := by
  unfold State.completeRun
  try dsimp -proj only
  repeat' (first
    | with_reducible exact Calm.refl _
    | exact rfl
    | exact (fun h => h)
    | with_reducible refine Calm.trans ?_ (calm_clearWithheld ..)
    | with_reducible refine Calm.trans ?_ (calm_putReport _ _ _ ?_)
    | with_reducible refine Calm.trans ?_ (calm_supplyOn ..)
    | with_reducible refine Calm.trans ?_ (calm_converterOn ..)
    | with_reducible refine calm_ite ?_ ?_
    | simp only [↓calm_mk])

theorem calm_fullWake (s : State) : Calm s (s.fullWake) := by
  unfold State.fullWake
  try dsimp -proj only
  repeat' (first
    | with_reducible exact Calm.refl _
    | exact rfl
    | exact (fun h => h)
    | with_reducible refine Calm.trans ?_ (calm_withdrawOrdinary ..)
    | with_reducible refine Calm.trans ?_ (calm_completeRun ..)
    | with_reducible refine calm_ite ?_ ?_
    | simp only [↓calm_mk])

theorem calm_takeWake (s : State) (c : WakeCause) : Calm s (s.takeWake c) := by
  unfold State.takeWake
  try dsimp -proj only
  repeat' (first
    | with_reducible exact Calm.refl _
    | exact rfl
    | exact (fun h => h)
    | with_reducible refine Calm.trans ?_ (calm_fullWake ..)
    | with_reducible refine calm_ite ?_ ?_
    | simp only [↓calm_mk]
    | split)

theorem calm_queueReport (s : State) (x : Report) (hx : x.key.isSome = true) :
    Calm s (s.queueReport x) := by
  unfold State.queueReport
  repeat' (first
    | with_reducible exact Calm.refl _
    | with_reducible refine Calm.trans ?_ (calm_putReport _ _ _ hx)
    | with_reducible refine Calm.trans ?_ (calm_takeWake ..)
    | with_reducible refine calm_ite ?_ ?_)

theorem calm_placeRequest (s : State) : Calm s s.placeRequest := by
  unfold State.placeRequest
  dsimp only
  split
  · rename_i h
    simp [↓calm_mk, h, Calm.refl]
  · simp [↓calm_mk, Calm.refl]
  · simp [↓calm_mk, Calm.refl]

theorem calm_enterSelfRefresh (s : State) (h : s.store.state ≠ .init) : Calm s s.enterSelfRefresh := by
  unfold State.enterSelfRefresh
  dsimp only
  split <;> simp [↓calm_mk, h, Calm.refl]

theorem calm_entryAdvance (s : State) : Calm s s.entryAdvance := by
  unfold State.entryAdvance
  split
  · rename_i h
    exact calm_ite (calm_granted ..) (calm_enterSelfRefresh s (by simp [h.1]))
  · exact Calm.refl s

theorem calm_beginDoze (s : State) : Calm s (s.beginDoze) := by
  unfold State.beginDoze
  try dsimp -proj only
  repeat' (first
    | with_reducible exact Calm.refl _
    | exact rfl
    | exact (fun h => h)
    | with_reducible refine Calm.trans ?_ (calm_supplyOff ..)
    | with_reducible refine Calm.trans ?_ (calm_holdsOff ..)
    | with_reducible refine Calm.trans ?_ (calm_placeRequest ..)
    | with_reducible refine Calm.trans ?_ (calm_entryAdvance ..)
    | with_reducible refine calm_ite ?_ ?_
    | simp only [↓calm_mk])

theorem calm_routeTo (s : State) (r : RouteNo) (x : RouteState) : Calm s (s.routeTo r x) := by
  unfold State.routeTo
  try dsimp -proj only
  repeat' (first
    | with_reducible exact Calm.refl _
    | exact rfl
    | exact (fun h => h)
    | with_reducible refine Calm.trans ?_ (calm_setRoute _ _ _ ?_)
    | with_reducible refine Calm.trans ?_ (calm_queueReport _ _ ?_)
    | with_reducible refine calm_ite ?_ ?_
    | simp only [↓calm_mk, ↓calm_setPage, ↓calm_setScanner, ↓calm_setRebuild, ↓calm_setLine_eq, ↓calm_setMotor_eq, Motor.driveOff]
    | split)

theorem calm_unstarve (s : State) (slot : Option RouteNo) (starved : Bool) : Calm s (s.unstarve slot starved) := by
  unfold State.unstarve
  try dsimp -proj only
  repeat' (first
    | with_reducible exact Calm.refl _
    | exact rfl
    | exact (fun h => h)
    | with_reducible refine Calm.trans ?_ (calm_routeTo ..)
    | with_reducible refine calm_ite ?_ ?_
    | simp only [↓calm_mk, ↓calm_setPage, ↓calm_setScanner, ↓calm_setRebuild, ↓calm_setLine_eq, ↓calm_setMotor_eq, Motor.driveOff]
    | split)

theorem calm_availChange (s : State) (before : Nat) : Calm s (s.availChange before) := by
  unfold State.availChange
  try dsimp -proj only
  repeat' (first
    | with_reducible exact Calm.refl _
    | exact rfl
    | exact (fun h => h)
    | with_reducible refine Calm.trans ?_ (calm_queueReport _ _ ?_)
    | with_reducible refine Calm.trans ?_ (calm_unstarve ..)
    | with_reducible refine calm_ite ?_ ?_
    | simp only [↓calm_mk])

theorem calm_takeSpare (s : State) (r : RouteNo) : Calm s (s.takeSpare r) := by
  unfold State.takeSpare
  try dsimp -proj only
  repeat' (first
    | with_reducible exact Calm.refl _
    | exact rfl
    | exact (fun h => h)
    | with_reducible refine Calm.trans ?_ (calm_setRoute _ _ _ ?_)
    | with_reducible refine calm_ite ?_ ?_
    | simp only [↓calm_mk])

theorem calm_extendPage (s : State) (r : RouteNo) (p : PageNo) : Calm s (s.extendPage r p) := by
  unfold State.extendPage
  try dsimp -proj only
  repeat' (first
    | with_reducible exact Calm.refl _
    | exact rfl
    | exact (fun h => h)
    | with_reducible refine Calm.trans ?_ (calm_queueImage ..)
    | with_reducible refine Calm.trans ?_ (calm_queueLink ..)
    | with_reducible refine Calm.trans ?_ (calm_availChange ..)
    | with_reducible refine Calm.trans ?_ (calm_takeSpare ..)
    | with_reducible refine calm_ite ?_ ?_
    | simp only [↓calm_setPage])

theorem calm_openEntry (s : State) (r : RouteNo) (p : PageNo) (origin : Origin) : Calm s (s.openEntry r p origin) := by
  unfold State.openEntry
  try dsimp -proj only
  repeat' (first
    | with_reducible exact Calm.refl _
    | exact rfl
    | exact (fun h => h)
    | with_reducible refine Calm.trans ?_ (calm_setRoute _ _ _ ?_)
    | with_reducible refine Calm.trans ?_ (calm_queueImage ..)
    | with_reducible refine Calm.trans ?_ (calm_queueLink ..)
    | with_reducible refine Calm.trans ?_ (calm_queueReport _ _ ?_)
    | with_reducible refine Calm.trans ?_ (calm_availChange ..)
    | with_reducible refine Calm.trans ?_ (calm_takeSpare ..)
    | with_reducible refine calm_ite ?_ ?_
    | simp only [↓calm_mk, ↓calm_setPage])

theorem calm_closePage (s : State) (r : RouteNo) (p : PageNo) (c : PageClose) : Calm s (s.closePage r p c) := by
  unfold State.closePage
  try dsimp -proj only
  repeat' (first
    | with_reducible exact Calm.refl _
    | exact rfl
    | exact (fun h => h)
    | with_reducible refine Calm.trans ?_ (calm_setRoute _ _ _ ?_)
    | with_reducible refine Calm.trans ?_ (calm_queueImage ..)
    | with_reducible refine Calm.trans ?_ (calm_queueReport _ _ ?_)
    | with_reducible refine calm_ite ?_ ?_
    | simp only [↓calm_setPage])

theorem calm_setDamaged (s : State) (p : PageNo) : Calm s (s.setDamaged p) := by
  unfold State.setDamaged
  try dsimp -proj only
  repeat' (first
    | with_reducible exact Calm.refl _
    | exact rfl
    | exact (fun h => h)
    | with_reducible refine Calm.trans ?_ (calm_queueImage ..)
    | with_reducible refine Calm.trans ?_ (calm_queueReport _ _ ?_)
    | with_reducible refine calm_ite ?_ ?_
    | simp only [↓calm_setPage])

theorem calm_flagDamaged (s : State) (p : PageNo) (r : Option RouteNo) : Calm s (s.flagDamaged p r) := by
  unfold State.flagDamaged
  try dsimp -proj only
  repeat' (first
    | with_reducible exact Calm.refl _
    | exact rfl
    | exact (fun h => h)
    | with_reducible refine Calm.trans ?_ (calm_setDamaged ..)
    | with_reducible refine calm_ite ?_ ?_
    | simp only [↓calm_mk])

theorem calm_clearDamage (s : State) (p : PageNo) : Calm s (s.clearDamage p) := by
  unfold State.clearDamage
  simp only [↓calm_mk]
  exact Calm.refl s

theorem calm_damageTurn (s : State) (x : PageNo × Option RouteNo) : Calm s (s.damageTurn x) :=
  calm_ite ((calm_clearDamage ..).trans (calm_flagDamaged ..)) (Calm.refl s)

theorem calm_damagePass (s : State) : Calm s s.damagePass := calm_foldl _ calm_damageTurn _ s

theorem calm_splice (s : State) (p : PageNo) (c : Chain) : Calm s (s.splice p c) := by
  unfold State.splice
  try dsimp -proj only
  repeat' (first
    | with_reducible exact Calm.refl _
    | exact rfl
    | exact (fun h => h)
    | with_reducible refine Calm.trans ?_ (calm_queueLink ..)
    | with_reducible refine calm_ite ?_ ?_
    | simp only [↓calm_mk]
    | split)

theorem calm_freePage (s : State) (p : PageNo) : Calm s (s.freePage p) := by
  unfold State.freePage
  try dsimp -proj only
  repeat' (first
    | with_reducible exact Calm.refl _
    | exact rfl
    | exact (fun h => h)
    | with_reducible refine Calm.trans ?_ (calm_queueImage ..)
    | with_reducible refine Calm.trans ?_ (calm_queueReport _ _ ?_)
    | with_reducible refine Calm.trans ?_ (calm_availChange ..)
    | with_reducible refine Calm.trans ?_ (calm_clearDamage ..)
    | with_reducible refine Calm.trans ?_ (calm_splice ..)
    | with_reducible refine calm_ite ?_ ?_
    | simp only [↓calm_mk, ↓calm_setPage])

theorem calm_dropPage (s : State) (p : PageNo) : Calm s (s.dropPage p) := by
  unfold State.dropPage
  try dsimp -proj only
  repeat' (first
    | with_reducible exact Calm.refl _
    | exact rfl
    | exact (fun h => h)
    | with_reducible refine Calm.trans ?_ (calm_queueImage ..)
    | with_reducible refine Calm.trans ?_ (calm_queueReport _ _ ?_)
    | with_reducible refine calm_ite ?_ ?_
    | simp only [↓calm_setPage])

theorem clampRemainders_counts (n : Nat) (l : List Route) (i : Nat) (x : Route) :
    ((clampRemainders n l).getD i x).counts = (l.getD i x).counts := by
  induction l generalizing n i with
  | nil => rfl
  | cons y l ih => cases i with
    | zero => rfl
    | succ i => exact ih _ i

theorem calm_strand (s : State) : Calm s s.strand := by
  unfold State.strand
  dsimp -proj only
  refine Calm.trans ?_ (calm_availChange ..)
  refine Calm.trans ?_ (calm_queueReport _ _ rfl)
  refine ⟨⟨rfl, rfl, rfl, rfl, rfl, rfl, rfl, rfl, rfl, rfl, rfl, rfl, rfl, fun _ => rfl, rfl, rfl, rfl⟩,
    fun k => ⟨k.1, k.2.1, fun r => Route.countsWf_of_counts ?_ (k.2.2 r)⟩⟩
  simp only [State.route, Fin.getElem_fin, Vector.getElem_mapIdx]
  rw [clampRemainders_counts]
  simp

theorem calm_refill (s : State) (link : Option Word) : Calm s (s.refill link) := by
  unfold State.refill
  try dsimp -proj only
  repeat' (first
    | with_reducible exact Calm.refl _
    | exact rfl
    | exact (fun h => h)
    | with_reducible refine Calm.trans ?_ (calm_strand ..)
    | with_reducible refine calm_ite ?_ ?_
    | simp only [↓calm_mk])

theorem calm_refillPass (n : Nat) (s : State) : Calm s (State.refillPass n s) := by
  induction n generalizing s with
  | zero => exact Calm.refl s
  | succ n ih =>
    unfold State.refillPass
    split
    · split
      · exact calm_ite ((calm_refill ..).trans (ih _)) (Calm.refl s)
      · exact Calm.refl s
    · exact Calm.refl s

theorem calm_startRebuild (s : State) : Calm s (s.startRebuild) := by
  unfold State.startRebuild
  try dsimp -proj only
  repeat' (first
    | with_reducible exact Calm.refl _
    | exact rfl
    | exact (fun h => h)
    | with_reducible refine Calm.trans ?_ (calm_queueReport _ _ ?_)
    | with_reducible refine Calm.trans ?_ (calm_availChange ..)
    | with_reducible refine calm_ite ?_ ?_
    | simp only [↓calm_mk])

theorem calm_abandonRebuild (s : State) : Calm s (s.abandonRebuild) := by
  unfold State.abandonRebuild
  try dsimp -proj only
  repeat' (first
    | with_reducible exact Calm.refl _
    | exact rfl
    | exact (fun h => h)
    | with_reducible refine Calm.trans ?_ (calm_queueReport _ _ ?_)
    | with_reducible refine Calm.trans ?_ (calm_availChange ..)
    | with_reducible refine calm_ite ?_ ?_
    | simp only [↓calm_mk])

theorem calm_endRebuild (s : State) (first last : Option Nat) (count : Nat) : Calm s (s.endRebuild first last count) := by
  unfold State.endRebuild
  try dsimp -proj only
  repeat' (first
    | with_reducible exact Calm.refl _
    | exact rfl
    | exact (fun h => h)
    | with_reducible refine Calm.trans ?_ (calm_queueReport _ _ ?_)
    | with_reducible refine Calm.trans ?_ (calm_availChange ..)
    | with_reducible refine calm_ite ?_ ?_
    | simp only [↓calm_mk])

theorem calm_walkTo (s : State) (b : Rebuild) (p block left : Nat) : Calm s (s.walkTo b p block left) := by
  unfold State.walkTo
  try dsimp -proj only
  repeat' (first
    | with_reducible exact Calm.refl _
    | exact rfl
    | exact (fun h => h)
    | with_reducible refine Calm.trans ?_ (calm_abandonRebuild ..)
    | with_reducible refine calm_ite ?_ ?_
    | simp only [↓calm_setRebuild])

theorem calm_walkLink (s : State) (link : Option Word) : Calm s (s.walkLink link) := by
  unfold State.walkLink
  try dsimp -proj only
  repeat' (first
    | with_reducible exact Calm.refl _
    | exact rfl
    | exact (fun h => h)
    | with_reducible refine Calm.trans ?_ (calm_abandonRebuild ..)
    | with_reducible refine Calm.trans ?_ (calm_walkTo ..)
    | with_reducible refine calm_ite ?_ ?_
    | simp only [↓calm_mk, ↓calm_setPage, ↓calm_setScanner, ↓calm_setRebuild, ↓calm_setLine_eq, ↓calm_setMotor_eq, Motor.driveOff]
    | split)

theorem calm_rebuildMove (s : State) (b : Rebuild) (t : State) (h : s.rebuildMove b = some t) :
    Calm s t := by
  unfold State.rebuildMove at h
  dsimp -proj only at h
  repeat' (first | contradiction | (split at h))
  all_goals (try (simp only [Option.some.injEq] at h; subst h))
  all_goals (try (simp only [↓calm_setRebuild]))
  all_goals (first
    | exact Calm.refl s
    | exact calm_walkTo ..
    | exact calm_queueLink ..
    | exact calm_endRebuild ..
    | (obtain ⟨w, _, rfl⟩ := Option.map_eq_some_iff.1 h; exact calm_walkLink ..))

theorem calm_rebuildPass (n : Nat) (s : State) : Calm s (State.rebuildPass n s) := by
  induction n generalizing s with
  | zero => exact Calm.refl s
  | succ n ih =>
    unfold State.rebuildPass
    split
    · split
      · rename_i b _ _ t h
        exact (calm_rebuildMove s b t h).trans (ih t)
      · exact Calm.refl s
    · exact Calm.refl s

theorem calm_takeWatermark (s : State) : Calm s s.takeWatermark := by
  unfold State.takeWatermark
  simp only [↓calm_mk]
  exact Calm.refl s

theorem calm_enterRing (s : State) (d : Dots) : Calm s (s.enterRing d) := by
  unfold State.enterRing
  try dsimp -proj only
  repeat' (first
    | with_reducible exact Calm.refl _
    | exact calm_takeWatermark s
    | exact rfl
    | exact (fun h => h)
    | with_reducible refine calm_ite ?_ ?_
    | simp only [↓calm_mk])

theorem calm_nextPhase (s : State) (b : Burn) : Calm s (s.nextPhase b) := by
  unfold State.nextPhase
  try dsimp -proj only
  repeat' (first
    | with_reducible exact Calm.refl _
    | exact rfl
    | exact (fun h => h)
    | with_reducible refine calm_ite ?_ ?_
    | simp only [↓calm_mk]
    | split)

theorem calm_countOver (s : State) (r : RouteNo) : Calm s (s.countOver r) :=
  calm_setRoute _ _ _ fun hc => by simp only [Route.countsWf, sat16] at hc ⊢; omega

theorem calm_strobeNext (s : State) (b : Burn) : Calm s (s.strobeNext b) := by
  unfold State.strobeNext
  try dsimp -proj only
  repeat' (first
    | with_reducible exact Calm.refl _
    | exact rfl
    | exact (fun h => h)
    | with_reducible refine Calm.trans ?_ (calm_countOver ..)
    | with_reducible refine Calm.trans ?_ (calm_nextPhase ..)
    | with_reducible refine calm_ite ?_ ?_
    | simp only [↓calm_mk]
    | split)

theorem calm_cutNext (s : State) (i : Nat) (c : CutPhase) : Calm s (s.cutNext i c) := by
  unfold State.cutNext
  try dsimp -proj only
  repeat' (first
    | with_reducible exact Calm.refl _
    | exact rfl
    | with_reducible refine Calm.trans ?_ (calm_countOver ..)
    | with_reducible refine calm_ite ?_ ?_
    | simp only [↓calm_mk]
    | split)

theorem Motor.nextPhase_lt (m : Motor) : m.nextPhase < 8 := by
  unfold Motor.nextPhase; split <;> omega

theorem calm_stepEvent (s : State) (m : MotorName) (left : Nat) : Calm s (s.stepEvent m left) :=
  calm_setMotor _ _ _ fun _ => Motor.nextPhase_lt _

theorem calm_restart (s : State) (m : MotorName) (motion : Motion) (left : Nat) :
    Calm s (s.restart m motion left) :=
  calm_setMotor _ _ _ fun _ => Motor.nextPhase_lt _

theorem calm_restMotor (s : State) (m : MotorName) (state : MotorState) (motion : Motion) : Calm s (s.restMotor m state motion) := by
  unfold State.restMotor
  try dsimp -proj only
  repeat' (first
    | with_reducible exact Calm.refl _
    | exact rfl
    | exact (fun h => h)
    | with_reducible refine calm_ite ?_ ?_
    | simp only [↓calm_setMotor_eq])

theorem calm_haltMotor (s : State) (m : MotorName) : Calm s (s.haltMotor m) := by
  unfold State.haltMotor
  try dsimp -proj only
  repeat' (first
    | with_reducible exact Calm.refl _
    | exact rfl
    | exact (fun h => h)
    | with_reducible refine calm_ite ?_ ?_
    | simp only [↓calm_setMotor_eq])

theorem calm_dropMotor (s : State) (m : MotorName) (report : Bool) : Calm s (s.dropMotor m report) := by
  unfold State.dropMotor
  try dsimp -proj only
  repeat' (first
    | with_reducible exact Calm.refl _
    | exact rfl
    | exact (fun h => h)
    | with_reducible refine Calm.trans ?_ (calm_unbind ..)
    | with_reducible refine Calm.trans ?_ (calm_queueReport _ _ ?_)
    | with_reducible refine calm_ite ?_ ?_
    | simp only [↓calm_setMotor_eq]
    | split)

theorem calm_runDown (s : State) (m : MotorName) : Calm s (s.runDown m) := by
  unfold State.runDown
  try dsimp -proj only
  repeat' (first
    | with_reducible exact Calm.refl _
    | exact rfl
    | exact (fun h => h)
    | with_reducible refine Calm.trans ?_ (calm_stepEvent ..)
    | with_reducible refine Calm.trans ?_ (calm_restMotor ..)
    | with_reducible refine calm_ite ?_ ?_
    | simp only [↓calm_setMotor_eq])

theorem calm_takeCopy (s : State) (m : MotorName) : Calm s (s.takeCopy m) := by
  unfold State.takeCopy
  try dsimp -proj only
  repeat' (first
    | with_reducible exact Calm.refl _
    | exact rfl
    | exact (fun h => h)
    | with_reducible refine Calm.trans ?_ (calm_runDown ..)
    | with_reducible refine calm_ite ?_ ?_
    | simp only [↓calm_setMotor_eq])

theorem calm_leavePage (s : State) (p : PageNo) (done : Bool) : Calm s (s.leavePage p done) := by
  unfold State.leavePage
  try dsimp -proj only
  repeat' (first
    | with_reducible exact Calm.refl _
    | exact rfl
    | exact (fun h => h)
    | with_reducible refine Calm.trans ?_ (calm_freePage ..)
    | with_reducible refine Calm.trans ?_ (calm_dropPage ..)
    | with_reducible refine calm_ite ?_ ?_
    | simp only [↓calm_setPage]
    | split)

theorem calm_endPage (s : State) (r : RouteNo) (f : Fate) : Calm s (s.endPage r f) := by
  unfold State.endPage
  try dsimp -proj only
  repeat' (first
    | with_reducible exact Calm.refl _
    | exact rfl
    | exact (fun h => h)
    | with_reducible refine Calm.trans ?_ (calm_setRoute _ _ _ ?_)
    | with_reducible refine Calm.trans ?_ (calm_closePage ..)
    | with_reducible refine Calm.trans ?_ (calm_leavePage ..)
    | with_reducible refine calm_ite ?_ ?_
    | simp only [↓calm_mk, ↓calm_setPage, ↓calm_setScanner, ↓calm_setRebuild, ↓calm_setLine_eq, ↓calm_setMotor_eq, Motor.driveOff]
    | split)

/-- An update that empties queues. -/
theorem calm_shrink {s t : State} (same : Same s t) (reports : t.reports = s.reports)
    (routes : t.routes = s.routes) (caps : s.capsWf → t.capsWf) : Calm s t :=
  ⟨same, fun k => ⟨by rw [reports]; exact k.1, caps k.2.1, fun r => by
    have : t.route r = s.route r := by simp only [State.route, routes]
    rw [this]; exact k.2.2 r⟩⟩

theorem calm_idleCoder (s : State) (c : Coder) (hq : c.queue = []) (ha : c.acc = []) :
    Calm s { s with coder := c } :=
  calm_shrink ⟨rfl, rfl, rfl, rfl, rfl, rfl, rfl, rfl, rfl, rfl, rfl, rfl, rfl, fun _ => rfl, rfl, rfl, rfl⟩
    rfl rfl fun ⟨a1, a2, a3, a4, a5, _, _, a8, a9⟩ =>
      ⟨a1, a2, a3, a4, a5, by simp [hq], by simp [ha], a8, a9⟩

theorem calm_idleLine (s : State) (l : LinePort) (hr : l.rxFifo = []) (ht : l.txFifo = []) :
    Calm s { s with line := l } :=
  calm_shrink ⟨rfl, rfl, rfl, rfl, rfl, rfl, rfl, rfl, rfl, rfl, rfl, rfl, rfl, fun _ => rfl, rfl, rfl, rfl⟩
    rfl rfl fun ⟨a1, a2, a3, _, _, a6, a7, a8, a9⟩ =>
      ⟨a1, a2, a3, by simp [hr], by simp [ht], a6, a7, a8, a9⟩

theorem calm_idleHostIn (s : State) (h : HostIn) (hq : h.queue = []) :
    Calm s { s with hostIn := h } :=
  calm_shrink ⟨rfl, rfl, rfl, rfl, rfl, rfl, rfl, rfl, rfl, rfl, rfl, rfl, rfl, fun _ => rfl, rfl, rfl, rfl⟩
    rfl rfl fun ⟨a1, a2, _, a4, a5, a6, a7, a8, a9⟩ =>
      ⟨a1, a2, by simp [hq], a4, a5, a6, a7, a8, a9⟩

theorem calm_releaseBlocks (s : State) (kind : Option RouteKind) :
    Calm s (s.releaseBlocks kind) := by
  unfold State.releaseBlocks
  split
  · exact calm_shrink ⟨rfl, rfl, rfl, rfl, rfl, rfl, rfl, rfl, rfl, rfl, rfl, rfl, rfl, fun _ => rfl,
      rfl, rfl, rfl⟩ rfl rfl fun ⟨a1, a2, a3, a4, a5, _, _, a8, a9⟩ =>
        ⟨a1, a2, a3, a4, a5, Nat.zero_le _, Nat.zero_le _, a8, a9⟩
  · simp [↓calm_mk, Calm.refl, Head.emptyRing, Head.clearRing, Head.cutBurn]
  · simp [↓calm_mk, Calm.refl, Head.emptyRing, Head.clearRing, Head.cutBurn]
  · exact calm_idleLine _ _ rfl rfl
  · exact calm_idleLine _ _ rfl rfl
  · exact calm_idleHostIn _ _ rfl
  · simp [↓calm_mk, Calm.refl]
  · exact Calm.refl s

theorem calm_returnToDoze (s : State) (kind : Option RouteKind) : Calm s (s.returnToDoze kind) := by
  unfold State.returnToDoze
  try dsimp -proj only
  repeat' (first
    | with_reducible exact Calm.refl _
    | exact rfl
    | exact (fun h => h)
    | with_reducible refine Calm.trans ?_ (calm_beginDoze ..)
    | with_reducible refine calm_ite ?_ ?_)

theorem calm_disownDamage (s : State) (r : RouteNo) : Calm s (s.disownDamage r) := by
  unfold State.disownDamage
  simp only [↓calm_mk]
  exact Calm.refl s

theorem calm_finishRoute (s : State) (r : RouteNo) (f : Fate) : Calm s (s.finishRoute r f) := by
  unfold State.finishRoute
  try dsimp -proj only
  repeat' (first
    | with_reducible exact Calm.refl _
    | exact rfl
    | exact (fun h => h)
    | with_reducible refine Calm.trans ?_ (calm_setRoute _ _ _ ?_)
    | with_reducible refine Calm.trans ?_ (calm_unbind ..)
    | with_reducible refine Calm.trans ?_ (calm_queueReport _ _ ?_)
    | with_reducible refine Calm.trans ?_ (calm_availChange ..)
    | with_reducible refine Calm.trans ?_ (calm_takeCopy ..)
    | with_reducible refine Calm.trans ?_ (calm_foldl _ calm_unbind ..)
    | with_reducible refine Calm.trans ?_ (calm_endPage ..)
    | with_reducible refine Calm.trans ?_ (calm_releaseBlocks ..)
    | with_reducible refine Calm.trans ?_ (calm_disownDamage ..)
    | with_reducible refine Calm.trans ?_ (calm_returnToDoze ..)
    | with_reducible refine calm_ite ?_ ?_
    | simp only [↓calm_mk])

theorem calm_stopFlows (s : State) (r : RouteNo) : Calm s (s.stopFlows r) := by
  unfold State.stopFlows
  extract_lets x s1 ring s2
  have h1 : Calm s s1 := by
    refine calm_ite (Calm.trans ?_ (calm_runDown ..)) (Calm.refl s)
    simp [↓calm_mk, Calm.refl, Head.clearRing, Head.cutBurn]
  have h2 : Calm s s2 := by
    refine calm_ite (Calm.trans ?_ (calm_runDown ..)) h1
    simpa only [↓calm_mk] using h1
  clear_value s1 s2
  split
  · exact h2.trans (calm_idleCoder _ _ rfl rfl)
  · simpa only [↓calm_mk] using h2
  · exact h2.trans (calm_idleLine _ _ rfl rfl)
  · exact h2.trans (calm_idleLine _ _ rfl rfl)
  · exact h2.trans (calm_idleHostIn _ _ rfl)
  · simpa +zetaDelta only [↓calm_mk] using h2
  · exact h2

theorem calm_orphanBurst (s : State) (kind : Option RouteKind) : Calm s (s.orphanBurst kind) := by
  unfold State.orphanBurst
  try dsimp -proj only
  repeat' (first
    | with_reducible exact Calm.refl _
    | exact rfl
    | exact (fun h => h)
    | with_reducible refine calm_ite ?_ ?_
    | simp only [↓calm_mk]
    | split)

theorem calm_fixEnd (s : State) (r : RouteNo) (f : Fate) : Calm s (s.fixEnd r f) := by
  unfold State.fixEnd
  extract_lets x last s1 y s2 z s3
  have h2 : Calm s s2 := ((calm_stopFlows ..).trans (calm_orphanBurst ..)).trans
    (calm_setRoute_eq s1 r _ rfl)
  have h3 : Calm s s3 := h2.trans (calm_setRoute_eq s2 r _ rfl)
  exact calm_ite (calm_ite (h2.trans (calm_finishRoute ..))
    (calm_ite h3 (h3.trans (calm_routeTo ..)))) (Calm.refl _)

theorem calm_failRoute (s : State) (r : RouteNo) (cause : Cause) : Calm s (s.failRoute r cause) := by
  unfold State.failRoute
  try dsimp -proj only
  repeat' (first
    | with_reducible exact Calm.refl _
    | exact rfl
    | exact (fun h => h)
    | with_reducible refine Calm.trans ?_ (calm_fixEnd ..))

theorem calm_haltRoute (s : State) (r : RouteNo) : Calm s (s.haltRoute r) := by
  unfold State.haltRoute
  try dsimp -proj only
  repeat' (first
    | with_reducible exact Calm.refl _
    | exact rfl
    | exact (fun h => h)
    | with_reducible refine Calm.trans ?_ (calm_fixEnd ..))

theorem calm_completeRoute (s : State) (r : RouteNo) (unterminated : Bool) (close : Option PageClose) : Calm s (s.completeRoute r unterminated close) := by
  unfold State.completeRoute
  try dsimp -proj only
  repeat' (first
    | with_reducible exact Calm.refl _
    | exact rfl
    | exact (fun h => h)
    | with_reducible refine Calm.trans ?_ (calm_fixEnd ..)
    | with_reducible refine calm_ite ?_ ?_)

theorem calm_jam (s : State) (r : RouteNo) : Calm s (s.jam r) := by
  unfold State.jam
  try dsimp -proj only
  repeat' (first
    | with_reducible exact Calm.refl _
    | exact rfl
    | exact (fun h => h)
    | with_reducible refine Calm.trans ?_ (calm_failRoute ..)
    | with_reducible refine calm_ite ?_ ?_
    | simp only [↓calm_mk])

end Sys2Proof.Machine
end

