-- ==== Sys2Proof/Laws/CalmWriters.lean ====
section
/-! SUPPORT. `Calm` of the operations of the writers and of the feed path. -/

namespace Sys2Proof.Machine

theorem calm_choose (s : State) (n : Nat) : Calm s (s.choose n).2 := by
  unfold State.choose
  split
  · exact Calm.refl s
  · simp [↓calm_mk, Calm.refl]

theorem calm_setWriter (s : State) (k : RouteKind) (w : Writer) : Calm s (s.setWriter k w) := by
  unfold State.setWriter
  try dsimp -proj only
  repeat' (first
    | with_reducible exact Calm.refl _
    | exact rfl
    | exact (fun h => h)
    | with_reducible refine calm_ite ?_ ?_
    | simp only [↓calm_mk]
    | split)

theorem calm_starve (s : State) (r : RouteNo) (k : RouteKind) : Calm s (s.starve r k) := by
  unfold State.starve
  try dsimp -proj only
  repeat' (first
    | with_reducible exact Calm.refl _
    | exact rfl
    | exact (fun h => h)
    | with_reducible refine Calm.trans ?_ (calm_routeTo ..)
    | with_reducible refine Calm.trans ?_ (calm_failRoute ..)
    | with_reducible refine Calm.trans ?_ (calm_setWriter ..)
    | with_reducible refine Calm.trans ?_ (calm_queueReport _ _ ?_)
    | with_reducible refine calm_ite ?_ ?_
    | simp only [↓calm_mk])

theorem calm_tryOpen (s : State) (r : RouteNo) (k : RouteKind) : Calm s (s.tryOpen r k) := by
  unfold State.tryOpen
  try dsimp -proj only
  repeat' (first
    | with_reducible exact Calm.refl _
    | exact rfl
    | exact (fun h => h)
    | with_reducible refine Calm.trans ?_ (calm_openEntry ..)
    | with_reducible refine Calm.trans ?_ (calm_failRoute ..)
    | with_reducible refine Calm.trans ?_ (calm_setWriter ..)
    | with_reducible refine Calm.trans ?_ (calm_starve ..)
    | with_reducible refine calm_ite ?_ ?_
    | simp only [↓calm_mk, ↓calm_setPage, ↓calm_setScanner, ↓calm_setRebuild, ↓calm_setLine_eq, ↓calm_setMotor_eq, ↓calm_setPf_eq, ↓calm_setSf_eq, Motor.driveOff]
    | split)

theorem calm_tryExtend (s : State) (r : RouteNo) (k : RouteKind) (p : PageNo) : Calm s (s.tryExtend r k p) := by
  unfold State.tryExtend
  try dsimp -proj only
  repeat' (first
    | with_reducible exact Calm.refl _
    | exact rfl
    | exact (fun h => h)
    | with_reducible refine Calm.trans ?_ (calm_extendPage ..)
    | with_reducible refine Calm.trans ?_ (calm_setWriter ..)
    | with_reducible refine Calm.trans ?_ (calm_starve ..)
    | with_reducible refine calm_ite ?_ ?_
    | simp only [↓calm_mk, ↓calm_setPage, ↓calm_setScanner, ↓calm_setRebuild, ↓calm_setLine_eq, ↓calm_setMotor_eq, ↓calm_setPf_eq, ↓calm_setSf_eq, Motor.driveOff]
    | split)

theorem calm_writerTurn (s : State) (k : RouteKind) : Calm s (s.writerTurn k) := by
  unfold State.writerTurn
  try dsimp -proj only
  repeat' (first
    | with_reducible exact Calm.refl _
    | exact rfl
    | exact (fun h => h)
    | with_reducible refine Calm.trans ?_ (calm_tryOpen ..)
    | with_reducible refine Calm.trans ?_ (calm_tryExtend ..)
    | with_reducible refine calm_ite ?_ ?_
    | simp only [↓calm_mk, ↓calm_setPage, ↓calm_setScanner, ↓calm_setRebuild, ↓calm_setLine_eq, ↓calm_setMotor_eq, ↓calm_setPf_eq, ↓calm_setSf_eq, Motor.driveOff]
    | split)

theorem calm_askOpen (s : State) (r : RouteNo) (k : RouteKind) : Calm s (s.askOpen r k) := by
  unfold State.askOpen
  try dsimp -proj only
  repeat' (first
    | with_reducible exact Calm.refl _
    | exact rfl
    | exact (fun h => h)
    | with_reducible refine Calm.trans ?_ (calm_failRoute ..)
    | with_reducible refine Calm.trans ?_ (calm_setWriter ..)
    | with_reducible refine Calm.trans ?_ (calm_writerTurn ..)
    | with_reducible refine calm_ite ?_ ?_
    | simp only [↓calm_mk, ↓calm_setPage, ↓calm_setScanner, ↓calm_setRebuild, ↓calm_setLine_eq, ↓calm_setMotor_eq, ↓calm_setPf_eq, ↓calm_setSf_eq, Motor.driveOff]
    | split)

theorem calm_writersPass (s : State) : Calm s s.writersPass := by
  unfold State.writersPass
  exact (calm_choose ..).trans (calm_foldl _ calm_writerTurn _ _)

theorem calm_coderTake (s : State) (r : RouteNo) : Calm s (s.coderTake r) := by
  unfold State.coderTake Coder.takeLine
  try dsimp -proj only
  repeat' (first
    | with_reducible exact Calm.refl _
    | exact rfl
    | exact (fun h => h)
    | with_reducible refine calm_ite ?_ ?_
    | simp only [↓calm_mk]
    | split)

theorem calm_coderEnd (s : State) (r : RouteNo) : Calm s (s.coderEnd r) := by
  unfold State.coderEnd
  try dsimp -proj only
  repeat' (first
    | with_reducible exact Calm.refl _
    | exact rfl
    | exact (fun h => h)
    | with_reducible refine calm_ite ?_ ?_
    | simp only [↓calm_mk])

theorem calm_coderClose (s : State) (r : RouteNo) : Calm s (s.coderClose r) := by
  unfold State.coderClose
  dsimp only
  split
  · refine calm_ite ?_ (Calm.refl s)
    exact Calm.trans (calm_closePage ..) (calm_idleCoder _ _ rfl rfl)
  · exact Calm.refl s

/-- The words cut from bits, and the rest. -/
theorem cutWords_length (fuel : Nat) (bs : Bits) (h : bs.length ≤ 16 * fuel + 15) :
    (cutWords fuel bs).1.length = bs.length / 16 ∧ (cutWords fuel bs).2.length = bs.length % 16 := by
  induction fuel generalizing bs with
  | zero => simp only [cutWords, List.length_nil]; omega
  | succ n ih =>
    unfold cutWords
    split
    · simp only [List.length_nil]; omega
    · have := ih (bs.drop 16) (by simp only [List.length_drop]; omega)
      simp only [List.length_cons, List.length_drop] at this ⊢
      omega

/-- Bits that fit leave the Coder's queue and accumulator within their capacities (R47). -/
theorem Coder.append_caps (c : Coder) (bs : Bits) (hq : c.queue.length ≤ Config.wordQueueCap)
    (ha : c.acc.length ≤ 15) (h : bs.length ≤ c.space) :
    (c.append bs).queue.length ≤ Config.wordQueueCap ∧ (c.append bs).acc.length ≤ 15 := by
  simp only [Coder.space, Config.wordQueueCap] at *
  have := cutWords_length 16 (c.acc ++ bs) (by simp only [List.length_append]; omega)
  simp only [Coder.append, Config.wordQueueCap, List.length_append] at this ⊢
  omega

/-- The Coder's queue and accumulator are within their capacities (R47). -/
def Coder.capsWf (c : Coder) : Prop :=
  c.queue.length ≤ Config.wordQueueCap ∧ c.acc.length ≤ 15

theorem Coder.appendSome_caps (c : Coder) (codes : List Bits) (h : c.capsWf) :
    (c.appendSome codes).capsWf :=
  c.append_caps _ h.1 h.2 (by simp only [List.length_take]; omega)

theorem Coder.codeRuns_caps (table : List Byte) (runs : List Nat) (c : Coder) (h : c.capsWf) :
    (Coder.codeRuns table runs c).capsWf := by
  induction runs generalizing c with
  | nil => exact c.appendSome_caps _ h
  | cons n rest ih =>
    have := c.appendSome_caps c.codes h
    unfold Coder.codeRuns
    dsimp only
    split
    · exact ih _ this
    · exact this

theorem Coder.pump_caps (c : Coder) (table : List Byte) (h : c.capsWf) : (c.pump table).capsWf := by
  have fits := c.appendSome_caps c.codes h
  unfold Coder.pump
  dsimp only
  split
  · exact Coder.codeRuns_caps table _ c h
  · split
    · split
      · exact fits
      · split
        · refine ⟨?_, Nat.zero_le _⟩
          simp only [List.length_append, List.length_singleton]
          omega
        · exact fits
    · exact fits
  · exact h

/-- The Coder set with its queues within their capacities. -/
theorem calm_coder (s : State) (c : Coder)
    (h : s.coder.queue.length ≤ Config.wordQueueCap → s.coder.acc.length ≤ 15 →
      c.queue.length ≤ Config.wordQueueCap ∧ c.acc.length ≤ 15) : Calm s { s with coder := c } :=
  calm_shrink ⟨rfl, rfl, rfl, rfl, rfl, rfl, rfl, rfl, rfl, rfl, rfl, rfl, rfl, fun _ => rfl, rfl, rfl, rfl⟩
    rfl rfl fun ⟨a1, a2, a3, a4, a5, a6, a7, a8, a9⟩ =>
      ⟨a1, a2, a3, a4, a5, (h a6 a7).1, (h a6 a7).2, a8, a9⟩

theorem calm_coderPass (s : State) : Calm s s.coderPass := by
  unfold State.coderPass
  split
  · exact Calm.refl s
  · refine calm_ite ?_ (Calm.refl s)
    extract_lets s1 s2 s3
    have h1 : Calm s s1 := calm_ite (calm_coderTake ..) (Calm.refl s)
    have h2 : Calm s s2 := calm_ite (h1.trans (calm_coderEnd ..)) h1
    exact (h2.trans (calm_coder _ _ fun hq ha => Coder.pump_caps _ _ ⟨hq, ha⟩)).trans (calm_coderClose ..)

theorem calm_claimSlot (s : State) : Calm s (s.claimSlot) := by
  unfold State.claimSlot
  try dsimp -proj only
  repeat' (first
    | with_reducible exact Calm.refl _
    | exact rfl
    | exact (fun h => h)
    | (intro hc; simp only [Route.countsWf, sat16] at hc ⊢; omega)
    | with_reducible refine Calm.trans ?_ (calm_setRoute _ _ _ ?_)
    | with_reducible refine calm_ite ?_ ?_
    | simp only [↓calm_mk, ↓calm_setScanner]
    | split)

theorem calm_skipLine (s : State) (r : RouteNo) : Calm s (s.skipLine r) := by
  unfold State.skipLine
  try dsimp -proj only
  repeat' (first
    | with_reducible exact Calm.refl _
    | exact rfl
    | exact (fun h => h)
    | (intro hc; simp only [Route.countsWf, sat16] at hc ⊢; omega)
    | with_reducible refine Calm.trans ?_ (calm_setRoute _ _ _ ?_)
    | with_reducible refine Calm.trans ?_ (calm_queueReport _ _ ?_)
    | with_reducible refine calm_ite ?_ ?_
    | simp only [↓calm_setScanner])

theorem calm_lineStart (s : State) (r : RouteNo) : Calm s (s.lineStart r) := by
  unfold State.lineStart
  try dsimp -proj only
  repeat' (first
    | with_reducible exact Calm.refl _
    | exact rfl
    | exact (fun h => h)
    | with_reducible refine Calm.trans ?_ (calm_askOpen ..)
    | with_reducible refine Calm.trans ?_ (calm_claimSlot ..)
    | with_reducible refine Calm.trans ?_ (calm_skipLine ..)
    | with_reducible refine calm_ite ?_ ?_
    | simp only [↓calm_setScanner])

theorem calm_sheetIsOut (s : State) : Calm s (s.sheetIsOut) := by
  unfold State.sheetIsOut
  try dsimp -proj only
  repeat' (first
    | with_reducible exact Calm.refl _
    | exact rfl
    | exact (fun h => h)
    | with_reducible refine calm_ite ?_ ?_
    | simp only [↓calm_setScanner])

theorem calm_moveStep (s : State) (m : MotorName) (left : Nat) : Calm s (s.moveStep m left).1 := by
  unfold State.moveStep
  split
  · split
    · exact calm_restMotor ..
    · refine Calm.trans ?_ (calm_stepEvent ..)
      simp [↓calm_setMotor_eq, Calm.refl]
  · exact calm_stepEvent ..

theorem calm_beginEject (s : State) (r : RouteNo) : Calm s (s.beginEject r) := by
  unfold State.beginEject
  dsimp -proj only
  refine calm_ite ?_ (calm_ite ?_ (Calm.trans (calm_setScanner.2 (Calm.refl s)) (calm_restart ..)))
  · refine calm_ite (Calm.trans (Calm.trans ?_ (calm_moveStep ..)) (calm_sheetIsOut ..))
      (Calm.trans ?_ (calm_moveStep ..)) <;>
    simp only [↓calm_setSf_eq, ↓calm_setScanner, Calm.refl]
  · refine Calm.trans ?_ (calm_sheetIsOut ..)
    simp only [↓calm_setSf_eq, ↓calm_setScanner, Calm.refl]

theorem calm_takeScanLine (s : State) (r : RouteNo) : Calm s (s.takeScanLine r) := by
  unfold State.takeScanLine
  try dsimp -proj only
  repeat' (first
    | with_reducible exact Calm.refl _
    | exact rfl
    | exact (fun h => h)
    | with_reducible refine Calm.trans ?_ (calm_stepEvent ..)
    | with_reducible refine Calm.trans ?_ (calm_restart ..)
    | with_reducible refine Calm.trans ?_ (calm_lineStart ..)
    | with_reducible refine calm_ite ?_ ?_)

theorem calm_scanLineEnd (s : State) (r : RouteNo) : Calm s (s.scanLineEnd r) := by
  unfold State.scanLineEnd
  try dsimp -proj only
  repeat' (first
    | with_reducible exact Calm.refl _
    | exact rfl
    | exact (fun h => h)
    | with_reducible refine Calm.trans ?_ (calm_restMotor ..)
    | with_reducible refine Calm.trans ?_ (calm_beginEject ..)
    | with_reducible refine Calm.trans ?_ (calm_takeScanLine ..)
    | with_reducible refine calm_ite ?_ ?_
    | simp only [↓calm_setScanner, ↓calm_setSf_eq])

theorem calm_roomRaised (s : State) : Calm s (s.roomRaised) := by
  unfold State.roomRaised
  try dsimp -proj only
  repeat' (first
    | with_reducible exact Calm.refl _
    | exact rfl
    | exact (fun h => h)
    | with_reducible refine Calm.trans ?_ (calm_takeScanLine ..)
    | with_reducible refine calm_ite ?_ ?_
    | simp only [↓calm_mk, ↓calm_setPage, ↓calm_setScanner, ↓calm_setRebuild, ↓calm_setLine_eq, ↓calm_setMotor_eq, ↓calm_setPf_eq, ↓calm_setSf_eq, Motor.driveOff]
    | split)

theorem calm_startLead (s : State) (r : RouteNo) : Calm s (s.startLead r) := by
  unfold State.startLead
  try dsimp -proj only
  repeat' (first
    | with_reducible exact Calm.refl _
    | exact rfl
    | exact (fun h => h)
    | with_reducible refine Calm.trans ?_ (calm_restart ..)
    | with_reducible refine Calm.trans ?_ (calm_scanLineEnd ..)
    | with_reducible refine calm_ite ?_ ?_
    | simp only [↓calm_setScanner, ↓calm_setSf_eq])

theorem calm_beginFeed (s : State) (r : RouteNo) : Calm s (s.beginFeed r) := by
  unfold State.beginFeed
  try dsimp -proj only
  repeat' (first
    | with_reducible exact Calm.refl _
    | exact rfl
    | exact (fun h => h)
    | with_reducible refine Calm.trans ?_ (calm_restart ..)
    | with_reducible refine Calm.trans ?_ (calm_jam ..)
    | with_reducible refine Calm.trans ?_ (calm_startLead ..)
    | with_reducible refine calm_ite ?_ ?_
    | simp only [↓calm_setScanner])

theorem calm_feedInDone (s : State) (r : RouteNo) : Calm s (s.feedInDone r) :=
  calm_ite (calm_haltRoute ..) (calm_jam ..)

theorem calm_edgeOn (s : State) (r : RouteNo) : Calm s (s.edgeOn r) := by
  unfold State.edgeOn
  try dsimp -proj only
  repeat' (first
    | with_reducible exact Calm.refl _
    | exact rfl
    | exact (fun h => h)
    | with_reducible refine Calm.trans ?_ (calm_startLead ..)
    | with_reducible refine calm_ite ?_ ?_
    | simp only [↓calm_setScanner, ↓calm_setSf_eq])

theorem calm_edgeOff (s : State) (r : RouteNo) : Calm s (s.edgeOff r) := by
  unfold State.edgeOff
  try dsimp -proj only
  repeat' (first
    | with_reducible exact Calm.refl _
    | exact rfl
    | exact (fun h => h)
    | with_reducible refine Calm.trans ?_ (calm_beginEject ..)
    | with_reducible refine calm_ite ?_ ?_
    | simp only [↓calm_setScanner]
    | split)

theorem calm_nextSheet (s : State) (r : RouteNo) : Calm s (s.nextSheet r) := by
  unfold State.nextSheet
  try dsimp -proj only
  repeat' (first
    | with_reducible exact Calm.refl _
    | exact rfl
    | exact (fun h => h)
    | (intro hc; simp only [Route.countsWf, Route.nextPage] at hc ⊢; omega)
    | with_reducible refine Calm.trans ?_ (calm_beginFeed ..)
    | with_reducible refine Calm.trans ?_ (calm_setRoute _ _ _ ?_)
    | with_reducible refine Calm.trans ?_ (calm_queueReport _ _ ?_)
    | with_reducible refine calm_ite ?_ ?_)

theorem calm_sheetPass (s : State) : Calm s (s.sheetPass) := by
  unfold State.sheetPass
  try dsimp -proj only
  repeat' (first
    | with_reducible exact Calm.refl _
    | exact rfl
    | exact (fun h => h)
    | with_reducible refine Calm.trans ?_ (calm_haltRoute ..)
    | with_reducible refine Calm.trans ?_ (calm_completeRoute ..)
    | with_reducible refine Calm.trans ?_ (calm_nextSheet ..)
    | with_reducible refine calm_ite ?_ ?_
    | simp only [↓calm_mk, ↓calm_setPage, ↓calm_setScanner, ↓calm_setRebuild, ↓calm_setLine_eq, ↓calm_setMotor_eq, ↓calm_setPf_eq, ↓calm_setSf_eq, Motor.driveOff]
    | split)

end Sys2Proof.Machine
end

