-- ==== Sys2Proof/Laws/CalmPrint.lean ====
section
/-! SUPPORT. `Calm` of the operations of the print path. -/

namespace Sys2Proof.Machine

theorem calm_countLine (s : State) (r : RouteNo) (good : Bool) : Calm s (s.countLine r good) := by
  unfold State.countLine
  try dsimp -proj only
  repeat' (first
    | with_reducible exact Calm.refl _
    | exact rfl
    | exact (fun h => h)
    | (intro hc; simp only [Route.countsWf, sat16] at hc ⊢; omega)
    | with_reducible refine Calm.trans ?_ (calm_flagDamaged ..)
    | with_reducible refine Calm.trans ?_ (calm_setRoute _ _ _ ?_)
    | with_reducible refine Calm.trans ?_ (calm_queueReport _ _ ?_)
    | with_reducible refine calm_ite ?_ ?_
    | simp only [↓calm_mk, ↓calm_setPage, ↓calm_setScanner, ↓calm_setRebuild, ↓calm_setLine_eq, ↓calm_setMotor_eq, ↓calm_setPf_eq, ↓calm_setSf_eq, Motor.driveOff]
    | split)

theorem calm_printAdvance (n : Nat) (s : State) (table : List Byte) :
    Calm s (State.printAdvance n s table) := by
  induction n generalizing s with
  | zero => exact Calm.refl s
  | succ n ih =>
    unfold State.printAdvance
    refine calm_ite (Calm.refl s) ?_
    dsimp only
    refine calm_ite (Calm.trans ?_ (ih _)) (Calm.refl s)
    simp only [↓calm_mk, Calm.refl]

theorem calm_lowWater (s : State) : Calm s s.lowWater :=
  calm_ite (calm_withdrawOrdinary s) (Calm.refl s)

theorem calm_takeLine (s : State) (r : RouteNo) : Calm s (s.takeLine r) := by
  unfold State.takeLine
  try dsimp -proj only
  repeat' (first
    | with_reducible exact Calm.refl _
    | exact calm_takeWatermark s
    | with_reducible refine Calm.trans ?_ (calm_lowWater ..)
    | exact rfl
    | exact (fun h => h)
    | with_reducible refine calm_ite ?_ ?_
    | simp only [↓calm_mk]
    | split)

theorem calm_pfTake (s : State) (r : RouteNo) : Calm s (s.pfTake r) := by
  unfold State.pfTake
  try dsimp -proj only
  repeat' (first
    | with_reducible exact Calm.refl _
    | exact rfl
    | exact (fun h => h)
    | with_reducible refine Calm.trans ?_ (calm_stepEvent ..)
    | with_reducible refine Calm.trans ?_ (calm_restart ..)
    | with_reducible refine Calm.trans ?_ (calm_roomRaised ..)
    | with_reducible refine Calm.trans ?_ (calm_takeLine ..)
    | with_reducible refine calm_ite ?_ ?_)

theorem calm_pfReexamine (s : State) : Calm s (s.pfReexamine) := by
  unfold State.pfReexamine
  try dsimp -proj only
  repeat' (first
    | with_reducible exact Calm.refl _
    | exact rfl
    | exact (fun h => h)
    | with_reducible refine Calm.trans ?_ (calm_pfTake ..)
    | with_reducible refine calm_ite ?_ ?_
    | simp only [↓calm_setPf_eq]
    | split)

theorem calm_pfPaperOut (s : State) : Calm s (s.pfPaperOut) := by
  unfold State.pfPaperOut
  try dsimp -proj only
  repeat' (first
    | with_reducible exact Calm.refl _
    | exact rfl
    | exact (fun h => h)
    | with_reducible refine Calm.trans ?_ (calm_failRoute ..)
    | with_reducible refine calm_ite ?_ ?_
    | simp only [↓calm_mk, ↓calm_setPage, ↓calm_setScanner, ↓calm_setRebuild, ↓calm_setLine_eq, ↓calm_setMotor_eq, ↓calm_setPf_eq, ↓calm_setSf_eq, Motor.driveOff]
    | split)

theorem calm_pfLineEnd (s : State) (r : RouteNo) : Calm s (s.pfLineEnd r) := by
  unfold State.pfLineEnd
  try dsimp -proj only
  repeat' (first
    | with_reducible exact Calm.refl _
    | exact rfl
    | exact (fun h => h)
    | with_reducible refine Calm.trans ?_ (calm_restMotor ..)
    | with_reducible refine Calm.trans ?_ (calm_failRoute ..)
    | with_reducible refine Calm.trans ?_ (calm_pfTake ..)
    | with_reducible refine calm_ite ?_ ?_
    | simp only [↓calm_mk])

theorem calm_burnComplete (s : State) : Calm s (s.burnComplete) := by
  unfold State.burnComplete
  try dsimp -proj only
  repeat' (first
    | with_reducible exact Calm.refl _
    | exact rfl
    | exact (fun h => h)
    | with_reducible refine Calm.trans ?_ (calm_pfLineEnd ..)
    | with_reducible refine calm_ite ?_ ?_
    | simp only [↓calm_mk, ↓calm_setPage, ↓calm_setScanner, ↓calm_setRebuild, ↓calm_setLine_eq, ↓calm_setMotor_eq, ↓calm_setPf_eq, ↓calm_setSf_eq, Motor.driveOff]
    | split)

theorem calm_pfLineExpiry (s : State) (r : RouteNo) : Calm s (s.pfLineExpiry r) := by
  unfold State.pfLineExpiry
  try dsimp -proj only
  repeat' (first
    | with_reducible exact Calm.refl _
    | exact rfl
    | exact (fun h => h)
    | with_reducible refine Calm.trans ?_ (calm_pfLineEnd ..)
    | with_reducible refine Calm.trans ?_ (calm_queueReport _ _ ?_)
    | with_reducible refine calm_ite ?_ ?_
    | simp only [↓calm_setPf_eq])

theorem calm_placeHeld (s : State) : Calm s (s.placeHeld) := by
  unfold State.placeHeld
  try dsimp -proj only
  repeat' (first
    | with_reducible exact Calm.refl _
    | exact rfl
    | exact (fun h => h)
    | with_reducible refine Calm.trans ?_ (calm_enterRing ..)
    | with_reducible refine Calm.trans ?_ (calm_pfReexamine ..)
    | with_reducible refine calm_ite ?_ ?_
    | simp only [↓calm_mk]
    | split)

theorem calm_printPass (s : State) : Calm s (s.printPass) := by
  unfold State.printPass
  try dsimp -proj only
  repeat' (first
    | with_reducible exact Calm.refl _
    | exact rfl
    | exact (fun h => h)
    | with_reducible refine Calm.trans ?_ (calm_printAdvance ..)
    | with_reducible refine Calm.trans ?_ (calm_placeHeld ..)
    | with_reducible refine calm_ite ?_ ?_
    | simp only [↓calm_mk, ↓calm_setPage, ↓calm_setScanner, ↓calm_setRebuild, ↓calm_setLine_eq, ↓calm_setMotor_eq, ↓calm_setPf_eq, ↓calm_setSf_eq, Motor.driveOff]
    | split)

theorem calm_placePf (s : State) : Calm s (s.placePf) := by
  unfold State.placePf
  try dsimp -proj only
  repeat' (first
    | with_reducible exact Calm.refl _
    | exact rfl
    | exact (fun h => h)
    | with_reducible refine calm_ite ?_ ?_
    | simp only [↓calm_setPf_eq])

theorem calm_armRoute (s : State) (r : RouteNo) : Calm s (s.armRoute r) := by
  unfold State.armRoute
  try dsimp -proj only
  repeat' (first
    | with_reducible exact Calm.refl _
    | exact rfl
    | exact (fun h => h)
    | with_reducible refine Calm.trans ?_ (calm_routeTo ..)
    | with_reducible refine Calm.trans ?_ (calm_beginFeed ..)
    | with_reducible refine Calm.trans ?_ (calm_placePf ..)
    | with_reducible refine calm_ite ?_ ?_
    | simp only [↓calm_mk]
    | split)

theorem calm_armPass (s : State) : Calm s s.armPass := calm_foldl _ calm_armRoute _ s

theorem calm_startCut (s : State) (owner : CutOwner) : Calm s (s.startCut owner) := by
  unfold State.startCut
  try dsimp -proj only
  repeat' (first
    | with_reducible exact Calm.refl _
    | exact rfl
    | exact (fun h => h)
    | with_reducible refine calm_ite ?_ ?_
    | simp only [↓calm_mk])

theorem calm_routeCut (s : State) (r : RouteNo) : Calm s (s.routeCut r) := by
  unfold State.routeCut
  try dsimp -proj only
  repeat' (first
    | with_reducible exact Calm.refl _
    | exact rfl
    | exact (fun h => h)
    | with_reducible refine Calm.trans ?_ (calm_startCut ..)
    | with_reducible refine Calm.trans ?_ (calm_setRoute _ _ _ ?_))

theorem calm_beginTail (s : State) (r : RouteNo) : Calm s (s.beginTail r) := by
  unfold State.beginTail
  try dsimp -proj only
  repeat' (first
    | with_reducible exact Calm.refl _
    | exact rfl
    | exact (fun h => h)
    | with_reducible refine Calm.trans ?_ (calm_restart ..)
    | with_reducible refine Calm.trans ?_ (calm_routeCut ..)
    | with_reducible refine Calm.trans ?_ (calm_setRoute _ _ _ ?_)
    | with_reducible refine calm_ite ?_ ?_
    | simp only [↓calm_setPf_eq])

theorem calm_printEndPass (s : State) : Calm s (s.printEndPass) := by
  unfold State.printEndPass
  try dsimp -proj only
  repeat' (first
    | with_reducible exact Calm.refl _
    | exact rfl
    | exact (fun h => h)
    | with_reducible refine Calm.trans ?_ (calm_completeRoute ..)
    | with_reducible refine Calm.trans ?_ (calm_beginTail ..)
    | with_reducible refine calm_ite ?_ ?_
    | simp only [↓calm_mk, ↓calm_setPage, ↓calm_setScanner, ↓calm_setRebuild, ↓calm_setLine_eq, ↓calm_setMotor_eq, ↓calm_setPf_eq, ↓calm_setSf_eq, Motor.driveOff]
    | split)

theorem calm_waiterEnds (s : State) : Calm s s.waiterEnds := by
  unfold State.waiterEnds
  split
  · exact calm_ite (calm_haltRoute ..) (Calm.refl s)
  · exact Calm.refl s

theorem calm_cutFails (s : State) (r : RouteNo) : Calm s (s.cutFails r) :=
  calm_ite (calm_haltRoute ..) (calm_failRoute ..)

theorem calm_cutDone (s : State) : Calm s (s.cutDone) := by
  unfold State.cutDone
  try dsimp -proj only
  repeat' (first
    | with_reducible exact Calm.refl _
    | exact rfl
    | exact (fun h => h)
    | with_reducible refine Calm.trans ?_ (calm_haltRoute ..)
    | with_reducible refine Calm.trans ?_ (calm_waiterEnds ..)
    | with_reducible refine Calm.trans ?_ (calm_completeRoute ..)
    | with_reducible refine Calm.trans ?_ (calm_queueReport _ _ ?_)
    | with_reducible refine calm_ite ?_ ?_
    | simp only [↓calm_mk]
    | split)

theorem calm_cutFailed (s : State) : Calm s s.cutFailed := by
  unfold State.cutFailed
  extract_lets owner slot faults s1 s2
  have h1 : Calm s s1 := by simp only [s1, ↓calm_mk, Calm.refl]
  have h2 : Calm s s2 := h1.trans (calm_queueReport _ _ rfl)
  clear_value s2 slot
  match owner with
  | some (.route r) => exact h2.trans (calm_cutFails ..)
  | some .order => exact h2
  | none =>
    dsimp -proj only
    split
    · exact h2.trans (calm_cutFails ..)
    · exact h2

theorem calm_stopCut (s : State) (report : Bool) : Calm s (s.stopCut report) := by
  unfold State.stopCut
  try dsimp -proj only
  repeat' (first
    | with_reducible exact Calm.refl _
    | exact rfl
    | exact (fun h => h)
    | with_reducible refine Calm.trans ?_ (calm_queueReport _ _ ?_)
    | with_reducible refine calm_ite ?_ ?_
    | simp only [↓calm_mk])

theorem calm_moveDone (s : State) (m : MotorName) (owner : MoveOwner) : Calm s (s.moveDone m owner) := by
  unfold State.moveDone
  try dsimp -proj only
  repeat' (first
    | with_reducible exact Calm.refl _
    | exact rfl
    | exact (fun h => h)
    | with_reducible refine Calm.trans ?_ (calm_unbind ..)
    | with_reducible refine Calm.trans ?_ (calm_sheetIsOut ..)
    | with_reducible refine Calm.trans ?_ (calm_feedInDone ..)
    | with_reducible refine Calm.trans ?_ (calm_routeCut ..)
    | with_reducible refine Calm.trans ?_ (calm_queueReport _ _ ?_)
    | with_reducible refine calm_ite ?_ ?_
    | simp only [↓calm_setMotor_eq]
    | split)

theorem calm_stepExpiry (s : State) (m : MotorName) : Calm s (s.stepExpiry m) := by
  unfold State.stepExpiry
  dsimp only
  split
  · exact Calm.refl s
  · refine calm_ite ?_ (calm_stepEvent ..)
    simp only [↓calm_setMotor_eq]
    exact calm_restMotor ..
  · exact calm_ite ((calm_moveStep ..).trans (calm_moveDone ..)) (calm_moveStep ..)
  · refine calm_ite (calm_stepEvent ..) ?_
    split
    · exact calm_pfLineExpiry ..
    · exact calm_scanLineEnd ..
    · exact Calm.refl s

end Sys2Proof.Machine
end

