-- ==== Sys2Proof/Laws/CalmLine.lean ====
section
/-! SUPPORT. `Calm` of the operations of the line side. -/

namespace Sys2Proof.Machine

/-- The Line Port set with its FIFOs within their capacities. -/
theorem calm_setLine (s : State) (l : LinePort)
    (hr : s.line.rxFifo.length ≤ Config.lineFifoCap → l.rxFifo.length ≤ Config.lineFifoCap)
    (ht : s.line.txFifo.length ≤ Config.lineFifoCap → l.txFifo.length ≤ Config.lineFifoCap) :
    Calm s (s.setLine l) :=
  calm_shrink ⟨rfl, rfl, rfl, rfl, rfl, rfl, rfl, rfl, rfl, rfl, rfl, rfl, rfl, fun _ => rfl, rfl, rfl, rfl⟩
    rfl rfl fun ⟨a1, a2, a3, a4, a5, a6, a7, a8, a9⟩ => ⟨a1, a2, a3, hr a4, ht a5, a6, a7, a8, a9⟩

theorem LinePort.stopAt_rxFifo (l : LinePort) (p : StopPoint) :
    (l.stopAt p).rxFifo.length ≤ l.rxFifo.length := by
  simp only [LinePort.stopAt]
  split
  · simp only [List.length_take]; omega
  · simp only [List.length_append, List.length_dropLast, List.length_take, List.length_singleton]
    omega

theorem calm_stopAt (s : State) (p : StopPoint) : Calm s (s.setLine (s.line.stopAt p)) :=
  calm_setLine _ _ (fun h => Nat.le_trans (LinePort.stopAt_rxFifo _ _) h) id

theorem calm_rxLineEnd (s : State) (r : RouteNo) (x : Nat) : Calm s (s.rxLineEnd r x) := by
  unfold State.rxLineEnd
  dsimp -proj only
  refine calm_ite (Calm.trans ?_ (calm_stopAt ..)) ?_
  · exact calm_setRoute _ _ _ fun h => h
  · simp only [↓calm_setLine_eq]
    exact calm_setRoute _ _ _ fun h => h

theorem calm_verdict {s t : State} (h : Calm s t) (r : RouteNo) (v : Verdict) :
    Calm s (match v with
      | .good => t.countLine r true
      | .bad => t.countLine r false
      | _ => t) := by
  cases v
  · exact h
  · exact h.trans (calm_countLine ..)
  · exact h.trans (calm_countLine ..)
  · exact h

theorem calm_found {s t : State} (h : Calm s t) (r : RouteNo) (d : Decoder) (f : Found) :
    Calm s (match f with
      | .sync _ => if d.state = .synced then t else t.rxLineEnd r d.pos
      | _ => t) := by
  cases f
  case sync => exact calm_ite h (h.trans (calm_rxLineEnd ..))
  all_goals exact h

theorem calm_ended {s t : State} (h : Calm s t) (v : Verdict) (p : StopPoint) :
    Calm s (match v with
      | .ended true => t.setLine (t.line.stopAt p)
      | _ => t) := by
  rcases v with _ | _ | _ | (_ | _)
  case ended.true => exact h.trans (calm_stopAt ..)
  all_goals exact h

theorem calm_rxExamine (n : Nat) (s : State) (r : RouteNo) : Calm s (State.rxExamine n s r) := by
  induction n generalizing s with
  | zero => exact Calm.refl s
  | succ n ih =>
    unfold State.rxExamine
    refine calm_ite (Calm.refl s) ?_
    extract_lets table d found
    split
    rename_i d' v _
    refine calm_ite (Calm.refl s) ?_
    extract_lets s1 s2 s3 s4
    have h1 : Calm s s1 := calm_setLine _ _ id id
    have h2 : Calm s s2 := calm_verdict h1 r v
    have h3 : Calm s s3 := calm_found h2 r d found
    have h4 : Calm s s4 := calm_ended h3 v _
    exact h4.trans (ih _)

theorem calm_rxDrop (s : State) (r : RouteNo) : Calm s (s.rxDrop r) := by
  unfold State.rxDrop
  try dsimp -proj only
  repeat' (first
    | with_reducible exact Calm.refl _
    | exact rfl
    | exact (fun h => h)
    | with_reducible refine Calm.trans ?_ (calm_countLine ..)
    | with_reducible refine Calm.trans ?_ (calm_queueReport _ _ ?_)
    | with_reducible refine calm_ite ?_ ?_
    | simp only [↓calm_setLine_eq])

theorem calm_rxByteDone (s : State) (r : RouteNo) (bits : Bits) : Calm s (s.rxByteDone r bits) := by
  unfold State.rxByteDone
  split
  · exact calm_rxDrop ..
  · rename_i h
    extract_lets l known s1
    refine Calm.trans (t := s1) (calm_setLine _ _ (fun _ => ?_) id) (calm_rxExamine ..)
    simp only [l, List.length_append, List.length_singleton]
    omega

theorem calm_rxStore (s : State) (r : RouteNo) (b : Bool) : Calm s (s.rxStore r b) := by
  unfold State.rxStore
  try dsimp -proj only
  repeat' (first
    | with_reducible exact Calm.refl _
    | exact rfl
    | exact (fun h => h)
    | with_reducible refine Calm.trans ?_ (calm_rxByteDone ..)
    | with_reducible refine calm_ite ?_ ?_
    | simp only [↓calm_setLine_eq])

theorem calm_lineWake (s : State) : Calm s (s.lineWake) := by
  unfold State.lineWake
  try dsimp -proj only
  repeat' (first
    | with_reducible exact Calm.refl _
    | exact rfl
    | exact (fun h => h)
    | with_reducible refine Calm.trans ?_ (calm_withdrawOrdinary ..)
    | with_reducible refine calm_ite ?_ ?_
    | simp only [↓calm_mk]
    | split)

theorem calm_firstSync (s : State) (r : RouteNo) (bits : Bits) (h : bits.length ≤ 263) :
    Calm s (s.firstSync r bits) := by
  unfold State.firstSync
  refine Calm.trans (Calm.trans ?_ (calm_routeTo ..)) (calm_askOpen ..)
  refine Calm.trans (calm_lineWake s) (calm_setLine _ _ (fun _ => ?_) id)
  simp only [List.length_map, List.length_range, Config.lineFifoCap]
  omega

theorem tableItem_length (data : List Byte) (i : Nat) : (tableItem data i).length ≤ 255 := by
  simp only [tableItem, bitsOfNat, List.length_map, List.length_range]
  have := (data.getD i 0).isLt
  omega

theorem calm_rxSeek (s : State) (r : RouteNo) (b : Bool) : Calm s (s.rxSeek r b) := by
  unfold State.rxSeek
  dsimp only
  refine calm_ite (calm_ite (calm_firstSync _ _ _ ?_) ?_) (Calm.refl s)
  · exact Nat.le_trans (tableItem_length ..) (by omega)
  · simp only [↓calm_setLine_eq, Calm.refl]

theorem calm_rxBit (s : State) (b : Bool) : Calm s (s.rxBit b) := by
  unfold State.rxBit
  try dsimp -proj only
  repeat' (first
    | with_reducible exact Calm.refl _
    | exact rfl
    | exact (fun h => h)
    | with_reducible refine Calm.trans ?_ (calm_rxStore ..)
    | with_reducible refine Calm.trans ?_ (calm_rxSeek ..)
    | with_reducible refine calm_ite ?_ ?_
    | simp only [↓calm_mk, ↓calm_setPage, ↓calm_setScanner, ↓calm_setRebuild, ↓calm_setLine_eq, ↓calm_setMotor_eq, ↓calm_setPf_eq, ↓calm_setSf_eq, Motor.driveOff]
    | split)

theorem calm_rxAgain (s : State) (r : RouteNo) (p : PageNo) (c : PageClose) :
    Calm s (s.rxAgain r p c) := by
  unfold State.rxAgain
  extract_lets lines s1 s2 rt s3 lp s4 s5
  have h2 : Calm s s2 := (calm_closePage ..).trans (calm_queueReport _ _ rfl)
  have h3 : Calm s s3 := by
    refine h2.trans (calm_setRoute _ _ _ fun h => ?_)
    simp only [Route.countsWf, Route.nextPage, rt] at h ⊢
    omega
  have h5 : Calm s s5 :=
    (h3.trans (calm_setLine _ _ (fun _ => Nat.zero_le _) fun _ => Nat.zero_le _)).trans
      (calm_routeTo ..)
  exact calm_ite (h5.trans (calm_returnToDoze ..)) (h5.trans (calm_completeRoute ..))

theorem calm_rxPass (s : State) : Calm s s.rxPass := by
  unfold State.rxPass
  split
  · dsimp only
    split
    · exact calm_ite (calm_ite (calm_ite (calm_rxAgain ..) (Calm.refl s)) (calm_completeRoute ..))
        (Calm.refl s)
    · exact Calm.refl s
  · exact Calm.refl s

theorem LinePort.note_fifos (l : LinePort) (d d' : Decoder) (f : Found) (v : Verdict) (a b : Nat) :
    (l.note d d' f v a b).txFifo = l.txFifo ∧ (l.note d d' f v a b).rxFifo = l.rxFifo := by
  unfold LinePort.note
  split
  · split <;> exact ⟨rfl, rfl⟩
  · dsimp only
    split <;> split <;> exact ⟨rfl, rfl⟩
  · split <;> exact ⟨rfl, rfl⟩
  · exact ⟨rfl, rfl⟩

theorem bytesFrom_length (q : List Word) (first n : Nat) : (bytesFrom q first n).length ≤ n := by
  simp only [bytesFrom, List.length_take]; omega

theorem calm_countVerdict (s : State) (r : RouteNo) (v : Verdict) : Calm s (s.countVerdict r v) := by
  unfold State.countVerdict
  split
  · exact calm_countLine ..
  · exact calm_countLine ..
  · exact Calm.refl s

theorem calm_txMove (s t : State) (r : RouteNo) (last : Bool) (h : s.txMove r last = some t) :
    Calm s t := by
  unfold State.txMove at h
  extract_lets l x table bs found at h
  split at h
  extract_lets ending stop upTo n l1 l2 l3 at h
  split at h
  · contradiction
  · split at h
    · contradiction
    · rename_i d' v _ _ hn
      have e := Option.some.inj h
      subst e
      refine Calm.trans (calm_setLine _ _ ?_ ?_) (calm_countVerdict ..)
      · intro hr
        have e1 : l3.rxFifo = s.line.rxFifo := by
          have : l2.rxFifo = l1.rxFifo := rfl
          simp only [l3]
          split <;> (simp only [this]; exact (LinePort.note_fifos ..).2)
        rw [e1]; exact hr
      · intro ht
        have e1 : l3.txFifo.length = l2.txFifo.length := by
          simp only [l3]
          split <;> rfl
        have e2 : l2.txFifo.length ≤ s.line.txFifo.length + n := by
          simp only [l2, LinePort.enter, List.length_append, List.length_mapIdx]
          have := bytesFrom_length l1.fetch.queue l1.entered n
          have e3 : l1.txFifo = s.line.txFifo := (LinePort.note_fifos ..).1
          rw [e3]
          omega
        have : l.txFifo = s.line.txFifo := rfl
        rw [this] at hn
        omega

theorem calm_txAdvance (n : Nat) (s : State) (r : RouteNo) : Calm s (State.txAdvance n s r) := by
  induction n generalizing s with
  | zero => exact Calm.refl s
  | succ n ih =>
    unfold State.txAdvance
    split
    · rename_i t h
      exact (calm_txMove s t r false h).trans (ih t)
    · exact Calm.refl s

theorem calm_txPrime (s : State) : Calm s s.txPrime := by
  unfold State.txPrime
  refine calm_ite ?_ (Calm.refl s)
  simp only [↓calm_setLine_eq]
  exact Calm.refl s

theorem calm_txEnd (s : State) (r : RouteNo) : Calm s (s.txEnd r) :=
  calm_ite (calm_completeRoute ..) (Calm.refl s)

theorem calm_txPass (s : State) : Calm s (s.txPass) := by
  unfold State.txPass
  try dsimp -proj only
  repeat' (first
    | with_reducible exact Calm.refl _
    | exact rfl
    | exact (fun h => h)
    | with_reducible refine Calm.trans ?_ (calm_txAdvance ..)
    | with_reducible refine Calm.trans ?_ (calm_txPrime ..)
    | with_reducible refine Calm.trans ?_ (calm_txEnd ..)
    | with_reducible refine calm_ite ?_ ?_
    | simp only [↓calm_mk, ↓calm_setPage, ↓calm_setScanner, ↓calm_setRebuild, ↓calm_setLine_eq, ↓calm_setMotor_eq, ↓calm_setPf_eq, ↓calm_setSf_eq, Motor.driveOff]
    | split)

theorem calm_txClock (s : State) : Calm s s.txClock := by
  unfold State.txClock
  dsimp -proj only
  split
  · simp only [↓calm_setLine_eq, Calm.refl]
  · refine calm_setLine _ _ id fun h => ?_
    simp only [List.length_append, List.length_map, List.length_take, List.length_drop]
    omega
  · simp only [↓calm_setLine_eq, Calm.refl]
  · refine calm_ite ?_ ?_
    · simp only [↓calm_setLine_eq, Calm.refl]
    · split
      · refine Calm.trans ?_ (calm_queueReport _ _ rfl)
        simp only [↓calm_setLine_eq, Calm.refl]
      · simp only [↓calm_setLine_eq, Calm.refl]
  · have h1 (b : Bool) : Calm s (s.setLine (s.line.sendBit b)) := by
      unfold LinePort.sendBit
      dsimp only
      split
      · refine calm_setLine _ _ id fun h => ?_
        simp only [List.length_drop]
        omega
      · simp only [↓calm_setLine_eq, Calm.refl]
    split
    · exact calm_ite ((h1 _).trans (calm_completeRoute ..)) (h1 _)
    · exact h1 _

theorem calm_carrierWatch (s : State) (r : RouteNo) (valid : Bool) : Calm s (s.carrierWatch r valid) := by
  unfold State.carrierWatch
  try dsimp -proj only
  repeat' (first
    | with_reducible exact Calm.refl _
    | exact rfl
    | exact (fun h => h)
    | with_reducible refine Calm.trans ?_ (calm_completeRoute ..)
    | with_reducible refine calm_ite ?_ ?_
    | simp only [↓calm_setLine_eq])

end Sys2Proof.Machine
end

