-- ==== Sys2Proof/Laws/CalmEvent.lean ====
section
/-! SUPPORT. `Calm` of the HOST-IN and HOST-OUT operations, and of what follows within an event (`State.react`). -/

namespace Sys2Proof.Machine

/-- The HOST-IN flow set with its queue within its capacity. -/
theorem calm_hostIn (s : State) (h : HostIn)
    (hq : s.hostIn.queue.length ≤ Config.hostInCap → h.queue.length ≤ Config.hostInCap) :
    Calm s { s with hostIn := h } :=
  calm_shrink ⟨rfl, rfl, rfl, rfl, rfl, rfl, rfl, rfl, rfl, rfl, rfl, rfl, rfl, fun _ => rfl, rfl, rfl, rfl⟩
    rfl rfl fun ⟨a1, a2, a3, a4, a5, a6, a7, a8, a9⟩ => ⟨a1, a2, hq a3, a4, a5, a6, a7, a8, a9⟩

theorem calm_placeByte (s t : State) (r : RouteNo) (b : Byte) (h : s.placeByte r b = some t) :
    Calm s t := by
  unfold State.placeByte at h
  dsimp only at h
  split at h
  · rw [← Option.some.inj h]; exact Calm.refl s
  · split at h
    · rw [← Option.some.inj h]; exact calm_hostIn _ _ id
    · split at h
      · rw [← Option.some.inj h]
        refine calm_hostIn _ _ fun _ => ?_
        simp only [List.length_append, List.length_singleton]
        omega
      · contradiction

theorem calm_placedOrder (s : State) (r : RouteNo) (final : Bool) : Calm s (s.placedOrder r final) := by
  unfold State.placedOrder
  try dsimp -proj only
  repeat' (first
    | with_reducible exact Calm.refl _
    | exact rfl
    | exact (fun h => h)
    | with_reducible refine calm_ite ?_ ?_
    | simp only [↓calm_mk])

theorem calm_hostInEnds (s : State) (r : RouteNo) : Calm s (s.hostInEnds r) := by
  unfold State.hostInEnds
  try dsimp -proj only
  repeat' (first
    | with_reducible exact Calm.refl _
    | exact rfl
    | exact (fun h => h)
    | with_reducible refine Calm.trans ?_ (calm_setRoute _ _ _ ?_))

theorem calm_hostInPass (s : State) : Calm s s.hostInPass := by
  unfold State.hostInPass
  split
  · extract_lets x s1 hh h2 s2
    have h1 : Calm s s1 := calm_ite (calm_hostInEnds ..) (Calm.refl s)
    have q : s1.hostIn.queue.length ≤ Config.hostInCap → h2.queue.length ≤ Config.hostInCap := by
      intro hq
      simp only [h2]
      split
      · split
        · simp only [List.length_append, List.length_singleton]
          omega
        · exact hq
      · exact hq
    have h3 : Calm s s2 := h1.trans (calm_hostIn _ _ q)
    exact calm_ite (calm_ite (h3.trans (calm_completeRoute ..)) h3) h1
  · exact Calm.refl s

theorem calm_putOut (s : State) (b : Byte) (h : s.port.outFifo.length < Config.streamFifoCap) :
    Calm s (s.putOut b) :=
  calm_shrink ⟨rfl, rfl, rfl, rfl, rfl, rfl, rfl, rfl, rfl, rfl, rfl, rfl, rfl, fun _ => rfl, rfl, rfl, rfl⟩
    rfl rfl fun ⟨a1, _, a3, a4, a5, a6, a7, a8, a9⟩ =>
      ⟨a1, by
        simp only [State.putOut, List.length_append, List.length_singleton]
        omega, a3, a4, a5, a6, a7, a8, a9⟩

theorem calm_drawByte (s t : State) (x : OutRecord) (b : Byte) (h : s.drawByte x = some (b, t)) :
    Calm s t ∧ t.port.outFifo = s.port.outFifo := by
  unfold State.drawByte at h
  split at h
  · cases h; exact ⟨by simp only [↓calm_mk, Calm.refl], rfl⟩
  · split at h
    · dsimp only at h
      split at h
      · contradiction
      · split at h
        · cases h; exact ⟨by simp only [↓calm_mk, Calm.refl], rfl⟩
        · split at h
          · contradiction
          · obtain ⟨⟨c, k⟩, _, e⟩ := Option.map_eq_some_iff.1 h
            cases e
            exact ⟨by simp only [↓calm_mk, Calm.refl], rfl⟩
    · contradiction

theorem calm_outPass (n : Nat) (s : State) : Calm s (State.outPass n s) := by
  induction n generalizing s with
  | zero => exact Calm.refl s
  | succ n ih =>
    unfold State.outPass
    split
    · split
      · rename_i hc
        split
        · rename_i b t ht
          obtain ⟨h1, h2⟩ := calm_drawByte s t _ b ht
          simp only [Bool.and_eq_true, decide_eq_true_eq] at hc
          exact (h1.trans (calm_putOut t b (by rw [h2]; exact hc.2))).trans (ih _)
        · exact Calm.refl s
      · exact Calm.refl s
    · exact Calm.refl s

theorem calm_dataDone (s : State) (d : Option DataOut) : Calm s (s.dataDone d) := by
  unfold State.dataDone
  try dsimp -proj only
  repeat' (first
    | with_reducible exact Calm.refl _
    | exact rfl
    | exact (fun h => h)
    | with_reducible refine Calm.trans ?_ (calm_completeRoute ..)
    | with_reducible refine calm_ite ?_ ?_
    | simp only [↓calm_mk, ↓calm_setPage, ↓calm_setScanner, ↓calm_setRebuild, ↓calm_setLine_eq, ↓calm_setMotor_eq, ↓calm_setPf_eq, ↓calm_setSf_eq, Motor.driveOff]
    | split)

theorem calm_completeRecord (s : State) : Calm s s.completeRecord := by
  unfold State.completeRecord
  split
  · split
    · rename_i hc
      split
      · rename_i b t ht
        obtain ⟨h1, h2⟩ := calm_drawByte s t _ b ht
        simp only [Bool.and_eq_true, decide_eq_true_eq] at hc
        have h3 : Calm s (t.putOut b) := h1.trans (calm_putOut t b (by rw [h2]; exact hc.2))
        refine Calm.trans ?_ (calm_dataDone ..)
        simpa only [↓calm_mk] using h3
      · exact Calm.refl s
    · exact Calm.refl s
  · exact Calm.refl s

theorem oldestShown_sublist (q rest : List QueueEntry) (e : QueueEntry)
    (h : oldestShown q = some (e, rest)) : rest.Sublist q := by
  induction q generalizing e rest with
  | nil => simp [oldestShown] at h
  | cons a q ih =>
    unfold oldestShown at h
    split at h
    · obtain ⟨⟨x, es⟩, hx, e'⟩ := Option.map_eq_some_iff.1 h
      cases e'
      exact (ih es e hx).cons_cons a
    · cases h
      exact List.sublist_cons_self a _

theorem queueWf_sublist {q rest : List QueueEntry} (h : rest.Sublist q) (hq : queueWf q) :
    queueWf rest :=
  ⟨hq.1.sublist (h.map _), fun e he => hq.2 e (h.subset he)⟩

theorem calm_beginRecord (s : State) : Calm s s.beginRecord := by
  unfold State.beginRecord
  split
  · split
    · rename_i e rest he
      refine Calm.trans ?_ (calm_outPass ..)
      exact ⟨⟨rfl, rfl, rfl, rfl, rfl, rfl, rfl, rfl, rfl, rfl, rfl, rfl, rfl, fun _ => rfl, rfl, rfl,
        rfl⟩, fun k => ⟨queueWf_sublist (oldestShown_sublist _ _ _ he) k.1, k.2⟩⟩
    · split
      · refine Calm.trans ?_ (calm_outPass ..)
        simp only [↓calm_mk, Calm.refl]
      · exact Calm.refl s
  · exact Calm.refl s

theorem calm_setFetch (s : State) (x : Reader) (f : Fetch) : Calm s (s.setFetch x f) := by
  unfold State.setFetch
  try dsimp -proj only
  repeat' (first
    | with_reducible exact Calm.refl _
    | exact rfl
    | exact (fun h => h)
    | with_reducible refine calm_ite ?_ ?_
    | simp only [↓calm_mk]
    | split)

theorem calm_readDamaged (s : State) (page : Option PageNo) (r : Option RouteNo) :
    Calm s (s.readDamaged page r) := by
  unfold State.readDamaged
  try dsimp -proj only
  repeat' (first
    | with_reducible exact Calm.refl _
    | exact rfl
    | exact (fun h => h)
    | with_reducible refine Calm.trans ?_ (calm_flagDamaged ..)
    | with_reducible refine calm_ite ?_ ?_
    | simp only [↓calm_mk, ↓calm_setPage, ↓calm_setScanner, ↓calm_setRebuild, ↓calm_setLine_eq, ↓calm_setMotor_eq, ↓calm_setPf_eq, ↓calm_setSf_eq, Motor.driveOff]
    | split)

theorem calm_readerLink (s : State) (x : Reader) (link : Option Word) : Calm s (s.readerLink x link) := by
  unfold State.readerLink
  try dsimp -proj only
  repeat' (first
    | with_reducible exact Calm.refl _
    | exact rfl
    | exact (fun h => h)
    | with_reducible refine Calm.trans ?_ (calm_failRoute ..)
    | with_reducible refine Calm.trans ?_ (calm_setFetch ..)
    | with_reducible refine Calm.trans ?_ (calm_readDamaged ..)
    | with_reducible refine calm_ite ?_ ?_
    | simp only [↓calm_mk, ↓calm_setPage, ↓calm_setScanner, ↓calm_setRebuild, ↓calm_setLine_eq, ↓calm_setMotor_eq, ↓calm_setPf_eq, ↓calm_setSf_eq, Motor.driveOff]
    | split)

theorem calm_readerLinkPass (s : State) (x : Reader) : Calm s (s.readerLinkPass x) := by
  unfold State.readerLinkPass
  split
  · split
    · split
      · exact calm_readerLink ..
      · exact Calm.refl s
    · exact Calm.refl s
  · exact Calm.refl s

theorem calm_linkPass (s : State) : Calm s s.linkPass := calm_foldl _ calm_readerLinkPass _ s

theorem calm_powerPass (s : State) : Calm s s.powerPass := by
  unfold State.powerPass
  extract_lets s1 s2 s3 s4
  have h1 : Calm s s1 := by
    simp only [s1]
    split
    · rename_i h
      exact calm_startExit s (by simp [h.1])
    · exact Calm.refl s
  have h2 : Calm s s2 := calm_ite (h1.trans (calm_withdrawOrdinary ..)) h1
  have h3 : Calm s s3 := calm_ite (h2.trans (calm_placeRequest ..)) h2
  have h4 : Calm s s4 := h3.trans (calm_entryAdvance ..)
  refine calm_ite ?_ h4
  simpa only [↓calm_mk] using h4

theorem calm_geometryPass (s : State) : Calm s s.geometryPass := by
  unfold State.geometryPass
  refine calm_ite ?_ (Calm.refl s)
  exact calm_shrink ⟨rfl, rfl, rfl, rfl, rfl, rfl, rfl, rfl, rfl, rfl, rfl, rfl, rfl, fun _ => rfl, rfl,
    rfl, rfl⟩ rfl rfl id

theorem calm_pass (s : State) : Calm s s.pass := by
  unfold State.pass
  extract_lets s1 s2 s3
  have h1 : Calm s s1 :=
    (((calm_refillPass ..).trans (calm_rebuildPass ..)).trans (calm_damagePass ..)).trans
      (calm_linkPass ..)
  have h2 : Calm s s2 :=
    (((((h1.trans (calm_writersPass ..)).trans (calm_coderPass ..)).trans (calm_printPass ..)).trans
      (calm_txPass ..)).trans (calm_rxPass ..)).trans (calm_hostInPass ..)
  have h3 : Calm s s3 := h2.trans (calm_outPass ..)
  exact ((((h3.trans (calm_geometryPass ..)).trans (calm_armPass ..)).trans (calm_sheetPass ..)).trans
    (calm_printEndPass ..)).trans (calm_powerPass ..)

/-- What follows within an event leaves the parts of `Calm` as they are, and keeps the form and the
capacities. -/
theorem calm_settle (n : Nat) (s : State) : Calm s (State.settle n s) := by
  induction n generalizing s with
  | zero => exact Calm.refl s
  | succ n ih =>
    unfold State.settle
    dsimp only
    split
    · exact Calm.refl s
    · exact (calm_pass s).trans (ih _)

theorem calm_react (s : State) : Calm s s.react := calm_settle 12 s

/-- A state that a round does not change is the end of its event. -/
theorem react_of_pass (s : State) (h : s.pass = s) : s.react = s := by
  unfold State.react State.settle
  simp only [h, if_true]

end Sys2Proof.Machine
end

