-- ==== Sys2Proof/Laws/FrameBoot.lean ====
section
/-! SUPPORT. What the steps of the boot and the deliveries of bursts leave as it is (`Boots`), and what the orders leave as
it is (`Mild`). -/

namespace Sys2Proof.Machine

/-- The parts of a state that neither an order nor a step of the boot changes: the clock, the pins, the held
samples, the byte read last, the DRAM; and the form and the capacities are kept. -/
structure Mild (s t : State) : Prop where
  pending : t.pending = s.pending
  now : t.now = s.now
  pins : t.pins = s.pins
  theta : t.head.theta = s.head.theta
  volts : t.head.volts = s.head.volts
  lastRead : t.port.lastRead = s.port.lastRead
  dram : t.store.dram = s.store.dram
  lite : s.Lite → t.Lite

/-- `Mild`, and the parts that no step of the boot changes: the SETUP values, the geometry, the tables but
for their bind counts, the inbound FIFO. -/
structure Boots (s t : State) : Prop extends Mild s t where
  setup : t.setup = s.setup
  geometry : t.store.geometry = s.store.geometry
  tables : ∀ i, (t.table i).unbound = (s.table i).unbound
  inFifo : t.port.inFifo = s.port.inFifo

theorem Calm.boots {s t : State} (h : Calm s t) : Boots s t :=
  ⟨⟨h.pending, h.now, h.pins, h.theta, h.volts, h.lastRead, h.dram, h.lite⟩, h.setup, h.geometry,
    h.tables, h.inFifo⟩

theorem Calm.mild {s t : State} (h : Calm s t) : Mild s t := h.boots.toMild

theorem Mild.refl (s : State) : Mild s s := (Calm.refl s).mild
theorem Boots.refl (s : State) : Boots s s := (Calm.refl s).boots

theorem Mild.trans {s t u : State} (h : Mild s t) (k : Mild t u) : Mild s u :=
  ⟨k.pending.trans h.pending, k.now.trans h.now, k.pins.trans h.pins, k.theta.trans h.theta,
    k.volts.trans h.volts, k.lastRead.trans h.lastRead, k.dram.trans h.dram, fun l => k.lite (h.lite l)⟩

theorem Boots.trans {s t u : State} (h : Boots s t) (k : Boots t u) : Boots s u :=
  ⟨h.toMild.trans k.toMild, k.setup.trans h.setup, k.geometry.trans h.geometry,
    fun i => (k.tables i).trans (h.tables i), k.inFifo.trans h.inFifo⟩

theorem mild_ite {s a b : State} {c : Prop} [Decidable c] (ha : Mild s a) (hb : Mild s b) :
    Mild s (if c then a else b) := by split <;> assumption
theorem boots_ite {s a b : State} {c : Prop} [Decidable c] (ha : Boots s a) (hb : Boots s b) :
    Boots s (if c then a else b) := by split <;> assumption

theorem mild_foldl {α : Type} (f : State → α → State) (hf : ∀ u x, Mild u (f u x)) (l : List α)
    (s : State) : Mild s (l.foldl f s) := by
  induction l generalizing s with
  | nil => exact Mild.refl s
  | cons x l ih => exact (hf s x).trans (ih _)
theorem boots_foldl {α : Type} (f : State → α → State) (hf : ∀ u x, Boots u (f u x)) (l : List α)
    (s : State) : Boots s (l.foldl f s) := by
  induction l generalizing s with
  | nil => exact Boots.refl s
  | cons x l ih => exact (hf s x).trans (ih _)

/-- An update of parts that `Mild` leaves open. -/
theorem mild_mk {s t : State} {ch : Nat} {se : Setup} {pa : Parser} {po : Port} {st : Store} {p : Pool}
    {tb : Vector TableSlot 16} {pg : Vector PageEntry 32} {e : Engines} {co : Coder}
    {pd : PrintDecoder} {l : LinePort} {sc : Scanner} {h : Head} {m m' : Motor} {cu : Cutter}
    {hi : HostIn} {ho : HostOut} {pw : Power} {b : Boot} (h1 : po.inFifo = t.port.inFifo)
    (h2 : po.lastRead = t.port.lastRead) (h3 : po.outFifo = t.port.outFifo)
    (h5 : st.dram = t.store.dram) (h10 : co.queue = t.coder.queue) (h11 : co.acc = t.coder.acc)
    (h12 : l.rxFifo = t.line.rxFifo) (h13 : l.txFifo = t.line.txFifo) (h14 : h.theta = t.head.theta)
    (h15 : h.volts = t.head.volts) (h16 : m.phase = t.pf.phase) (h17 : m'.phase = t.sf.phase)
    (h18 : hi.queue = t.hostIn.queue) :
    Mild s (State.mk t.pending t.now ch t.pins se pa po t.reports tb st p pg t.routes
      e co pd l sc h m m' cu hi ho pw b) ↔ Mild s t := by
  have lite : (State.mk t.pending t.now ch t.pins se pa po t.reports tb st p pg t.routes
      e co pd l sc h m m' cu hi ho pw b).Lite ↔ t.Lite := by
    simp only [State.Lite, State.capsWf, h1, h3, h10, h11, h12, h13, h16, h17, h18, State.route]
  exact ⟨fun k => k.trans ⟨rfl, rfl, rfl, h14.symm, h15.symm, h2.symm, h5.symm, lite.1⟩,
    fun k => k.trans ⟨rfl, rfl, rfl, h14, h15, h2, h5, lite.2⟩⟩

/-- An update of parts that `Boots` leaves open. -/
theorem boots_mk {s t : State} {ch : Nat} {pa : Parser} {po : Port} {st : Store} {p : Pool}
    {pg : Vector PageEntry 32} {e : Engines} {co : Coder}
    {pd : PrintDecoder} {l : LinePort} {sc : Scanner} {h : Head} {m m' : Motor} {cu : Cutter}
    {hi : HostIn} {ho : HostOut} {pw : Power} {b : Boot} (h1 : po.inFifo = t.port.inFifo)
    (h2 : po.lastRead = t.port.lastRead) (h3 : po.outFifo = t.port.outFifo)
    (h4 : st.geometry = t.store.geometry)
    (h5 : st.dram = t.store.dram) (h10 : co.queue = t.coder.queue) (h11 : co.acc = t.coder.acc)
    (h12 : l.rxFifo = t.line.rxFifo) (h13 : l.txFifo = t.line.txFifo) (h14 : h.theta = t.head.theta)
    (h15 : h.volts = t.head.volts) (h16 : m.phase = t.pf.phase) (h17 : m'.phase = t.sf.phase)
    (h18 : hi.queue = t.hostIn.queue) :
    Boots s (State.mk t.pending t.now ch t.pins t.setup pa po t.reports t.tables st p pg t.routes
      e co pd l sc h m m' cu hi ho pw b) ↔ Boots s t := by
  have m := mild_mk (s := s) (t := t) (ch := ch) (se := t.setup) (pa := pa) (p := p) (tb := t.tables)
    (pg := pg) (e := e) (pd := pd) (sc := sc) (cu := cu) (ho := ho) (pw := pw) (b := b)
    h1 h2 h3 h5 h10 h11 h12 h13 h14 h15 h16 h17 h18
  exact ⟨fun k => ⟨m.1 k.toMild, k.setup, h4.symm.trans k.geometry, k.tables, h1.symm.trans k.inFifo⟩,
    fun k => ⟨m.2 k.toMild, k.setup, h4.trans k.geometry, k.tables, h1.trans k.inFifo⟩⟩

theorem boots_setPage {s t : State} {p : PageNo} {e : PageEntry} :
    Boots s (t.setPage p e) ↔ Boots s t := by
  unfold State.setPage
  exact boots_mk rfl rfl rfl rfl rfl rfl rfl rfl rfl rfl rfl rfl rfl rfl
theorem boots_setBoot {s t : State} {b : Boot} : Boots s (t.setBoot b) ↔ Boots s t := by
  unfold State.setBoot
  exact boots_mk rfl rfl rfl rfl rfl rfl rfl rfl rfl rfl rfl rfl rfl rfl
theorem mild_setPage {s t : State} {p : PageNo} {e : PageEntry} :
    Mild s (t.setPage p e) ↔ Mild s t := by
  unfold State.setPage
  exact mild_mk rfl rfl rfl rfl rfl rfl rfl rfl rfl rfl rfl rfl rfl
theorem mild_setScanner {s t : State} {c : Scanner} : Mild s (t.setScanner c) ↔ Mild s t := by
  unfold State.setScanner
  exact mild_mk rfl rfl rfl rfl rfl rfl rfl rfl rfl rfl rfl rfl rfl
theorem mild_setTable {s t : State} {i : TableNo} {x : TableSlot} :
    Mild s (t.setTable i x) ↔ Mild s t := by
  unfold State.setTable
  exact mild_mk rfl rfl rfl rfl rfl rfl rfl rfl rfl rfl rfl rfl rfl

theorem boots_placeRetain (s : State) : Boots s (s.placeRetain) := by
  unfold State.placeRetain
  try dsimp -proj only
  repeat' (first
    | with_reducible exact Boots.refl _
    | exact rfl
    | with_reducible refine Boots.trans ?_ (Calm.boots (calm_entryAdvance ..))
    | with_reducible refine boots_ite ?_ ?_
    | simp only [↓boots_mk])

theorem boots_goCold (s : State) (reason : ColdReason) : Boots s (s.goCold reason) := by
  unfold State.goCold
  try dsimp -proj only
  repeat' (first
    | with_reducible exact Boots.refl _
    | exact rfl
    | with_reducible refine boots_ite ?_ ?_
    | simp only [↓boots_setBoot])

theorem boots_decideBoot (s : State) : Boots s (s.decideBoot) := by
  unfold State.decideBoot
  try dsimp -proj only
  repeat' (first
    | with_reducible exact Boots.refl _
    | exact rfl
    | with_reducible refine Boots.trans ?_ (boots_goCold ..)
    | with_reducible refine boots_ite ?_ ?_
    | simp only [↓boots_setBoot])

theorem boots_headerRead (s : State) (words : List ReadWord) : Boots s (s.headerRead words) := by
  unfold State.headerRead
  try dsimp -proj only
  repeat' (first
    | with_reducible exact Boots.refl _
    | exact rfl
    | with_reducible refine Boots.trans ?_ (boots_goCold ..)
    | with_reducible refine boots_ite ?_ ?_
    | simp only [↓boots_setBoot]
    | split)

theorem boots_warmEnd (s : State) : Boots s (s.warmEnd) := by
  unfold State.warmEnd
  try dsimp -proj only
  repeat' (first
    | with_reducible exact Boots.refl _
    | exact rfl
    | with_reducible refine boots_ite ?_ ?_
    | simp only [↓boots_mk])

theorem boots_sweepFrom (s : State) (b : Nat) : Boots s (s.sweepFrom b) := by
  unfold State.sweepFrom
  try dsimp -proj only
  repeat' (first
    | with_reducible exact Boots.refl _
    | exact rfl
    | with_reducible refine Boots.trans ?_ (boots_warmEnd ..)
    | with_reducible refine boots_ite ?_ ?_
    | simp only [↓boots_setBoot]
    | split)

theorem boots_zeroFrom (s : State) (pages : List Nat) : Boots s (s.zeroFrom pages) := by
  unfold State.zeroFrom
  try dsimp -proj only
  repeat' (first
    | with_reducible exact Boots.refl _
    | exact rfl
    | with_reducible refine Boots.trans ?_ (boots_sweepFrom ..)
    | with_reducible refine boots_ite ?_ ?_
    | simp only [↓boots_setBoot]
    | split)

theorem boots_nextImage (s : State) (page : Nat) : Boots s (s.nextImage page) := by
  unfold State.nextImage
  try dsimp -proj only
  repeat' (first
    | with_reducible exact Boots.refl _
    | exact rfl
    | with_reducible refine Boots.trans ?_ (boots_zeroFrom ..)
    | with_reducible refine boots_ite ?_ ?_
    | simp only [↓boots_setBoot])

theorem boots_discard (s : State) (page : Nat) : Boots s (s.discard page) := by
  unfold State.discard
  try dsimp -proj only
  repeat' (first
    | with_reducible exact Boots.refl _
    | exact rfl
    | with_reducible refine Boots.trans ?_ (boots_nextImage ..)
    | with_reducible refine boots_ite ?_ ?_
    | simp only [↓boots_setBoot])

theorem boots_bootWalk (s : State) (page : Nat) (e : PageEntry) (block left : Nat) (own : List Nat) : Boots s (s.bootWalk page e block left own) := by
  unfold State.bootWalk
  try dsimp -proj only
  repeat' (first
    | with_reducible exact Boots.refl _
    | exact rfl
    | with_reducible refine Boots.trans ?_ (boots_discard ..)
    | with_reducible refine boots_ite ?_ ?_
    | simp only [↓boots_setBoot])

theorem boots_imageRead (s : State) (page : Nat) (first : Option (List Word)) (spoilt : Bool) (words : List ReadWord) : Boots s (s.imageRead page first spoilt words) := by
  unfold State.imageRead
  try dsimp -proj only
  repeat' (first
    | with_reducible exact Boots.refl _
    | exact rfl
    | with_reducible refine Boots.trans ?_ (boots_nextImage ..)
    | with_reducible refine Boots.trans ?_ (boots_discard ..)
    | with_reducible refine Boots.trans ?_ (boots_bootWalk ..)
    | with_reducible refine boots_ite ?_ ?_
    | simp only [↓boots_setBoot]
    | split)

theorem boots_keepEntry (s : State) (page : Nat) (e : PageEntry) (own : List Nat) : Boots s (s.keepEntry page e own) := by
  unfold State.keepEntry
  try dsimp -proj only
  repeat' (first
    | with_reducible exact Boots.refl _
    | exact rfl
    | with_reducible refine Boots.trans ?_ (boots_nextImage ..)
    | with_reducible refine boots_ite ?_ ?_
    | simp only [↓boots_setPage, ↓boots_setBoot]
    | split)

theorem boots_bootLinkRead (s : State) (page : Nat) (e : PageEntry) (block left : Nat) (own : List Nat) (x : ReadWord) : Boots s (s.bootLinkRead page e block left own x) := by
  unfold State.bootLinkRead
  try dsimp -proj only
  repeat' (first
    | with_reducible exact Boots.refl _
    | exact rfl
    | with_reducible refine Boots.trans ?_ (boots_discard ..)
    | with_reducible refine Boots.trans ?_ (boots_bootWalk ..)
    | with_reducible refine Boots.trans ?_ (boots_keepEntry ..)
    | with_reducible refine boots_ite ?_ ?_)

theorem boots_emptyPool (s : State) : Boots s (s.emptyPool) := by
  unfold State.emptyPool
  try dsimp -proj only
  repeat' (first
    | with_reducible exact Boots.refl _
    | exact rfl
    | with_reducible refine boots_ite ?_ ?_
    | simp only [↓boots_mk])

theorem boots_coldEnd (s : State) : Boots s (s.coldEnd) := by
  unfold State.coldEnd
  try dsimp -proj only
  repeat' (first
    | with_reducible exact Boots.refl _
    | exact rfl
    | with_reducible refine Boots.trans ?_ (boots_emptyPool ..)
    | with_reducible refine boots_ite ?_ ?_
    | simp only [↓boots_setBoot])

theorem boots_startScrub (s : State) : Boots s (s.startScrub) := by
  unfold State.startScrub
  try dsimp -proj only
  repeat' (first
    | with_reducible exact Boots.refl _
    | exact rfl
    | with_reducible refine boots_ite ?_ ?_
    | simp only [↓boots_mk])

theorem boots_geometryEnd (s : State) : Boots s (s.geometryEnd) := by
  unfold State.geometryEnd
  try dsimp -proj only
  repeat' (first
    | with_reducible exact Boots.refl _
    | exact rfl
    | with_reducible refine Boots.trans ?_ (boots_emptyPool ..)
    | with_reducible refine Boots.trans ?_ (boots_startScrub ..)
    | with_reducible refine Boots.trans ?_ (Calm.boots (calm_availChange ..))
    | with_reducible refine Boots.trans ?_ (Calm.boots (calm_queueReport _ _ ?_))
    | with_reducible refine boots_ite ?_ ?_
    | simp only [↓boots_setBoot])

theorem boots_bootWritten (s : State) (words : Nat) : Boots s (s.bootWritten words) := by
  unfold State.bootWritten
  try dsimp -proj only
  repeat' (first
    | with_reducible exact Boots.refl _
    | exact rfl
    | with_reducible refine Boots.trans ?_ (boots_sweepFrom ..)
    | with_reducible refine Boots.trans ?_ (boots_zeroFrom ..)
    | with_reducible refine Boots.trans ?_ (boots_coldEnd ..)
    | with_reducible refine boots_ite ?_ ?_
    | simp only [↓boots_setPage, ↓boots_setBoot]
    | split)

theorem boots_releaseHost (s : State) : Boots s (s.releaseHost) := by
  unfold State.releaseHost
  try dsimp -proj only
  repeat' (first
    | with_reducible exact Boots.refl _
    | exact rfl
    | with_reducible refine Boots.trans ?_ (boots_startScrub ..)
    | with_reducible refine Boots.trans ?_ (Calm.boots (calm_supplyOn ..))
    | with_reducible refine Boots.trans ?_ (Calm.boots (calm_queueReport _ _ ?_))
    | with_reducible refine boots_ite ?_ ?_
    | simp only [↓boots_mk, ↓boots_setBoot])

theorem boots_failSafe (s : State) : Boots s (s.failSafe) := by
  unfold State.failSafe
  try dsimp -proj only
  repeat' (first
    | with_reducible exact Boots.refl _
    | exact rfl
    | with_reducible refine Boots.trans ?_ (boots_placeRetain ..)
    | with_reducible refine boots_ite ?_ ?_
    | simp only [↓boots_setBoot]
    | split)

theorem boots_headerWritten (s : State) (purpose : HeaderFor) : Boots s (s.headerWritten purpose) := by
  unfold State.headerWritten
  split
  · exact boots_ite (boots_setBoot.2 (Boots.refl s)) (boots_releaseHost ..)
  · exact (boots_setBoot.2 (Boots.refl s)).trans (boots_placeRetain ..)
  · exact boots_ite (boots_geometryEnd ..) (Boots.refl s)
  · refine Boots.trans ?_ (boots_placeRetain ..)
    simp only [↓boots_mk, ↓boots_setBoot]
    exact Boots.refl s

theorem boots_bootOn (s : State) : Boots s (s.bootOn) := by
  unfold State.bootOn
  try dsimp -proj only
  repeat' (first
    | with_reducible exact Boots.refl _
    | exact rfl
    | with_reducible refine Boots.trans ?_ (boots_placeRetain ..)
    | with_reducible refine boots_ite ?_ ?_
    | simp only [↓boots_setBoot])

theorem boots_storeOn (s : State) : Boots s s.storeOn := by
  unfold State.storeOn
  extract_lets st s1 s2 pw s3 s4 s5
  have h1 : Boots s s1 := by simp only [s1, st, ↓boots_mk, Boots.refl]
  have h2 : Boots s s2 := boots_ite (h1.trans (boots_startScrub ..)) h1
  have h3 : Boots s s3 := boots_ite (by simpa only [↓boots_mk] using h2) h2
  have h4 : Boots s s4 := h3.trans (boots_bootOn ..)
  have h5 : Boots s s5 := boots_ite (h4.trans (calm_completeRun ..).boots) h4
  refine boots_ite (Boots.trans ?_ (calm_entryAdvance ..).boots) h5
  refine (boots_mk ?_ ?_ ?_ ?_ ?_ ?_ ?_ ?_ ?_ ?_ ?_ ?_ ?_ ?_).2 h5 <;> rfl

theorem boots_offer (s : State) (client : LogClient) (a : Nat) (x : ReadWord) : Boots s (s.offer client a x) := by
  unfold State.offer
  try dsimp -proj only
  repeat' (first
    | with_reducible exact Boots.refl _
    | exact rfl
    | with_reducible refine Boots.trans ?_ (Calm.boots (calm_queueReport _ _ ?_))
    | with_reducible refine boots_ite ?_ ?_
    | simp only [↓boots_mk]
    | split)

theorem boots_offerAll (s : State) (client : Option LogClient) (a : Nat) (xs : List ReadWord) :
    Boots s (s.offerAll client a xs) := by
  unfold State.offerAll
  split
  · exact boots_foldl _ (fun u x => boots_offer ..) _ s
  · exact Boots.refl s

theorem boots_dirWritten (s : State) : Boots s (s.dirWritten) := by
  unfold State.dirWritten
  try dsimp -proj only
  repeat' (first
    | with_reducible exact Boots.refl _
    | exact rfl
    | with_reducible refine boots_ite ?_ ?_
    | simp only [↓boots_mk]
    | split)

theorem boots_scrubbed (s : State) : Boots s (s.scrubbed) := by
  unfold State.scrubbed
  try dsimp -proj only
  repeat' (first
    | with_reducible exact Boots.refl _
    | exact rfl
    | with_reducible refine boots_ite ?_ ?_
    | simp only [↓boots_mk])

theorem boots_rowDone (s : State) : Boots s (s.rowDone) := by
  unfold State.rowDone
  try dsimp -proj only
  repeat' (first
    | with_reducible exact Boots.refl _
    | exact rfl
    | with_reducible refine Boots.trans ?_ (boots_storeOn ..)
    | with_reducible refine boots_ite ?_ ?_
    | simp only [↓boots_mk])

theorem boots_finalRowDone (s : State) : Boots s s.finalRowDone := by
  unfold State.finalRowDone
  split
  · rename_i h
    exact (calm_enterSelfRefresh s (by simp [h.1])).boots
  · exact Boots.refl s

theorem boots_wordsFetched (s : State) (x : Reader) (xs : List ReadWord) : Boots s (s.wordsFetched x xs) := by
  unfold State.wordsFetched
  try dsimp -proj only
  repeat' (first
    | with_reducible exact Boots.refl _
    | exact rfl
    | with_reducible refine Boots.trans ?_ (Calm.boots (calm_setFetch ..))
    | with_reducible refine Boots.trans ?_ (Calm.boots (calm_readDamaged ..))
    | with_reducible refine boots_ite ?_ ?_)

theorem boots_wrote (s : State) (c : Coder) (l : LinePort) (h : HostIn)
    (hc : c.queue.length ≤ s.coder.queue.length ∧ c.acc.length ≤ s.coder.acc.length)
    (hl : l.rxFifo.length ≤ s.line.rxFifo.length ∧ l.txFifo.length ≤ s.line.txFifo.length)
    (hh : h.queue.length ≤ s.hostIn.queue.length) :
    Boots s { s with coder := c, line := l, hostIn := h } :=
  ⟨⟨rfl, rfl, rfl, rfl, rfl, rfl, rfl, fun ⟨k1, ⟨a1, a2, a3, a4, a5, a6, a7, a8, a9⟩, k3⟩ =>
    ⟨k1, ⟨a1, a2, Nat.le_trans hh a3, Nat.le_trans hl.1 a4, Nat.le_trans hl.2 a5,
      Nat.le_trans hc.1 a6, Nat.le_trans hc.2 a7, a8, a9⟩, k3⟩⟩, rfl, rfl, fun _ => rfl, rfl⟩

theorem boots_deliver (s : State) (b : Burst) (xs : List ReadWord) : Boots s (s.deliver b xs) := by
  have drop (q : List Word) (n : Nat) : (q.drop n).length ≤ q.length := by
    simp only [List.length_drop]; omega
  have dropB (q : List Byte) (n : Nat) : (q.drop n).length ≤ q.length := by
    simp only [List.length_drop]; omega
  unfold State.deliver
  dsimp only
  split
  · exact boots_rowDone ..
  · exact boots_ite (boots_finalRowDone ..) (Boots.refl s)
  · exact boots_scrubbed ..
  · exact boots_dirWritten ..
  · exact boots_dirWritten ..
  · exact boots_ite (calm_refill ..).boots (Boots.refl s)
  · split
    · exact boots_ite (calm_walkLink ..).boots (Boots.refl s)
    · exact Boots.refl s
  · exact boots_headerWritten ..
  · exact boots_ite (boots_headerRead ..) (Boots.refl s)
  · split
    · exact boots_imageRead ..
    · exact Boots.refl s
  · split
    · exact boots_bootLinkRead ..
    · exact Boots.refl s
  · exact boots_bootWritten ..
  · exact boots_ite (Boots.refl s) (boots_wrote s _ _ _ ⟨drop _ _, Nat.le_refl _⟩
      ⟨Nat.le_refl _, Nat.le_refl _⟩ (Nat.le_refl _))
  · exact boots_ite (Boots.refl s) (boots_wrote s _ _ _ ⟨Nat.le_refl _, Nat.le_refl _⟩
      ⟨dropB _ _, Nat.le_refl _⟩ (Nat.le_refl _))
  · exact boots_ite (Boots.refl s) (boots_wrote s _ _ _ ⟨Nat.le_refl _, Nat.le_refl _⟩
      ⟨Nat.le_refl _, Nat.le_refl _⟩ (drop _ _))
  · exact boots_ite (boots_ite (calm_readDamaged ..).boots (Boots.refl s)) (boots_wordsFetched ..)
  · exact boots_ite (boots_ite (Boots.refl s) (calm_readDamaged ..).boots) (calm_readerLink ..).boots

end Sys2Proof.Machine
end

