-- ==== Sys2Proof/Laws/FrameOrders.lean ====
section
/-! SUPPORT. `Mild` of the orders, of the Order Parser and of the boot ROM's bytes. -/

namespace Sys2Proof.Machine

theorem mild_setMotor_eq {s t : State} {m : MotorName} {x : Motor}
    (h : x.phase = (t.motor m).phase) : Mild s (t.setMotor m x) ↔ Mild s t := by
  cases m
  · exact mild_mk rfl rfl rfl rfl rfl rfl rfl rfl rfl rfl h rfl rfl
  · exact mild_mk rfl rfl rfl rfl rfl rfl rfl rfl rfl rfl rfl h rfl

theorem mild_setLine_eq {s t : State} {l : LinePort} (h1 : l.rxFifo = t.line.rxFifo)
    (h2 : l.txFifo = t.line.txFifo) : Mild s (t.setLine l) ↔ Mild s t := by
  unfold State.setLine
  exact mild_mk rfl rfl rfl rfl rfl rfl h1 h2 rfl rfl rfl rfl rfl

theorem mild_react (s : State) : Mild s s.react := (calm_react s).mild

theorem mild_refuse (s : State) (k : OrderKind) (c : Refused) (fields : List Byte) : Mild s (s.refuse k c fields) := by
  unfold State.refuse
  try dsimp -proj only
  repeat' (first
    | with_reducible exact Mild.refl _
    | exact rfl
    | with_reducible refine Mild.trans ?_ (Calm.mild (calm_queueReport _ _ ?_)))

theorem mild_setScrub (s : State) (interval : Nat) : Mild s (s.setScrub interval) := by
  unfold State.setScrub
  try dsimp -proj only
  repeat' (first
    | with_reducible exact Mild.refl _
    | exact rfl
    | with_reducible refine Mild.trans ?_ (Boots.toMild (boots_startScrub ..))
    | with_reducible refine mild_ite ?_ ?_
    | simp only [↓mild_mk])

theorem mild_changeGeometry (s : State) (geometry : Nat) : Mild s (s.changeGeometry geometry) := by
  unfold State.changeGeometry
  refine ((mild_mk ?_ ?_ ?_ ?_ ?_ ?_ ?_ ?_ ?_ ?_ ?_ ?_ ?_).2 (Mild.refl s)).trans
    ((calm_availChange _ s.available).mild.trans (mild_react _)) <;> rfl

theorem mild_takeSetup (s : State) (b : SetupBody) (rom : Bool) : Mild s (s.takeSetup b rom) := by
  unfold State.takeSetup
  split
  · exact mild_refuse ..
  · extract_lets other scrub s1 s2 st
    have h2 : Mild s s2 := by simpa only [s2, ↓mild_mk] using mild_setScrub s scrub
    refine mild_ite h2 (mild_ite ?_ (h2.trans (mild_changeGeometry ..)))
    refine (mild_mk ?_ ?_ ?_ ?_ ?_ ?_ ?_ ?_ ?_ ?_ ?_ ?_ ?_).2 h2 <;> rfl

theorem mild_noteLoaded (s : State) (t : TableNo) (rom : Bool) : Mild s (s.noteLoaded t rom) := by
  unfold State.noteLoaded
  try dsimp -proj only
  repeat' (first
    | with_reducible exact Mild.refl _
    | exact rfl
    | with_reducible refine mild_ite ?_ ?_
    | simp only [↓mild_mk])

theorem mild_takeLoad (s : State) (slot kind : Byte) (n : Nat) (rom : Bool) :
    Mild s (s.takeLoad slot kind n rom).1 := by
  unfold State.takeLoad
  split
  · exact mild_refuse ..
  · split
    · refine Mild.trans ?_ (mild_noteLoaded ..)
      simp only [↓mild_setTable, Mild.refl]
    · exact Mild.refl s

theorem mild_takeTableDrop (s : State) (slot : Byte) : Mild s (s.takeTableDrop slot) := by
  unfold State.takeTableDrop
  split
  · exact mild_setTable.2 (Mild.refl s)
  · exact mild_refuse ..
  · exact Mild.refl s

theorem mild_pageDropped (s : State) (p : PageNo) : Mild s (s.pageDropped p) :=
  mild_ite ((calm_freePage ..).mild.trans (mild_react _)) (calm_dropPage ..).mild

theorem mild_takePageDrop (s t : State) (page : Byte) (h : s.takePageDrop page = some t) :
    Mild s t := by
  unfold State.takePageDrop at h
  split at h
  · rw [← Option.some.inj h]; exact mild_refuse ..
  · extract_lets need at h
    by_cases e : need ≤ s.dirPlaces
    · rw [if_pos e] at h
      rw [← Option.some.inj h]; exact mild_pageDropped ..
    · rw [if_neg e] at h
      contradiction
  · rw [← Option.some.inj h]; exact Mild.refl s

theorem mild_lampOn (s : State) : Mild s (s.lampOn) := by
  unfold State.lampOn
  try dsimp -proj only
  repeat' (first
    | with_reducible exact Mild.refl _
    | exact rfl
    | with_reducible refine mild_ite ?_ ?_
    | simp only [↓mild_setScanner])

theorem mild_startBlocks (s : State) (r : RouteNo) (k : RouteKind) : Mild s (s.startBlocks r k) := by
  unfold State.startBlocks
  dsimp -proj only
  cases k
  · refine Mild.trans ?_ (mild_lampOn ..)
    simp only [↓mild_setScanner]
    exact (calm_idleCoder _ _ rfl rfl).mild
  · refine Mild.trans ?_ (mild_lampOn ..)
    simp only [↓mild_setScanner, ↓mild_mk, Mild.refl, Head.emptyRing, Head.clearRing, Head.cutBurn]
  · simp only [↓mild_mk, Mild.refl, Head.emptyRing, Head.clearRing, Head.cutBurn]
  · exact (calm_setLine _ _ (fun _ => Nat.zero_le _) fun _ => Nat.zero_le _).mild
  · exact (calm_setLine _ _ (fun _ => Nat.zero_le _) fun _ => Nat.zero_le _).mild
  · exact (calm_idleHostIn _ _ rfl).mild
  · simp only [↓mild_mk, Mild.refl]

theorem mild_addReader (s : State) (page : Option PageNo) : Mild s (s.addReader page) := by
  unfold State.addReader
  try dsimp -proj only
  repeat' (first
    | with_reducible exact Mild.refl _
    | exact rfl
    | with_reducible refine mild_ite ?_ ?_
    | simp only [↓mild_setPage]
    | split)

theorem mild_disown (s : State) (r : RouteNo) : Mild s { s with head := s.head.disown r } := by
  unfold Head.disown
  simp only [↓mild_mk, Mild.refl]

theorem mild_startRoute (s : State) (r : RouteNo) (b : StartBody) (k : RouteKind) :
    Mild s (s.startRoute r b k) := by
  unfold State.startRoute
  extract_lets before s1 s2 s3 s4 s5 s6 s7 s8
  have h1 : Mild s s1 := (calm_setRoute s r _ fun _ => by
    simp [State.startRecord, Route.countsWf, Route.idleRecord]).mild
  have h2 : Mild s s2 := h1.trans (calm_foldl _ calm_bind _ _).mild
  have h3 : Mild s s3 := by simpa only [s3, ↓mild_mk] using h2
  have h5 : Mild s s5 := (h3.trans (calm_availChange ..).mild).trans (mild_addReader ..)
  have h6 : Mild s s6 := (h5.trans (mild_disown s5 r)).trans (mild_startBlocks ..)
  have h7 : Mild s s7 := h6.trans (calm_routeTo ..).mild
  exact (mild_ite (h7.trans (calm_askOpen ..).mild) h7).trans (calm_react ..).mild

theorem mild_takeStart (s t : State) (b : StartBody) (h : s.takeStart b = some t) : Mild s t := by
  unfold State.takeStart at h
  split at h
  · contradiction
  · split at h
    · rw [← Option.some.inj h]; exact mild_startRoute ..
    · rw [← Option.some.inj h]; exact mild_refuse ..
    · rw [← Option.some.inj h]; exact Mild.refl s

theorem mild_finishFeed (s : State) (r : RouteNo) : Mild s (s.finishFeed r) := by
  unfold State.finishFeed
  split
  · exact (calm_setSf_eq (x := { s.sf with left := 0 }) rfl).2 (Calm.refl s) |>.mild
  · refine mild_ite ?_ (calm_beginEject ..).mild
    refine (mild_setMotor_eq ?_).2 (mild_setScanner.2 (Mild.refl s)); rfl
  · exact mild_ite (Mild.refl s) (calm_beginEject ..).mild
  · exact mild_ite (Mild.refl s) (calm_beginEject ..).mild
  · exact Mild.refl s

theorem mild_finishKind (s : State) (r : RouteNo) : Mild s (s.finishKind r) := by
  unfold State.finishKind
  split
  · refine Mild.trans ?_ (mild_finishFeed ..)
    simp only [↓mild_mk, Mild.refl]
  · exact mild_finishFeed ..
  · simp only [↓mild_mk, Mild.refl]
  · refine mild_ite (calm_completeRoute ..).mild ?_
    refine (mild_setLine_eq ?_ ?_).2 (Mild.refl s) <;> rfl
  · split
    · simp only [↓mild_mk, Mild.refl]
    · exact (calm_completeRoute ..).mild
  · exact Mild.refl s

theorem mild_haltFinish (s : State) (r : RouteNo) : Mild s (s.haltFinish r) := by
  unfold State.haltFinish
  have hf : Mild s ((((s.setRoute r { s.route r with halt := .finish }).routeTo r .halting).finishKind
      r).react) :=
    (((calm_setRoute_eq s r { s.route r with halt := .finish } rfl).mild.trans
      (calm_routeTo ..).mild).trans (mild_finishKind ..)).trans (mild_react _)
  split
  · exact (calm_haltRoute ..).mild.trans (mild_react _)
  · exact hf
  · exact hf
  · exact Mild.refl s

theorem mild_stopNow (s : State) (r : RouteNo) : Mild s (s.stopNow r) := by
  unfold State.stopNow
  try dsimp -proj only
  repeat' (first
    | with_reducible exact Mild.refl _
    | exact rfl
    | with_reducible refine Mild.trans ?_ (Calm.mild (calm_haltMotor ..))
    | with_reducible refine mild_ite ?_ ?_)

theorem mild_haltNow (s : State) (r : RouteNo) : Mild s (s.haltNow r) := by
  unfold State.haltNow
  extract_lets x s1 s2 rt s3
  have h1 : Mild s s1 := mild_stopNow s r
  have h2 : Mild s s2 := h1.trans (calm_stopFlows ..).mild
  have h4 : Mild s s3 := h2.trans (calm_setRoute_eq s2 r { rt with halt := .nowWaiting } rfl).mild
  exact mild_ite (Mild.refl s) (mild_ite ((calm_haltRoute ..).mild.trans (mild_react _))
    (mild_ite ((mild_ite h4 (h4.trans (calm_routeTo ..).mild)).trans (mild_react _))
      (h1.trans ((calm_haltRoute ..).mild.trans (mild_react _)))))

theorem mild_takeHalt (s : State) (slot mode : Byte) : Mild s (s.takeHalt slot mode) := by
  unfold State.takeHalt
  try dsimp -proj only
  repeat' (first
    | with_reducible exact Mild.refl _
    | exact rfl
    | with_reducible refine Mild.trans ?_ (mild_refuse ..)
    | with_reducible refine Mild.trans ?_ (mild_haltFinish ..)
    | with_reducible refine Mild.trans ?_ (mild_haltNow ..)
    | with_reducible refine mild_ite ?_ ?_
    | simp only [↓mild_mk, ↓mild_setPage, ↓mild_setScanner, ↓mild_setTable]
    | split)

theorem mild_takeData (s : State) (slot flags : Byte) (lines : Word) (n : Nat) :
    Mild s (s.takeData slot flags lines n).1 := by
  unfold State.takeData
  split
  · simp only [↓mild_mk, Mild.refl]
  · exact mild_refuse ..
  · exact Mild.refl s

theorem mild_startMove (s : State) (m : MotorName) (t : TableNo) (b : MoveBody) :
    Mild s (s.startMove m t b) := by
  unfold State.startMove
  refine Mild.trans ?_ (calm_restart ..).mild
  refine (mild_setMotor_eq ?_).2 (calm_bind s t).mild
  rfl

theorem mild_takeMove (s : State) (b : MoveBody) : Mild s (s.takeMove b) := by
  unfold State.takeMove
  try dsimp -proj only
  repeat' (first
    | with_reducible exact Mild.refl _
    | exact rfl
    | with_reducible refine Mild.trans ?_ (mild_refuse ..)
    | with_reducible refine Mild.trans ?_ (mild_startMove ..)
    | with_reducible refine mild_ite ?_ ?_
    | simp only [↓mild_mk, ↓mild_setPage, ↓mild_setScanner, ↓mild_setTable]
    | split)

theorem mild_takeCut (s : State) : Mild s (s.takeCut) := by
  unfold State.takeCut
  try dsimp -proj only
  repeat' (first
    | with_reducible exact Mild.refl _
    | exact rfl
    | with_reducible refine Mild.trans ?_ (mild_refuse ..)
    | with_reducible refine Mild.trans ?_ (Calm.mild (calm_startCut ..))
    | with_reducible refine mild_ite ?_ ?_
    | simp only [↓mild_mk, ↓mild_setPage, ↓mild_setScanner, ↓mild_setTable]
    | split)

theorem mild_levelToRun (s : State) (options : Byte) : Mild s (s.levelToRun options) := by
  unfold State.levelToRun
  extract_lets stutter pw u
  have h : Mild s u := by simp only [u, ↓mild_mk, Mild.refl]
  exact mild_ite (h.trans (calm_powerPass ..).mild) (h.trans (calm_withdrawOrdinary ..).mild)

theorem mild_levelToDoze (s : State) (options : Byte) : Mild s (s.levelToDoze options) := by
  unfold State.levelToDoze
  extract_lets s1 pw s2 s3
  have h1 : Mild s s1 := (calm_withdrawOrdinary s).mild
  have h2 : Mild s s2 := by
    refine (mild_mk ?_ ?_ ?_ ?_ ?_ ?_ ?_ ?_ ?_ ?_ ?_ ?_ ?_).2 h1 <;> rfl
  have h3 : Mild s s3 := h2.trans (calm_takeWake ..).mild
  exact mild_ite (mild_ite (h3.trans (calm_takeWake ..).mild) h3)
    (mild_ite (h2.trans (calm_takeWake ..).mild) (h2.trans (calm_beginDoze ..).mild))

theorem mild_takeLevel (s : State) (level options : Byte) : Mild s (s.takeLevel level options) := by
  unfold State.takeLevel
  try dsimp -proj only
  repeat' (first
    | with_reducible exact Mild.refl _
    | exact rfl
    | with_reducible refine Mild.trans ?_ (mild_refuse ..)
    | with_reducible refine Mild.trans ?_ (mild_levelToRun ..)
    | with_reducible refine Mild.trans ?_ (mild_levelToDoze ..)
    | with_reducible refine mild_ite ?_ ?_
    | simp only [↓mild_mk, ↓mild_setPage, ↓mild_setScanner, ↓mild_setTable]
    | split)

/-- A report without a key, of which no other waits. -/
theorem mild_enqueueFree (s : State) (x : Report) (no : ∀ e ∈ s.reports, e.report.kindCode ≠ x.kindCode)
    (k : x.key = none) : Mild s (s.queueReport x) := by
  unfold State.queueReport
  have h (w : Bool) := calm_putFree s x w k no
  exact mild_ite (h _).mild (mild_ite (mild_ite (h _).mild ((h _).trans (calm_takeWake ..)).mild)
    (h _).mild)

theorem mild_takeMark (s t : State) (v : Word) (h : s.takeMark v = some t) : Mild s t := by
  unfold State.takeMark at h
  split at h
  · contradiction
  · rename_i no
    rw [← Option.some.inj h]
    exact mild_enqueueFree s _ (by simpa [State.holdsKind, Report.kindCode] using no) rfl

theorem mild_takeQuery (s t : State) (a b : Byte) (h : s.takeQuery a b = some t) : Mild s t := by
  unfold State.takeQuery at h
  split at h
  · contradiction
  · rename_i no
    rw [← Option.some.inj h]
    split
    · exact mild_refuse ..
    · extract_lets u
      have hu : Mild s u := mild_enqueueFree s _ (by simpa [State.holdsKind, Report.kindCode] using no) rfl
      refine mild_ite ?_ hu
      simpa only [State.emptyLog, ↓mild_mk] using hu

theorem mild_takeClear (s : State) (a : Byte) : Mild s (s.takeClear a) := by
  unfold State.takeClear
  split
  · exact mild_refuse ..
  · split
    · simp only [↓mild_mk, Mild.refl]
    · unfold State.clearPrinterFault
      simp only [↓mild_mk, Mild.refl]
    · exact (calm_startRebuild ..).mild.trans (mild_react _)

theorem mild_parser {s t : State} {p : Parser} : Mild s { t with parser := p } ↔ Mild s t :=
  mild_mk rfl rfl rfl rfl rfl rfl rfl rfl rfl rfl rfl rfl rfl

theorem mild_parserHead (s : State) : Mild s s.parserHead := by
  unfold State.parserHead
  exact mild_parser.2 (Mild.refl s)

theorem mild_setBoot {s t : State} {b : Boot} : Mild s { t with boot := b } ↔ Mild s t :=
  mild_mk rfl rfl rfl rfl rfl rfl rfl rfl rfl rfl rfl rfl rfl

theorem mild_takeOrder (s t : State) (k : OrderKind) (body : List Byte)
    (h : s.takeOrder k body = some t) : Mild s t := by
  unfold State.takeOrder at h
  extract_lets b at h
  split at h
  · rw [← Option.some.inj h]; exact mild_refuse ..
  split at h
  · contradiction
  · split at h
    · rw [← Option.some.inj h]; exact mild_refuse ..
    · cases k
      case pageDrop => exact mild_takePageDrop _ _ _ h
      case routeStart => exact mild_takeStart _ _ _ h
      case query => exact mild_takeQuery _ _ _ _ h
      case mark => exact mild_takeMark _ _ _ h
      all_goals
        rw [← Option.some.inj h]
        first
          | exact Mild.refl s | exact mild_takeSetup .. | exact mild_takeTableDrop ..
          | exact mild_takeHalt .. | exact mild_takeMove .. | exact mild_takeCut ..
          | exact mild_takeLevel .. | exact mild_takeClear ..

theorem mild_undoReplay (s : State) : Mild s s.undoReplay := by
  unfold State.undoReplay
  extract_lets u
  have h : Mild s u := mild_foldl _ (fun u x => mild_setTable.2 (Mild.refl u)) _ s
  refine (mild_mk ?_ ?_ ?_ ?_ ?_ ?_ ?_ ?_ ?_ ?_ ?_ ?_ ?_).2 h <;> rfl

theorem mild_replayEnd (s : State) (x : RomOutcome) : Mild s (s.replayEnd x) := by
  unfold State.replayEnd
  extract_lets b u
  have h : Mild s u := by
    refine (mild_mk ?_ ?_ ?_ ?_ ?_ ?_ ?_ ?_ ?_ ?_ ?_ ?_ ?_).2 (Mild.refl s) <;> rfl
  exact Mild.trans (mild_ite (h.trans (mild_undoReplay ..)) h) (boots_decideBoot ..).toMild

theorem mild_takeReplayed (s : State) (k : OrderKind) (body : List Byte) :
    Mild s (s.takeReplayed k body) := by
  unfold State.takeReplayed
  split
  · exact mild_ite (mild_takeSetup ..) (mild_refuse ..)
  · exact mild_refuse ..
  · exact mild_replayEnd ..
  · exact mild_refuse ..

theorem mild_dispatch (s t : State) (kind : Byte) (body : List Byte) (h : s.dispatch kind body = some t) :
    Mild s t := by
  unfold State.dispatch at h
  split at h
  · exact mild_takeOrder _ _ _ _ h
  · rw [← Option.some.inj h]; exact mild_takeReplayed ..
  · rw [← Option.some.inj h]; exact Mild.refl s

theorem mild_badHeader (s : State) (kind : Byte) (n : Word) : Mild s (s.badHeader kind n) := by
  unfold State.badHeader
  split
  · exact (mild_parser.2 (Mild.refl s)).trans (calm_queueReport _ _ rfl).mild
  · exact mild_replayEnd ..

theorem mild_headerDone (s t : State) (kind low high : Byte)
    (h : s.headerDone kind low high = some t) : Mild s t := by
  unfold State.headerDone at h
  extract_lets length at h
  split at h
  · rw [← Option.some.inj h]; exact mild_badHeader ..
  · split at h
    · rw [← Option.some.inj h]; exact mild_replayEnd ..
    · split at h
      · exact (mild_parserHead s).trans (mild_dispatch _ _ _ _ h)
      · rw [← Option.some.inj h]; exact mild_parser.2 (Mild.refl s)

theorem mild_headByte (s t : State) (b : Byte) (h : s.headByte b = some t) : Mild s t := by
  unfold State.headByte at h
  extract_lets pr held at h
  have hh : Mild s held := mild_parser.2 (Mild.refl s)
  split at h
  · rw [← Option.some.inj h]; exact hh
  · split at h
    · rw [← Option.some.inj h]; exact mild_badHeader ..
    · rw [← Option.some.inj h]; exact hh
  · split at h
    · split at h
      · rw [← Option.some.inj h]; exact hh
      · rw [← Option.some.inj h]; exact mild_badHeader ..
    · exact mild_headerDone _ _ _ _ _ h
  · split at h
    · rw [← Option.some.inj h]; exact mild_parserHead s
    · rw [← Option.some.inj h]; exact mild_badHeader ..

theorem mild_endLoad (s : State) (t : TableNo) (c : Word) : Mild s (s.endLoad t c) :=
  (mild_setTable.2 (Mild.refl s)).trans (calm_queueReport _ _ (by
    unfold loadReport; split <;> rfl)).mild

theorem mild_fourthUse (s : State) (kind a b c d : Byte) (n : Nat) :
    Mild s (s.fourthUse kind a b c d n).1 := by
  unfold State.fourthUse
  split
  · exact mild_refuse ..
  · split
    · exact mild_takeLoad ..
    · exact mild_takeData ..

theorem mild_bytesFollow (s : State) (use : BodyUse) (n : Nat) : Mild s (s.bytesFollow use n) := by
  unfold State.bytesFollow
  split
  · split
    · exact (mild_parserHead s).trans (mild_endLoad ..)
    · exact mild_parserHead s
  · exact mild_parser.2 (Mild.refl s)

theorem mild_fourthByte (s : State) (kind a b c d : Byte) (n : Nat) :
    Mild s (s.fourthByte kind a b c d n) :=
  (mild_fourthUse ..).trans (mild_bytesFollow ..)

theorem mild_storeByte (s : State) (t : TableNo) (b : Byte) : Mild s (s.storeByte t b) :=
  mild_setTable.2 (Mild.refl s)

theorem mild_bodyByte (s t : State) (b : Byte) (h : s.bodyByte b = some t) : Mild s t := by
  unfold State.bodyByte at h
  extract_lets p taken last counted body at h
  have hc (u : State) : Mild u (counted u) :=
    mild_ite (mild_parserHead u) (mild_parser.2 (Mild.refl u))
  split at h
  · rw [← Option.some.inj h]; exact hc s
  · extract_lets u at h
    have hu : Mild s u := mild_storeByte ..
    rw [← Option.some.inj h]
    exact mild_ite ((hu.trans (mild_parserHead _)).trans (mild_endLoad ..)) (hu.trans (hc _))
  · obtain ⟨u, hu, rfl⟩ := Option.map_eq_some_iff.1 h
    have h1 := (calm_placeByte _ _ _ _ hu).mild
    exact mild_ite (((h1.trans (mild_parserHead _)).trans (calm_placedOrder ..).mild).trans
      (mild_react _)) (h1.trans (hc _))
  · clear_value body
    split at h
    · split at h
      · rw [← Option.some.inj h]; exact mild_fourthByte ..
      · split at h
        · exact (mild_parserHead s).trans (mild_dispatch _ _ _ _ h)
        · rw [← Option.some.inj h]; exact mild_parser.2 (Mild.refl s)
    · split at h
      · exact (mild_parserHead s).trans (mild_dispatch _ _ _ _ h)
      · rw [← Option.some.inj h]; exact mild_parser.2 (Mild.refl s)

theorem mild_huntByte (s : State) (b : Byte) : Mild s (s.huntByte b) :=
  mild_ite (mild_parserHead s) (mild_parser.2 (Mild.refl s))

theorem mild_takeByte (s t : State) (b : Byte) (h : s.takeByte b = some t) : Mild s t := by
  unfold State.takeByte at h
  split at h
  · contradiction
  · split at h
    · exact mild_headByte _ _ _ h
    · exact mild_bodyByte _ _ _ h
    · rw [← Option.some.inj h]; exact mild_huntByte ..

theorem mild_replayByte (s : State) (b : Byte) : Mild s (s.replayByte b) := by
  unfold State.replayByte
  extract_lets at_
  split
  · exact Mild.refl s
  · rename_i t h
    have h1 : Mild s t := (mild_setBoot.2 (Mild.refl s)).trans (mild_takeByte _ _ _ h)
    exact mild_ite (h1.trans (mild_replayEnd ..)) h1

theorem mild_romByte (s : State) (b : Byte) : Mild s (s.romByte b) :=
  mild_ite
    (mild_ite ((mild_setBoot.2 (Mild.refl s)).trans (mild_replayEnd ..))
      (mild_ite ((mild_setBoot.2 (Mild.refl s)).trans (mild_replayEnd ..)) (mild_replayByte ..)))
    (Mild.refl s)

/-- The inbound FIFO set to a list that is no longer. -/
theorem mild_inFifo (s : State) (q : List Byte)
    (h : s.port.inFifo.length ≤ Config.streamFifoCap → q.length ≤ Config.streamFifoCap) :
    Mild s { s with port := { s.port with inFifo := q } } :=
  ⟨rfl, rfl, rfl, rfl, rfl, rfl, rfl, fun ⟨k1, ⟨a1, a2⟩, k3⟩ => ⟨k1, ⟨h a1, a2⟩, k3⟩⟩

theorem mild_pump (n : Nat) (s : State) : Mild s (State.pump n s) := by
  induction n generalizing s with
  | zero => exact Mild.refl s
  | succ n ih =>
    rw [State.pump]
    split
    · exact Mild.refl s
    · rename_i b rest hq
      split
      · rename_i t h
        refine ((mild_inFifo s rest ?_).trans (mild_takeByte _ _ _ h)).trans (ih t)
        rw [hq, List.length_cons]; omega
      · exact Mild.refl s

theorem mild_resume (s : State) (before : Option Level) : Mild s (s.resume before) :=
  mild_ite ((mild_pump ..).trans (mild_react _)) (Mild.refl s)

theorem mild_inbound (s : State) (b : Byte) : Mild s (s.inbound b) := by
  unfold State.inbound
  split
  · rename_i h
    have hl : s.port.inFifo.length < Config.streamFifoCap := by
      simp only [State.inboundReady, Bool.and_eq_true, decide_eq_true_eq] at h; exact h.2
    have h1 := (mild_inFifo s (s.port.inFifo ++ [b]) (by simp; omega)).trans
      (mild_pump Config.streamFifoCap _)
    exact ((mild_ite h1 (h1.trans (calm_takeWake ..).mild)).trans (mild_react _)).trans
      (mild_resume ..)
  · exact Mild.refl s

theorem mild_bring (s : State) (bs : List Byte) : Mild s (s.bring bs) :=
  mild_ite (mild_foldl _ mild_romByte _ s) (mild_foldl _ mild_inbound _ s)

theorem mild_order (s : State) (kind n : Nat) (body : List Byte) (taken : Option State)
    (h : ∀ t, taken = some t → Mild s t) : Mild s (s.order kind n body taken) := by
  unfold State.order
  split
  · exact h _ rfl
  · exact mild_bring ..

theorem mild_loadOrder (s : State) (slot kind : Byte) (check : Word) (n : Nat) :
    Mild s (s.loadOrder slot kind check n) :=
  (mild_parser.2 (Mild.refl s)).trans (mild_fourthByte ..)

theorem mild_storeBytes (s : State) (t : TableNo) (d : List Byte) : Mild s (s.storeBytes t d) :=
  mild_setTable.2 (Mild.refl s)

theorem mild_placeBytes (r : RouteNo) (bs : List Byte) (s t : State)
    (h : bs.foldlM (fun (u : State) b => u.placeByte r b) s = some t) : Mild s t := by
  induction bs generalizing s with
  | nil => rw [← Option.some.inj h]; exact Mild.refl s
  | cons b bs ih =>
    rw [List.foldlM_cons] at h
    obtain ⟨u, hu, h⟩ := Option.bind_eq_some_iff.1 h
    exact (calm_placeByte _ _ _ _ hu).mild.trans (ih u h)

theorem mild_dataWhole (s t : State) (slot flags : Byte) (lines : Word) (bs : List Byte)
    (h : s.dataWhole slot flags lines bs = some t) : Mild s t := by
  unfold State.dataWhole at h
  split at h
  · contradiction
  · have hd := mild_takeData s slot flags lines bs.length
    split at h
    · rename_i e
      rw [e] at hd
      rw [← Option.some.inj h]; exact hd
    · rename_i u r e
      rw [e] at hd
      obtain ⟨v, hv, rfl⟩ := Option.map_eq_some_iff.1 h
      exact ((hd.trans (mild_placeBytes r bs u v hv)).trans (calm_placedOrder ..).mild).trans
        (mild_react _)

theorem mild_replayImageEnd (s : State) (check : Word) : Mild s (s.replayImageEnd check) :=
  (mild_setBoot.2 (Mild.refl s)).trans (mild_replayEnd ..)

end Sys2Proof.Machine
end

