-- ==== Sys2Proof/Laws/AtHead.lean ====
section
/-! SUPPORT. An order that the parser meets at the start of a record, at RUN: what `atHead` says, the order taken at
once, and its reports queued without a withheld mark. -/

namespace Sys2Proof.Machine

theorem atHead_iff (s : State) : s.atHead = true ↔
    (s.boot.state = .ready ∧ s.power.level = some .run ∧ s.parser.source = .port
      ∧ s.parser.state = .head ∧ s.parser.header = [] ∧ s.port.inFifo = []) := by
  simp [State.atHead, and_assoc]

theorem order_atHead (s t : State) (kind n : Nat) (body : List Byte) (h : s.atHead = true) :
    s.order kind n body (some t) = t := by
  simp [State.order, h]

theorem queueReport_run (s : State) (x : Report) (h : s.power.level = some .run) :
    s.queueReport x = s.putReport x false := by
  simp [State.queueReport, State.dozing, h]

theorem queueReport_atHead (s : State) (x : Report) (h : s.atHead = true) :
    s.queueReport x = s.putReport x false :=
  queueReport_run s x ((atHead_iff s).1 h).2.1

/-- A refusal at the start of a record queues its report and changes nothing else (R177). -/
theorem refuse_atHead (s : State) (k : OrderKind) (c : Refused) (fields : List Byte)
    (h : s.atHead = true) : s.refuse k c fields = s.putReport (.refused k c fields) false :=
  queueReport_atHead s _ h

end Sys2Proof.Machine
end

