-- ==== Sys2Proof/Laws/Effects.lean ====
section
/-! SUPPORT. What the operations that many others end in can do, said once each: a report queued, a route's change
of state, a change of availability, and the writes of the directory. -/

namespace Sys2Proof.Machine

/-- A report that is no error report changes the Report Queue alone (R152, R182). -/
theorem queueReport_plain (s : State) (x : Report) (h : x.isError = false) :
    ∃ q, s.queueReport x = { s with reports := q } := by
  unfold State.queueReport State.putReport
  simp only [h]
  split
  · exact ⟨_, rfl⟩
  · exact ⟨_, rfl⟩

/-- A route's change of state changes that state and the Report Queue alone (R61). -/
theorem routeTo_changes (s : State) (r : RouteNo) (x : RouteState) :
    ∃ q, s.routeTo r x = { s.setRoute r { s.route r with state := x } with reports := q } := by
  unfold State.routeTo
  cases x <;> first | exact queueReport_plain _ _ rfl | exact ⟨_, rfl⟩

/-- A starved writer that asks again changes at most its route's state and the Report Queue (R16, R67). -/
theorem unstarve_changes (s : State) (slot : Option RouteNo) (starved : Bool) :
    ∃ q rs, s.unstarve slot starved = { s with reports := q, routes := rs }
      ∧ ∀ i : RouteNo, ∃ st, rs[i] = { s.route i with state := st } := by
  unfold State.unstarve
  split
  · rename_i r
    split
    · obtain ⟨q, h⟩ := routeTo_changes s r .running
      refine ⟨q, s.routes.set r { s.route r with state := .running }, h, fun i => ?_⟩
      by_cases e : (r : Nat) = i
      · exact ⟨.running, by have e' : r = i := Fin.ext e; subst e'; simp⟩
      · exact ⟨(s.route i).state, by simp [State.route, e]⟩
    · exact ⟨_, _, rfl, fun i => ⟨_, rfl⟩⟩
  · exact ⟨_, _, rfl, fun i => ⟨_, rfl⟩⟩

/-- A change of availability changes at most the alert, the Report Queue, the states of the routes, and that the
writers are starved (R16, R17). -/
theorem availChange_changes (s : State) (before : Nat) :
    ∃ q rs al a b, s.availChange before
        = { s with
            reports := q, routes := rs, pool := { s.pool with alert := al }
            coder := { s.coder with writer := { s.coder.writer with starved := a } }
            hostIn := { s.hostIn with writer := { s.hostIn.writer with starved := b } } }
      ∧ ∀ i : RouteNo, ∃ st, rs[i] = { s.route i with state := st } := by
  have alerts : ∃ q al, (if s.available < before ∧ s.setup.lowMark ≤ before
        ∧ s.available < s.setup.lowMark ∧ s.pool.alert = .none then
      { s with pool := { s.pool with alert := .low } }.queueReport .poolLow
    else if before < s.available ∧ s.setup.lowMark < s.available ∧ s.pool.alert ≠ .none then
      { s with pool := { s.pool with alert := .none } }.queueReport .poolOk
    else s) = { s with reports := q, pool := { s.pool with alert := al } } := by
    split
    · obtain ⟨q, h⟩ := queueReport_plain { s with pool := { s.pool with alert := .low } } .poolLow rfl
      exact ⟨q, _, h⟩
    · split
      · obtain ⟨q, h⟩ := queueReport_plain { s with pool := { s.pool with alert := .none } } .poolOk rfl
        exact ⟨q, _, h⟩
      · exact ⟨_, _, rfl⟩
  obtain ⟨q, al, h⟩ := alerts
  unfold State.availChange
  simp only [h]
  split
  · obtain ⟨q1, rs1, h1, k1⟩ := unstarve_changes
      { s with reports := q, pool := { s.pool with alert := al } } s.coder.slot s.coder.writer.starved
    simp only [h1]
    obtain ⟨q2, rs2, h2, k2⟩ := unstarve_changes
      { s with reports := q1, routes := rs1, pool := { s.pool with alert := al } } s.hostIn.slot
      s.hostIn.writer.starved
    simp only [h2]
    refine ⟨q2, rs2, al, false, false, rfl, fun i => ?_⟩
    obtain ⟨x, hx⟩ := k1 i
    obtain ⟨y, hy⟩ := k2 i
    exact ⟨y, by rw [hy]; simp only [State.route] at hx ⊢; rw [hx]⟩
  · exact ⟨_, _, _, _, _, rfl, fun i => ⟨_, rfl⟩⟩

/-- An image write of an entry joins the directory write queue, unless one waits unbegun (R2). -/
theorem queueImage_changes (s : State) (p : PageNo) :
    s.queueImage p = { s with pool := { s.pool with
      dirQueue := s.pool.dirQueue ++ if s.imageNeed p = 0 then [] else [.image p none false] } } := by
  unfold State.queueImage
  split <;> simp_all

/-- A chain that joins the free list, or the stranded blocks, changes the pool alone (R12, R20). -/
theorem splice_changes (s : State) (p : PageNo) (c : Chain) :
    ∃ pool, s.splice p c = { s with pool := pool }
      ∧ pool.state = s.pool.state ∧ pool.spare = s.pool.spare
      ∧ pool.freeCount + pool.stranded = s.pool.freeCount + s.pool.stranded + c.count := by
  unfold State.splice
  split
  · exact ⟨_, rfl, rfl, rfl, by simp; omega⟩
  · dsimp only
    split
    · split
      · exact ⟨_, rfl, rfl, rfl, by simp [State.queueLink]; omega⟩
      · exact ⟨_, rfl, rfl, rfl, by simp; omega⟩
    · exact ⟨_, rfl, rfl, rfl, by simp; omega⟩

end Sys2Proof.Machine
end

