-- ==== Sys2Proof/Laws/Memory.lean ====
section
/-! SUPPORT. The DRAM's list: what a read gives after a write, and that every operation keeps its form (R23,
R29, R36). -/

namespace Sys2Proof.Machine

/-! ## Reading after writing -/

theorem dramRead_dramWrite_same (m : List (Nat × StoreWord)) (a : Nat) (v : StoreWord) (lo : Nat)
    (h : dramWfFrom m lo = true) : dramRead (dramWrite m a v) a = v := by
  induction m generalizing lo with
  | nil => by_cases hv : v = 0#22 <;> simp [dramWrite, dramRead, hv]
  | cons x rest ih =>
    obtain ⟨b, w⟩ := x
    simp only [dramWfFrom, Bool.and_eq_true, decide_eq_true_eq] at h
    have gone : ∀ (n : Nat) (l : List (Nat × StoreWord)), dramWfFrom l n = true → a < n →
        dramRead l a = 0 := by
      intro n l
      induction l generalizing n with
      | nil => intros; rfl
      | cons y ys ihy =>
        obtain ⟨c, u⟩ := y
        intro hy hn
        simp only [dramWfFrom, Bool.and_eq_true, decide_eq_true_eq] at hy
        have : c ≠ a := by omega
        simp only [dramRead, this, if_false]
        exact ihy (c + 1) hy.2 (by omega)
    simp only [dramWrite]
    by_cases h1 : a < b
    · by_cases hv : v = 0
      · have : b ≠ a := by omega
        simp only [h1, hv, if_true, dramRead, this, if_false]
        exact gone (b + 1) rest h.2 (by omega)
      · have hv' : ¬ v = 0#22 := hv
        simp [h1, hv', dramRead]
    · by_cases h2 : a = b
      · subst h2
        by_cases hv : v = 0
        · simp only [lt_irrefl, hv, if_true, if_false]
          exact gone (a + 1) rest h.2 (by omega)
        · have hv' : ¬ v = 0#22 := hv
          simp [hv', dramRead]
      · have : b ≠ a := fun e => h2 e.symm
        simp only [h1, h2, if_false, dramRead, this]
        exact ih (b + 1) h.2

theorem dramRead_dramWrite_other (m : List (Nat × StoreWord)) (a c : Nat) (v : StoreWord)
    (h : c ≠ a) : dramRead (dramWrite m a v) c = dramRead m c := by
  induction m with
  | nil => by_cases hv : v = 0#22 <;> simp [dramWrite, dramRead, hv, h.symm]
  | cons x rest ih =>
    obtain ⟨b, w⟩ := x
    simp only [dramWrite]
    split
    · split <;> simp [dramRead, h.symm]
    · split
      · split
        · subst_vars; simp [dramRead, h.symm]
        · subst_vars; simp [dramRead, h.symm]
      · simp [dramRead, ih]

/-! ## The form is kept -/

theorem dramWfFrom_mono {m : List (Nat × StoreWord)} {lo lo' : Nat} (h : dramWfFrom m lo = true)
    (hl : lo' ≤ lo) : dramWfFrom m lo' = true := by
  cases m with
  | nil => rfl
  | cons x rest =>
    simp only [dramWfFrom, Bool.and_eq_true, decide_eq_true_eq] at h ⊢
    exact ⟨⟨by omega, h.1.2⟩, h.2⟩

theorem dramWrite_wfFrom (m : List (Nat × StoreWord)) (a : Nat) (v : StoreWord) (lo : Nat)
    (h : dramWfFrom m lo = true) (ha : lo ≤ a) : dramWfFrom (dramWrite m a v) lo = true := by
  induction m generalizing lo with
  | nil => by_cases hv : v = 0#22 <;> simp [dramWrite, dramWfFrom, hv, ha]
  | cons x rest ih =>
    obtain ⟨b, w⟩ := x
    have h' := h
    simp only [dramWfFrom, Bool.and_eq_true, decide_eq_true_eq] at h
    simp only [dramWrite]
    split
    · split
      · exact h'
      · rename_i hv
        simp only [dramWfFrom, Bool.and_eq_true, decide_eq_true_eq, bne_iff_ne]
        exact ⟨⟨ha, hv⟩, ⟨by omega, by simpa using h.1.2⟩, h.2⟩
    · split
      · split
        · exact dramWfFrom_mono h.2 (by omega)
        · rename_i hv
          subst_vars
          simp only [dramWfFrom, Bool.and_eq_true, decide_eq_true_eq, bne_iff_ne]
          exact ⟨⟨ha, hv⟩, h.2⟩
      · simp only [dramWfFrom, Bool.and_eq_true, decide_eq_true_eq]
        exact ⟨h.1, ih (b + 1) h.2 (by omega)⟩

theorem dramWrite_wf {m : List (Nat × StoreWord)} (a : Nat) (v : StoreWord)
    (h : dramWf m = true) : dramWf (dramWrite m a v) = true :=
  dramWrite_wfFrom m a v 0 h (Nat.zero_le a)

theorem dramWriteWords_wf {m : List (Nat × StoreWord)} (a : Nat) (ws : List Word)
    (h : dramWf m = true) : dramWf (dramWriteWords m a ws) = true := by
  induction ws generalizing m a with
  | nil => exact h
  | cons w ws ih => exact ih (a + 1) (dramWrite_wf a _ h)

theorem dramFlip_wf {m : List (Nat × StoreWord)} (a : Nat) (fs : List StoreWord)
    (h : dramWf m = true) : dramWf (dramFlip m a fs) = true := by
  induction fs generalizing m a with
  | nil => exact h
  | cons f fs ih => exact ih (a + 1) (dramWrite_wf a _ h)

theorem scrubWords_wf {m : List (Nat × StoreWord)} (a : Nat) (xs : List ReadWord)
    (h : dramWf m = true) : dramWf (scrubWords m a xs) = true := by
  induction xs generalizing m a with
  | nil => exact h
  | cons x xs ih =>
    simp only [scrubWords]
    split
    · exact ih (a + 1) (dramWrite_wf a _ h)
    · exact ih (a + 1) h

theorem dramWriteWords_other (ws : List Word) (m : List (Nat × StoreWord)) (a c : Nat) 
    (h : c < a ∨ a + ws.length ≤ c) :
    dramRead (dramWriteWords m a ws) c = dramRead m c := by
  induction ws generalizing m a with
  | nil => rfl
  | cons w ws ih =>
    simp only [List.length_cons] at h
    simp only [dramWriteWords]
    rw [ih _ _ (by omega), dramRead_dramWrite_other _ _ _ _ (by omega)]

theorem dramFlip_other (ws : List StoreWord) (m : List (Nat × StoreWord)) (a c : Nat) 
    (h : c < a ∨ a + ws.length ≤ c) :
    dramRead (dramFlip m a ws) c = dramRead m c := by
  induction ws generalizing m a with
  | nil => rfl
  | cons w ws ih =>
    simp only [List.length_cons] at h
    simp only [dramFlip]
    rw [ih _ _ (by omega), dramRead_dramWrite_other _ _ _ _ (by omega)]

theorem scrubWords_other (ws : List ReadWord) (m : List (Nat × StoreWord)) (a c : Nat) 
    (h : c < a ∨ a + ws.length ≤ c) :
    dramRead (scrubWords m a ws) c = dramRead m c := by
  induction ws generalizing m a with
  | nil => rfl
  | cons w ws ih =>
    simp only [List.length_cons] at h
    simp only [scrubWords]
    rw [ih _ _ (by omega)]
    split
    · rw [dramRead_dramWrite_other _ _ _ _ (by omega)]
    · rfl

theorem dramWriteWords_same (ws : List Word) (m : List (Nat × StoreWord)) (a : Nat) 
    (hm : dramWf m = true) (i : Nat) (h : i < ws.length) :
    dramRead (dramWriteWords m a ws) (a + i) = encodeWord ws[i] := by
  induction ws generalizing m a i with
  | nil => simp at h
  | cons w ws ih =>
    simp only [dramWriteWords]
    cases i with
    | zero =>
      rw [dramWriteWords_other _ _ _ _ (by omega)]
      exact dramRead_dramWrite_same _ _ _ 0 hm
    | succ i =>
      have := ih (dramWrite m a (encodeWord w)) (a+1) (dramWrite_wf _ _ hm) i (by simpa using h)
      simpa [Nat.add_assoc, Nat.add_comm 1] using this

theorem reset_dramWf : dramWf State.reset.store.dram = true := rfl

end Sys2Proof.Machine
end

