-- ==== Sys2Proof/Laws/FrameCommands.lean ====
section
/-! SUPPORT. What each command leaves as it is: the orders by `Mild`, the events by `Leaves`, the end of a burst by
`endBurst_boots`. -/

namespace Sys2Proof.Machine

/-- What an event leaves as it is, `p` being the inputs' levels after it: the queue of commands, the SETUP values, the
geometry, the DRAM, the inbound FIFO, the tables but for their bind counts; the clock does not go back; the form and
the capacities are kept. -/
structure Leaves (p : Pins) (s t : State) : Prop where
  pending : t.pending = s.pending
  now : s.now ≤ t.now
  pins : t.pins = p
  setup : t.setup = s.setup
  geometry : t.store.geometry = s.store.geometry
  dram : t.store.dram = s.store.dram
  inFifo : t.port.inFifo = s.port.inFifo
  tables : ∀ i, (t.table i).unbound = (s.table i).unbound
  lite : s.Lite → t.Lite

/-- What an event leaves as it is though the parser resumes in it (R149). -/
structure Keeps (p : Pins) (s t : State) : Prop where
  pending : t.pending = s.pending
  now : s.now ≤ t.now
  pins : t.pins = p
  dram : t.store.dram = s.store.dram
  lite : s.Lite → t.Lite

theorem Leaves.keeps {p : Pins} {s t : State} (h : Leaves p s t) : Keeps p s t :=
  ⟨h.pending, h.now, h.pins, h.dram, h.lite⟩

theorem Keeps.mild {p : Pins} {s u t : State} (h : Keeps p s u) (k : Mild u t) : Keeps p s t :=
  ⟨k.pending.trans h.pending, h.now.trans k.now.ge, k.pins.trans h.pins, k.dram.trans h.dram,
    fun l => k.lite (h.lite l)⟩

/-- The parser resumes at the end of a full wake alone, and where a byte waits (R149). -/
theorem resume_still (s : State) (before : Option Level)
    (h : s.port.inFifo = [] ∨ wakes before = false) : s.resume before = s := by
  unfold State.resume
  rcases h with h | h <;> simp [h]

/-- An event's state, with the parser resumed where a full wake reaches RUN in it. -/
def Resumes (p : Pins) (s t : State) : Prop :=
  ∃ u, Leaves p s u ∧ (t = u ∨ t = u.resume s.power.level)

theorem Leaves.ends {p : Pins} {s t : State} (h : Leaves p s t) : Resumes p s t := ⟨t, h, .inl rfl⟩

theorem Leaves.resumes {p : Pins} {s u : State} (h : Leaves p s u) :
    Resumes p s (u.resume s.power.level) := ⟨u, h, .inr rfl⟩

theorem Resumes.keeps {p : Pins} {s t : State} (h : Resumes p s t) : Keeps p s t := by
  obtain ⟨u, h, rfl | rfl⟩ := h
  · exact h.keeps
  · exact h.keeps.mild (mild_resume ..)

/-- With no byte in the inbound FIFO, or at a level that no wake leads to RUN, nothing resumes. -/
theorem Resumes.leaves {p : Pins} {s t : State} (h : Resumes p s t)
    (hq : s.port.inFifo = [] ∨ wakes s.power.level = false) : Leaves p s t := by
  obtain ⟨u, h, rfl | rfl⟩ := h
  · exact h
  · rwa [resume_still u _ (hq.imp (fun e => h.inFifo.trans e) id)]

theorem resumes_ite {p : Pins} {s a b : State} {c : Prop} [Decidable c] (ha : c → Resumes p s a)
    (hb : ¬ c → Resumes p s b) : Resumes p s (if c then a else b) := by
  split
  · exact ha ‹_›
  · exact hb ‹_›

theorem Boots.leaves {s t : State} (h : Boots s t) : Leaves s.pins s t :=
  ⟨h.pending, h.now.ge, h.pins, h.setup, h.geometry, h.dram, h.inFifo, h.tables, h.lite⟩

theorem Calm.leaves {s t : State} (h : Calm s t) : Leaves s.pins s t := h.boots.leaves

theorem Leaves.refl (s : State) : Leaves s.pins s s := (Boots.refl s).leaves

theorem Leaves.trans {p q : Pins} {s u t : State} (h : Leaves p s u) (k : Leaves q u t) :
    Leaves q s t :=
  ⟨k.pending.trans h.pending, h.now.trans k.now, k.pins, k.setup.trans h.setup,
    k.geometry.trans h.geometry, k.dram.trans h.dram, k.inFifo.trans h.inFifo,
    fun i => (k.tables i).trans (h.tables i), fun l => k.lite (h.lite l)⟩

theorem Leaves.boots {p : Pins} {s u t : State} (h : Leaves p s u) (k : Boots u t) :
    Leaves p s t := by
  have := h.trans k.leaves
  rwa [h.pins] at this

theorem Leaves.calm {p : Pins} {s u t : State} (h : Leaves p s u) (k : Calm u t) : Leaves p s t :=
  h.boots k.boots

theorem leaves_reach (s : State) (d : Nat) : Leaves s.pins s (s.reach d) :=
  ⟨rfl, Nat.le_max_left .., rfl, rfl, rfl, rfl, rfl, fun _ => rfl, id⟩

theorem leaves_pins (s : State) (p : Pins) : Leaves p s { s with pins := p } :=
  ⟨rfl, Nat.le_refl _, rfl, rfl, rfl, rfl, rfl, fun _ => rfl, id⟩

theorem leaves_head (s : State) (h : Head) : Leaves s.pins s { s with head := h } :=
  ⟨rfl, Nat.le_refl _, rfl, rfl, rfl, rfl, rfl, fun _ => rfl, id⟩

theorem leaves_scanner (s : State) (c : Scanner) : Leaves s.pins s (s.setScanner c) :=
  (calm_setScanner.2 (Calm.refl s)).leaves

/-! ## Orders -/

theorem mild_execSetup (b : SetupBody) (s t : State) (h : execSetup b s = .next t) : Mild s t := by
  cases h; exact mild_order _ _ _ _ _ fun u hu => by cases hu; exact mild_takeSetup ..

theorem mild_execTableLoad (slot kind : Byte) (c : Word) (n : Nat) (s t : State) (h : execTableLoad slot kind c n s = .next t) : Mild s t := by
  cases h
  refine mild_order _ _ _ _ _ fun u hu => ?_
  split at hu
  · cases hu; exact mild_loadOrder ..
  · contradiction

theorem mild_execTableLoadEnd (ds : List Byte) (s t : State) (h : execTableLoadEnd ds s = .next t) : Mild s t := by
  unfold execTableLoadEnd at h
  split at h
  · cases h; exact ((mild_storeBytes ..).trans (mild_parserHead _)).trans (mild_endLoad ..)
  · cases h; exact mild_bring ..

theorem mild_execTableDrop (b : Byte) (s t : State) (h : execTableDrop b s = .next t) : Mild s t := by
  cases h; exact mild_order _ _ _ _ _ fun u hu => by cases hu; exact mild_takeTableDrop ..

theorem mild_execPageDrop (b : Byte) (s t : State) (h : execPageDrop b s = .next t) : Mild s t := by
  cases h; exact mild_order _ _ _ _ _ fun u hu => mild_takePageDrop _ _ _ hu

theorem mild_execRouteStart (b : StartBody) (s t : State) (h : execRouteStart b s = .next t) : Mild s t := by
  cases h; exact mild_order _ _ _ _ _ fun u hu => mild_takeStart _ _ _ hu

theorem mild_execRouteHaltFinish (b : Byte) (s t : State) (h : execRouteHaltFinish b s = .next t) : Mild s t := by
  cases h; exact mild_order _ _ _ _ _ fun u hu => by cases hu; exact mild_takeHalt ..

theorem mild_execRouteHaltNow (b : Byte) (s t : State) (h : execRouteHaltNow b s = .next t) : Mild s t := by
  cases h; exact mild_order _ _ _ _ _ fun u hu => by cases hu; exact mild_takeHalt ..

theorem mild_execData (slot flags : Byte) (l : Word) (bs : List Byte) (s t : State) (h : execData slot flags l bs s = .next t) : Mild s t := by
  cases h; exact mild_order _ _ _ _ _ fun u hu => mild_dataWhole _ _ _ _ _ _ hu

theorem mild_execMove (b : MoveBody) (s t : State) (h : execMove b s = .next t) : Mild s t := by
  cases h; exact mild_order _ _ _ _ _ fun u hu => by cases hu; exact mild_takeMove ..

theorem mild_execCut (s t : State) (h : execCut s = .next t) : Mild s t := by
  cases h; exact mild_order _ _ _ _ _ fun u hu => by cases hu; exact mild_takeCut ..

theorem mild_execLevelRun (b : Byte) (s t : State) (h : execLevelRun b s = .next t) : Mild s t := by
  cases h; exact mild_order _ _ _ _ _ fun u hu => by cases hu; exact mild_takeLevel ..

theorem mild_execLevelDoze (b : Byte) (s t : State) (h : execLevelDoze b s = .next t) : Mild s t := by
  cases h; exact mild_order _ _ _ _ _ fun u hu => by cases hu; exact mild_takeLevel ..

theorem mild_execQueryPage (b : Byte) (s t : State) (h : execQueryPage b s = .next t) : Mild s t := by
  cases h; exact mild_order _ _ _ _ _ fun u hu => mild_takeQuery _ _ _ _ hu

theorem mild_execQueryRoute (b : Byte) (s t : State) (h : execQueryRoute b s = .next t) : Mild s t := by
  cases h; exact mild_order _ _ _ _ _ fun u hu => mild_takeQuery _ _ _ _ hu

theorem mild_execQueryPool (b : Byte) (s t : State) (h : execQueryPool b s = .next t) : Mild s t := by
  cases h; exact mild_order _ _ _ _ _ fun u hu => mild_takeQuery _ _ _ _ hu

theorem mild_execQueryLog (b : Byte) (s t : State) (h : execQueryLog b s = .next t) : Mild s t := by
  cases h; exact mild_order _ _ _ _ _ fun u hu => mild_takeQuery _ _ _ _ hu

theorem mild_execQueryTable (b : Byte) (s t : State) (h : execQueryTable b s = .next t) : Mild s t := by
  cases h; exact mild_order _ _ _ _ _ fun u hu => mild_takeQuery _ _ _ _ hu

theorem mild_execQueryLevel (b : Byte) (s t : State) (h : execQueryLevel b s = .next t) : Mild s t := by
  cases h; exact mild_order _ _ _ _ _ fun u hu => mild_takeQuery _ _ _ _ hu

theorem mild_execMark (v : Word) (s t : State) (h : execMark v s = .next t) : Mild s t := by
  cases h; exact mild_order _ _ _ _ _ fun u hu => mild_takeMark _ _ _ hu

theorem mild_execClearScanner (s t : State) (h : execClearScanner s = .next t) : Mild s t := by
  cases h; exact mild_order _ _ _ _ _ fun u hu => by cases hu; exact mild_takeClear ..

theorem mild_execClearPrinter (s t : State) (h : execClearPrinter s = .next t) : Mild s t := by
  cases h; exact mild_order _ _ _ _ _ fun u hu => by cases hu; exact mild_takeClear ..

theorem mild_execClearPool (s t : State) (h : execClearPool s = .next t) : Mild s t := by
  cases h; exact mild_order _ _ _ _ _ fun u hu => by cases hu; exact mild_takeClear ..

theorem mild_execImageEnd (c : Word) (s t : State) (h : execImageEnd c s = .next t) : Mild s t := by
  unfold execImageEnd at h
  split at h
  · cases h; exact mild_replayImageEnd ..
  · cases h; exact mild_order _ _ _ _ _ fun u hu => by cases hu; exact mild_refuse ..

theorem mild_execResync (s t : State) (h : execResync s = .next t) : Mild s t := by
  cases h; exact mild_ite (Mild.refl s) (mild_bring ..)

theorem mild_execMalformed (k : Byte) (n : Word) (s t : State) (h : execMalformed k n s = .next t) : Mild s t := by
  cases h; exact mild_ite (mild_badHeader ..) (mild_bring ..)

theorem mild_execHunt (b : Byte) (s t : State) (h : execHunt b s = .next t) : Mild s t := by
  cases h; exact mild_ite (mild_huntByte ..) (Mild.refl s)

theorem mild_execInboundByte (b : Byte) (s t : State) (h : execInboundByte b s = .next t) : Mild s t := by
  cases h; exact mild_inbound ..

theorem mild_execStallEnd (s t : State) (h : execStallEnd s = .next t) : Mild s t := by
  rw [← Host.Outcome.next.inj h]
  exact (mild_pump ..).trans (mild_react _)

theorem mild_execRomByte (b : Byte) (s t : State) (h : execRomByte b s = .next t) : Mild s t := by
  cases h; exact mild_romByte ..

/-- Every command that brings bytes to the Order Parser, or frees it, leaves the parts of `Mild`. -/
theorem mild_exec (c : Instr) (s t : State) (hc : parses c = true) (h : exec c s = .next t) :
    Mild s t := by
  cases c
  case setup => exact mild_execSetup _ s t h
  case tableLoad => exact mild_execTableLoad _ _ _ _ s t h
  case tableLoadEnd => exact mild_execTableLoadEnd _ s t h
  case tableDrop => exact mild_execTableDrop _ s t h
  case pageDrop => exact mild_execPageDrop _ s t h
  case routeStart => exact mild_execRouteStart _ s t h
  case routeHaltFinish => exact mild_execRouteHaltFinish _ s t h
  case routeHaltNow => exact mild_execRouteHaltNow _ s t h
  case data => exact mild_execData _ _ _ _ s t h
  case move => exact mild_execMove _ s t h
  case cut => exact mild_execCut s t h
  case levelRun => exact mild_execLevelRun _ s t h
  case levelDoze => exact mild_execLevelDoze _ s t h
  case queryPage => exact mild_execQueryPage _ s t h
  case queryRoute => exact mild_execQueryRoute _ s t h
  case queryPool => exact mild_execQueryPool _ s t h
  case queryLog => exact mild_execQueryLog _ s t h
  case queryTable => exact mild_execQueryTable _ s t h
  case queryLevel => exact mild_execQueryLevel _ s t h
  case mark => exact mild_execMark _ s t h
  case clearScanner => exact mild_execClearScanner s t h
  case clearPrinter => exact mild_execClearPrinter s t h
  case clearPool => exact mild_execClearPool s t h
  case imageEnd => exact mild_execImageEnd _ s t h
  case resync => exact mild_execResync s t h
  case malformed => exact mild_execMalformed _ _ s t h
  case hunt => exact mild_execHunt _ s t h
  case inboundByte => exact mild_execInboundByte _ s t h
  case stallEnd => exact mild_execStallEnd s t h
  case romByte => exact mild_execRomByte _ s t h
  all_goals cases hc

/-! ## The end of a burst -/

theorem grantNext_cases (s t : State) (h : s.grantNext = some t) :
    t = s ∨ ∃ b u, s.nextBurst = (some b, u) ∧ t = u.granted b := by
  unfold State.grantNext at h
  split at h
  · exact .inl (Option.some.inj h).symm
  · split at h
    · rename_i b u e
      split at h
      · exact .inr ⟨b, u, e, (Option.some.inj h).symm⟩
      · contradiction
    · exact .inl (Option.some.inj h).symm

theorem calm_nextBurst (s : State) : Calm s s.nextBurst.2 := by
  unfold State.nextBurst
  split
  · exact Calm.refl s
  · split
    · exact Calm.refl s
    · exact calm_choose ..
  · exact Calm.refl s
  · exact Calm.refl s
  · exact Calm.refl s

theorem calm_grantNext (s t : State) (h : s.grantNext = some t) : Calm s t := by
  obtain rfl | ⟨b, u, e, rfl⟩ := grantNext_cases s t h
  · exact Calm.refl _
  · have := calm_nextBurst s
    rw [e] at this
    exact this.trans (calm_granted ..)

/-- What the writes of a burst leave in the DRAM. -/
def burstMem (k : BurstKind) (scrubPos : Nat) (m : List (Nat × StoreWord)) (xs : List ReadWord) :
    List (Nat × StoreWord) :=
  match k with
  | .dirLink blk v => dramWriteWords m (Config.linkBase + blk) [v]
  | .dirImage p half ws => dramWriteWords m (Config.imageBase + 16 * p.val + (if half then 8 else 0)) ws
  | .header _ ws => dramWriteWords m 0 ws
  | .bootWrite a ws | .coderWrite a ws | .lineWrite a ws _ | .hostWrite a ws => dramWriteWords m a ws
  | .scrub => scrubWords m scrubPos xs
  | _ => m

theorem burstStores_eq (s : State) (k : BurstKind) (xs : List ReadWord) :
    s.burstStores k xs = s.setDram (burstMem k s.store.scrubPos s.store.dram xs) := by
  cases k <;> rfl

theorem burstMem_wf {m : List (Nat × StoreWord)} (k : BurstKind) (p : Nat) (xs : List ReadWord)
    (h : dramWf m = true) : dramWf (burstMem k p m xs) = true := by
  cases k <;>
    first
      | exact h
      | exact dramWriteWords_wf _ _ h
      | exact scrubWords_wf _ _ h

theorem offer_scrubPos (s : State) (c : LogClient) (a : Nat) (x : ReadWord) :
    (s.offer c a x).store.scrubPos = s.store.scrubPos := by
  unfold State.offer
  split
  · rfl
  · split
    · exact (calm_queueReport _ _ rfl).scrubPos
    · rfl

theorem offerAll_scrubPos (s : State) (c : Option LogClient) (a : Nat) (xs : List ReadWord) :
    (s.offerAll c a xs).store.scrubPos = s.store.scrubPos := by
  unfold State.offerAll
  split
  · generalize (xs.mapIdx fun i x => (a + i, x)) = l
    induction l generalizing s with
    | nil => rfl
    | cons x l ih => exact (ih _).trans (offer_scrubPos ..)
  · rfl

theorem boots_setDram {s t : State} (h : Boots s t) (m : List (Nat × StoreWord)) :
    Boots (s.setDram m) (t.setDram m) :=
  ⟨⟨h.pending, h.now, h.pins, h.theta, h.volts, h.lastRead, rfl, h.lite⟩, h.setup, h.geometry,
    h.tables, h.inFifo⟩

/-- The DRAM as a burst reads it: the bit errors that have struck stand in it. -/
def flippedDram (s : State) (b : Burst) (flips : List StoreWord) : List (Nat × StoreWord) :=
  let (a, n) := b.kind.span s.store.scrubPos
  if b.kind.logClient.isSome then dramFlip s.store.dram a (flips.take n) else s.store.dram

/-- What a burst reads. -/
def burstReads (s : State) (b : Burst) (flips : List StoreWord) : List ReadWord :=
  let (a, n) := b.kind.span s.store.scrubPos
  if b.kind.logClient.isSome then dramReadWords (flippedDram s b flips) a n else []

/-- The end of a burst leaves the parts of `Boots`, but for the DRAM, which holds what the burst wrote. -/
theorem boots_endBurst (s : State) (b : Burst) (flips : List StoreWord) :
    Boots
      (s.setDram (burstMem b.kind s.store.scrubPos (flippedDram s b flips) (burstReads s b flips)))
      (s.endBurst b flips) := by
  unfold State.endBurst burstReads flippedDram
  generalize b.kind.span s.store.scrubPos = z
  obtain ⟨a, n⟩ := z
  dsimp only
  have key : ∀ (u : State) (xs : List ReadWord), u.store.scrubPos = s.store.scrubPos →
      Boots (u.setDram (burstMem b.kind s.store.scrubPos u.store.dram xs))
        ((u.offerAll b.kind.logClient a xs).burstStores b.kind xs) := fun u xs hu => by
    have h := boots_offerAll u b.kind.logClient a xs
    rw [burstStores_eq, h.dram, offerAll_scrubPos, hu]
    exact boots_setDram h _
  have free (u : State) : Boots u { u with store := { u.store with burst := none } } := by
    simp only [↓boots_mk, Boots.refl]
  by_cases hr : b.kind.logClient.isSome = true
  · simp only [hr, if_true]
    exact ((key (s.setDram (dramFlip s.store.dram a (flips.take n))) _ rfl).trans (free _)).trans (boots_deliver ..)
  · simp only [hr, if_false, Bool.false_eq_true]
    exact ((key s _ rfl).trans (free _)).trans (boots_deliver ..)

theorem endBurst_dram (s : State) (b : Burst) (flips : List StoreWord) :
    (s.endBurst b flips).store.dram
      = burstMem b.kind s.store.scrubPos (flippedDram s b flips) (burstReads s b flips) :=
  (boots_endBurst s b flips).dram

theorem endBurst_dramWf (s : State) (b : Burst) (flips : List StoreWord)
    (h : dramWf s.store.dram = true) : dramWf (s.endBurst b flips).store.dram = true := by
  rw [endBurst_dram]
  refine burstMem_wf _ _ _ ?_
  unfold flippedDram
  dsimp only
  split
  · exact dramFlip_wf _ _ h
  · exact h

theorem burstEnd_cases (flips : List StoreWord) (s t : State) (h : execBurstEnd flips s = .next t) :
    t = s ∨ ∃ b, s.store.burst = some b ∧ ∃ u, Calm (s.endBurst b flips) u
      ∧ Calm (u.resume s.power.level) t := by
  unfold execBurstEnd at h
  split at h
  · exact .inl (Host.Outcome.next.inj h).symm
  · rename_i b hb
    split at h
    · rename_i u hu
      rw [← Host.Outcome.next.inj h]
      exact .inr ⟨b, hb, _, calm_react _, calm_grantNext _ _ hu⟩
    · cases h

/-! ## Events: the parts -/

theorem calm_codeLine (s : State) (r : RouteNo) (last : Bits) (h : last.length ≤ s.coder.space) :
    Calm s (s.codeLine r last) := by
  unfold State.codeLine
  extract_lets c x lines s1 w
  refine Calm.trans ?_ (calm_roomRaised _)
  have h1 : Calm s s1 := calm_setRoute s r _ fun hc => by
    simp only [x, lines, Route.countsWf, sat16] at hc ⊢; omega
  refine h1.trans ?_
  refine (calm_coder s1 { c with state := .waiting, codes := [], writer := w } fun hq ha =>
    Coder.append_caps s.coder last hq ha h).trans ?_
  exact calm_setScanner.2 (Calm.refl _)

theorem calm_handLine (s : State) (r : RouteNo) (d : PrintDecoder) (good : Bool) :
    Calm s (s.handLine r d good) := by
  unfold State.handLine
  extract_lets line e t
  have h : Calm s t := by
    refine Calm.trans ?_ (calm_countLine ..)
    simp only [↓calm_mk, Calm.refl]
  refine calm_ite ?_ ?_
  · exact (h.trans (calm_enterRing ..)).trans (calm_pfReexamine _)
  · simpa only [↓calm_mk] using h

theorem calm_printEnded (s : State) : Calm s s.printEnded := by
  unfold State.printEnded
  split
  · refine Calm.trans ?_ (calm_react _)
    simp only [↓calm_mk, Calm.refl]
  · exact Calm.refl s

theorem calm_checkEnded (s : State) : Calm s s.checkEnded := by
  unfold State.checkEnded
  split
  · refine calm_ite ?_ (Calm.refl s)
    split
    · rename_i t h
      exact (calm_txMove _ _ _ _ h).trans (calm_react _)
    · exact Calm.refl s
  · exact Calm.refl s

theorem calm_rxBits (s : State) (bits : Bits) : Calm s (bits.foldl State.rxBit s).react :=
  (calm_foldl _ calm_rxBit _ s).trans (calm_react _)

theorem calm_ringFree (t : State) : Calm t { t with head := { t.head with capturing := false } } := by
  simp only [↓calm_mk, Calm.refl]

theorem calm_capture (s : State) (r : RouteNo) (xs : List Byte) : Calm s (s.capture r xs) := by
  unfold State.capture
  extract_lets d c t
  have h : Calm s t := calm_setScanner.2 (Calm.refl s)
  refine calm_ite ?_ (calm_setScanner.2 h)
  refine Calm.trans ?_ (calm_pfReexamine _)
  refine Calm.trans ?_ (calm_enterRing ..)
  exact h.trans (calm_ringFree t)

theorem calm_strobeExpiry (s : State) (b : Burn) : Calm s (s.strobeExpiry b) := by
  unfold State.strobeExpiry
  extract_lets t
  have h : Calm s t := calm_strobeNext ..
  split
  · exact calm_ite (h.trans (calm_burnComplete _)) h
  · exact h

theorem calm_stopMechanics (s : State) (report : Bool) : Calm s (s.stopMechanics report) :=
  (((calm_dropMotor ..).trans (calm_dropMotor ..)).trans (calm_stopCut ..)).trans (calm_supplyOff _)

theorem calm_failMechanics (s : State) : Calm s s.failMechanics :=
  calm_foldl _ (fun _ _ => calm_ite (calm_failRoute ..) (Calm.refl _)) _ s

theorem leaves_takeSample (s : State) (v : Byte) : Leaves s.pins s (s.takeSample v) := by
  unfold State.takeSample
  extract_lets next
  split
  · refine Leaves.calm ?_ (calm_pfReexamine _)
    exact ⟨rfl, Nat.le_refl _, rfl, rfl, rfl, rfl, rfl, fun _ => rfl, id⟩
  · exact ⟨rfl, Nat.le_refl _, rfl, rfl, rfl, rfl, rfl, fun _ => rfl, id⟩

theorem leaves_docInTo (s : State) (l : Bool) : Leaves { s.pins with docIn := l } s (s.docInTo l) := by
  unfold State.docInTo
  extract_lets p t u
  have h : Leaves _ s t := leaves_pins s { s.pins with docIn := l }
  have k : Calm t u := calm_queueReport t _ rfl
  split
  · exact (h.calm k).calm ((calm_ite (calm_takeWake ..) (Calm.refl _)).trans (calm_react _))
  · exact h

theorem calm_docEdge (s : State) (l : Bool) :
    Calm s (match s.engines.scanner with
      | some r => if (s.route r).live then (if l then s.edgeOn r else s.edgeOff r) else s
      | none => s) := by
  split
  · exact calm_ite (calm_ite (calm_edgeOn ..) (calm_edgeOff ..)) (Calm.refl s)
  · exact Calm.refl s

theorem leaves_docEdgeTo (s : State) (l : Bool) :
    Leaves { s.pins with docEdge := l } s (s.docEdgeTo l) := by
  unfold State.docEdgeTo
  extract_lets p t u w
  have h : Leaves _ s t := leaves_pins s { s.pins with docEdge := l }
  have k : Calm t u := calm_queueReport t _ rfl
  split
  · exact (h.calm k).calm ((calm_docEdge u l).trans (calm_react _))
  · exact h

theorem leaves_paperTo (s : State) (l : Bool) :
    Leaves { s.pins with paperOut := !l } s (s.paperTo l) := by
  unfold State.paperTo
  extract_lets p t u w
  have h : Leaves _ s t := leaves_pins s { s.pins with paperOut := !l }
  have k : Calm t u := calm_queueReport t _ rfl
  split
  · exact (h.calm k).calm ((calm_ite (calm_pfReexamine _)
      ((calm_pfPaperOut _).trans (calm_foldl _ (fun _ _ => calm_failRoute ..) _ _))).trans
        (calm_react _))
  · exact h

theorem leaves_homeTo (s : State) (l : Bool) :
    Leaves { s.pins with home := l } s (s.homeTo l) := by
  unfold State.homeTo
  extract_lets p t
  have h : Leaves _ s t := leaves_pins s { s.pins with home := l }
  split
  · split
    · exact h
    · exact h.calm (by simp only [↓calm_mk, Calm.refl])
  · split
    · exact h.calm ((calm_cutDone _).trans (calm_react _))
    · exact h
  · exact h

theorem leaves_lineValidTo (s : State) (l : Bool) :
    Leaves { s.pins with lineValid := l } s (s.lineValidTo l) := by
  unfold State.lineValidTo
  extract_lets p t
  have h : Leaves _ s t := leaves_pins s { s.pins with lineValid := l }
  split
  · split
    · exact h.calm (calm_carrierWatch ..)
    · exact h
  · exact h

theorem calm_faults (t : State) :
    Calm t { t with engines := { t.engines with scannerFault := true, printerFault := true } } := by
  simp only [↓calm_mk, Calm.refl]

theorem leaves_coverOpens (s : State) :
    Leaves { s.pins with coverOpen := true } s s.coverOpens := by
  unfold State.coverOpens
  extract_lets p t u e w
  have h : Leaves _ s t := leaves_pins s { s.pins with coverOpen := true }
  have k : Calm t u := (calm_stopMechanics ..).trans (calm_failMechanics _)
  split
  · have f : Calm t w := k.trans (calm_faults u)
    exact h.calm (f.trans
      (((calm_queueReport w _ rfl).trans (calm_takeWake ..)).trans (calm_react _)))
  · exact h

theorem leaves_coverCloses (s : State) :
    Leaves { s.pins with coverOpen := false } s s.coverCloses := by
  unfold State.coverCloses
  extract_lets p t u w
  have h : Leaves _ s t := leaves_pins s { s.pins with coverOpen := false }
  split
  · refine h.calm ((Calm.trans ?_ (calm_takeWake ..)).trans (calm_react _))
    exact (calm_queueReport _ _ rfl).trans (calm_ite (calm_supplyOn _) (Calm.refl _))
  · exact h

theorem boots_beginRetain (s : State) : Boots s s.beginRetain := by
  unfold State.beginRetain
  extract_lets p a b c d
  have h1 : Boots s a := by simp only [a, ↓boots_mk, Boots.refl]
  have h2 : Boots s b :=
    h1.trans ((calm_converterOn _).trans (calm_clearWithheld _)).boots
  have h3 : Boots s c := (boots_setBoot.2 h2).trans (calm_stopMechanics ..).boots
  have h4 : Boots s d := h3.trans (calm_foldl _ calm_haltRoute _ c).boots
  exact h4.trans (((calm_withdrawOrdinary _).trans (calm_queueReport _ _ rfl)).trans (calm_react _)).boots

theorem boots_retainDrained (s : State) : Boots s s.retainDrained := by
  unfold State.retainDrained
  refine boots_ite ?_ ?_
  · refine Boots.trans ?_ (boots_placeRetain _)
    simp only [↓boots_mk, Boots.refl]
  · simp only [↓boots_mk, Boots.refl]

theorem boots_memoryStart (s : State) : Boots s s.memoryStart := by
  unfold State.memoryStart
  extract_lets b t
  have h : Boots s t := boots_setBoot.2 (Boots.refl s)
  exact boots_ite (h.trans (calm_storeWithdraw _).boots) (boots_ite (h.trans (boots_bootOn _)) h)

/-! ## Events -/

theorem Leaves.still {p : Pins} {s : State} (h : s.pins = p) : Leaves p s s := h ▸ Leaves.refl s

theorem leaves_ite {p : Pins} {s a b : State} {c : Prop} [Decidable c] (ha : c → Leaves p s a)
    (hb : ¬ c → Leaves p s b) : Leaves p s (if c then a else b) := by
  split
  · exact ha ‹_›
  · exact hb ‹_›

theorem leaves_execReportRecordBegin (s t : State) (h : execReportRecordBegin s = .next t) :
    Leaves s.pins s t := by
  rw [← Host.Outcome.next.inj h]
  exact (calm_beginRecord s).leaves

theorem leaves_execRecordComplete (s t : State) (h : execRecordComplete s = .next t) :
    Leaves s.pins s t := by
  rw [← Host.Outcome.next.inj h]
  exact ((calm_completeRecord s).trans (calm_react _)).leaves

theorem leaves_execOutboundRead (s t : State) (h : execOutboundRead s = .next t) :
    Leaves s.pins s t := by
  unfold execOutboundRead at h
  split at h
  · rw [← Host.Outcome.next.inj h]
    exact Leaves.refl s
  · rename_i b rest e
    rw [← Host.Outcome.next.inj h]
    refine Leaves.calm ?_ (calm_outPass ..)
    refine ⟨rfl, Nat.le_refl _, rfl, rfl, rfl, rfl, rfl, fun _ => rfl, fun ⟨k1, k2, k3⟩ => ⟨k1, ?_, k3⟩⟩
    obtain ⟨a1, a2, a3⟩ := k2
    rw [e, List.length_cons] at a2
    exact ⟨a1, Nat.le_of_succ_le a2, a3⟩

theorem resumes_execArbiterGrant (s t : State) (h : execArbiterGrant s = .next t) :
    Resumes s.pins s t := by
  unfold execArbiterGrant at h
  split at h
  · rename_i u e
    rw [← Host.Outcome.next.inj h]
    exact ((calm_grantNext _ _ e).trans (calm_react _)).leaves.resumes
  · cases h

theorem leaves_execRefreshTimerExpiry (s t : State) (h : execRefreshTimerExpiry s = .next t) :
    Leaves s.pins s t := by
  unfold execRefreshTimerExpiry at h
  split at h
  · rw [← Host.Outcome.next.inj h]
    exact Leaves.refl s
  · rw [← Host.Outcome.next.inj h]
    exact ⟨rfl, Nat.le_max_left .., rfl, rfl, rfl, rfl, rfl, fun _ => rfl, id⟩

theorem leaves_execScrubTimerExpiry (s t : State) (h : execScrubTimerExpiry s = .next t) :
    Leaves s.pins s t := by
  unfold execScrubTimerExpiry at h
  split at h
  · rw [← Host.Outcome.next.inj h]
    exact Leaves.refl s
  · rw [← Host.Outcome.next.inj h]
    exact ⟨rfl, Nat.le_max_left .., rfl, rfl, rfl, rfl, rfl, fun _ => rfl, id⟩

theorem resumes_execWakingEnd (s t : State) (h : execWakingEnd s = .next t) :
    Resumes s.pins s t := by
  unfold execWakingEnd at h
  split at h
  · rw [← Host.Outcome.next.inj h]
    exact Leaves.resumes (((leaves_reach ..).boots (boots_storeOn _)).calm (calm_react _))
  · rw [← Host.Outcome.next.inj h]
    exact (Leaves.refl s).ends

theorem resumes_execRouteEndDeferred (r : Fin 4) (s t : State) (h : execRouteEndDeferred r s = .next t) :
    Resumes s.pins s t := by
  unfold execRouteEndDeferred at h
  split at h
  · split at h
    · rw [← Host.Outcome.next.inj h]
      exact ((calm_finishRoute ..).trans (calm_react _)).leaves.resumes
    · rw [← Host.Outcome.next.inj h]
      exact (Leaves.refl s).ends
  · rw [← Host.Outcome.next.inj h]
    exact (Leaves.refl s).ends

theorem leaves_execCoderLineComplete (s t : State) (h : execCoderLineComplete s = .next t) :
    Leaves s.pins s t := by
  unfold execCoderLineComplete at h
  split at h
  · split at h
    · rename_i hc
      rw [← Host.Outcome.next.inj h]
      exact ((calm_codeLine _ _ _ hc.2.2).trans (calm_react _)).leaves
    · rw [← Host.Outcome.next.inj h]
      exact Leaves.refl s
  · rw [← Host.Outcome.next.inj h]
    exact Leaves.refl s

theorem leaves_execDecoderLine (s t : State) (h : execDecoderLine s = .next t) :
    Leaves s.pins s t := by
  unfold execDecoderLine at h
  split at h
  · rw [← Host.Outcome.next.inj h]
    exact ((calm_handLine ..).trans (calm_react _)).leaves
  · rw [← Host.Outcome.next.inj h]
    exact ((calm_handLine ..).trans (calm_react _)).leaves
  · rw [← Host.Outcome.next.inj h]
    exact Leaves.refl s

theorem leaves_execDecodingEnd (d : DecoderName) (s t : State) (h : execDecodingEnd d s = .next t) :
    Leaves s.pins s t := by
  cases d
  · rw [← Host.Outcome.next.inj h]
    exact (calm_printEnded s).leaves
  · rw [← Host.Outcome.next.inj h]
    exact (calm_checkEnded s).leaves

theorem resumes_execRxByte (bs : Bits) (s t : State) (h : execRxByte bs s = .next t) :
    Resumes s.pins s t := by
  rw [← Host.Outcome.next.inj h]
  exact (calm_rxBits ..).leaves.resumes

theorem resumes_execFirstSync (bs : Bits) (s t : State) (h : execFirstSync bs s = .next t) :
    Resumes s.pins s t := by
  rw [← Host.Outcome.next.inj h]
  exact (calm_rxBits ..).leaves.resumes

theorem resumes_execLineValidChange (l : Bool) (s t : State) (h : execLineValidChange l s = .next t) :
    Resumes { s.pins with lineValid := l } s t := by
  rw [← Host.Outcome.next.inj h]
  exact resumes_ite (fun e => e ▸ (Leaves.refl s).ends)
    fun _ => Leaves.resumes ((leaves_lineValidTo ..).calm (calm_react _))

theorem resumes_execCarrierTimerExpiry (s t : State) (h : execCarrierTimerExpiry s = .next t) :
    Resumes s.pins s t := by
  unfold execCarrierTimerExpiry at h
  split at h
  · rw [← Host.Outcome.next.inj h]
    exact Leaves.resumes ((leaves_reach ..).calm ((calm_failRoute ..).trans (calm_react _)))
  · rw [← Host.Outcome.next.inj h]
    exact (Leaves.refl s).ends

theorem leaves_execUnderrun (s t : State) (h : execUnderrun s = .next t) :
    Leaves s.pins s t := by
  rw [← Host.Outcome.next.inj h]
  exact (calm_ite ((calm_txClock _).trans (calm_react _)) (Calm.refl s)).leaves

theorem leaves_execLineSendEnd (s t : State) (h : execLineSendEnd s = .next t) :
    Leaves s.pins s t := by
  unfold execLineSendEnd at h
  split at h
  · rw [← Host.Outcome.next.inj h]
    exact ((calm_txClock _).trans (calm_react _)).leaves
  · rw [← Host.Outcome.next.inj h]
    exact Leaves.refl s

theorem leaves_execTransmitClock (s t : State) (h : execTransmitClock s = .next t) :
    Leaves s.pins s t := by
  rw [← Host.Outcome.next.inj h]
  exact ((calm_txClock _).trans (calm_react _)).leaves

theorem leaves_execCaptureComplete (xs : List Byte) (s t : State) (h : execCaptureComplete xs s = .next t) :
    Leaves s.pins s t := by
  unfold execCaptureComplete at h
  split at h
  · rw [← Host.Outcome.next.inj h]
    exact leaves_ite (fun _ => (leaves_reach ..).calm ((calm_capture ..).trans (calm_react _)))
      fun _ => Leaves.refl s
  · rw [← Host.Outcome.next.inj h]
    exact Leaves.refl s

theorem resumes_execDocInChange (l : Bool) (s t : State) (h : execDocInChange l s = .next t) :
    Resumes { s.pins with docIn := l } s t := by
  rw [← Host.Outcome.next.inj h]
  exact resumes_ite (fun e => e ▸ (Leaves.refl s).ends) fun _ => (leaves_docInTo s l).resumes

theorem leaves_execDocEdgeChange (l : Bool) (s t : State) (h : execDocEdgeChange l s = .next t) :
    Leaves { s.pins with docEdge := l } s t := by
  rw [← Host.Outcome.next.inj h]
  exact leaves_ite (fun e => e ▸ Leaves.refl s) fun _ => leaves_docEdgeTo ..

theorem leaves_execLampWarm (s t : State) (h : execLampWarm s = .next t) :
    Leaves s.pins s t := by
  unfold execLampWarm at h
  split at h
  · rw [← Host.Outcome.next.inj h]
    exact ((leaves_reach ..).trans (leaves_scanner ..)).calm (calm_react _)
  · rw [← Host.Outcome.next.inj h]
    exact Leaves.refl s

theorem leaves_execStrobeTimerExpiry (s t : State) (h : execStrobeTimerExpiry s = .next t) :
    Leaves s.pins s t := by
  have burn (d : Nat) (b : Burn) : Leaves s.pins s ((s.reach d).strobeExpiry b).react :=
    (leaves_reach ..).calm ((calm_strobeExpiry ..).trans (calm_react _))
  have cut (i : Nat) (c : CutPhase) : Leaves s.pins s ((s.reach c.ends).cutNext i c).react :=
    (leaves_reach ..).calm ((calm_cutNext ..).trans (calm_react _))
  unfold execStrobeTimerExpiry at h
  split at h
  · split at h
    · rw [← Host.Outcome.next.inj h]; exact cut ..
    · rw [← Host.Outcome.next.inj h]; exact burn ..
  · rw [← Host.Outcome.next.inj h]; exact cut ..
  · rw [← Host.Outcome.next.inj h]; exact burn ..
  · rw [← Host.Outcome.next.inj h]; exact Leaves.refl s

theorem leaves_execConverterSample (v : Byte) (s t : State) (h : execConverterSample v s = .next t) :
    Leaves s.pins s t := by
  unfold execConverterSample at h
  split at h
  · rw [← Host.Outcome.next.inj h]
    exact ((leaves_reach ..).trans (leaves_takeSample ..)).calm (calm_react _)
  · rw [← Host.Outcome.next.inj h]
    exact Leaves.refl s

theorem leaves_execHeadSettled (s t : State) (h : execHeadSettled s = .next t) :
    Leaves s.pins s t := by
  unfold execHeadSettled at h
  split at h
  · rw [← Host.Outcome.next.inj h]
    exact ((leaves_reach ..).trans (leaves_head ..)).calm ((calm_pfReexamine _).trans (calm_react _))
  · rw [← Host.Outcome.next.inj h]
    exact Leaves.refl s

theorem leaves_execStepTimerExpiry (m : MotorName) (s t : State) (h : execStepTimerExpiry m s = .next t) :
    Leaves s.pins s t := by
  unfold execStepTimerExpiry at h
  split at h
  · rw [← Host.Outcome.next.inj h]
    exact (leaves_reach ..).calm ((calm_stepExpiry ..).trans (calm_react _))
  · rw [← Host.Outcome.next.inj h]
    exact Leaves.refl s

theorem leaves_execHoldTimerExpiry (m : MotorName) (s t : State) (h : execHoldTimerExpiry m s = .next t) :
    Leaves s.pins s t := by
  unfold execHoldTimerExpiry at h
  split at h
  · rw [← Host.Outcome.next.inj h]
    exact (leaves_reach ..).calm (calm_setMotor _ _ _ fun k => k)
  · rw [← Host.Outcome.next.inj h]
    exact Leaves.refl s

theorem leaves_execPaperChange (l : Bool) (s t : State) (h : execPaperChange l s = .next t) :
    Leaves { s.pins with paperOut := !l } s t := by
  rw [← Host.Outcome.next.inj h]
  exact leaves_ite (fun e => e ▸ Leaves.refl s) fun _ => leaves_paperTo ..

theorem leaves_execHomeChange (l : Bool) (s t : State) (h : execHomeChange l s = .next t) :
    Leaves { s.pins with home := l } s t := by
  rw [← Host.Outcome.next.inj h]
  exact leaves_ite (fun e => e ▸ Leaves.refl s) fun _ => leaves_homeTo ..

theorem leaves_execCutterTimeout (s t : State) (h : execCutterTimeout s = .next t) :
    Leaves s.pins s t := by
  unfold execCutterTimeout at h
  split at h
  · rw [← Host.Outcome.next.inj h]
    exact (leaves_reach ..).calm ((calm_cutFailed _).trans (calm_react _))
  · rw [← Host.Outcome.next.inj h]
    exact Leaves.refl s

theorem resumes_execCoverOpening (s t : State) (h : execCoverOpening s = .next t) :
    Resumes { s.pins with coverOpen := true } s t := by
  rw [← Host.Outcome.next.inj h]
  exact resumes_ite (fun e => e ▸ (Leaves.refl s).ends) fun _ => (leaves_coverOpens s).resumes

theorem resumes_execCoverClosing (s t : State) (h : execCoverClosing s = .next t) :
    Resumes { s.pins with coverOpen := false } s t := by
  rw [← Host.Outcome.next.inj h]
  exact resumes_ite (fun _ => (leaves_coverCloses s).resumes)
    fun e => (Leaves.still (by rw [← Bool.not_eq_true _ |>.mp e])).ends

theorem resumes_execWake (l : Bool) (s t : State) (h : execWake l s = .next t) :
    Resumes { s.pins with wake := l } s t := by
  rw [← Host.Outcome.next.inj h]
  have k := leaves_pins s { s.pins with wake := l }
  exact resumes_ite
    (fun _ => Leaves.resumes (s := s) (k.calm ((calm_takeWake ..).trans (calm_react _))))
    fun _ => k.ends

theorem leaves_execDozeDrainDone (s t : State) (h : execDozeDrainDone s = .next t) :
    Leaves s.pins s t := by
  rw [← Host.Outcome.next.inj h]
  refine leaves_ite (fun _ => Calm.leaves ?_) fun _ => Leaves.refl s
  refine Calm.trans (Calm.trans ?_ (calm_placeRequest _)) ((calm_entryAdvance _).trans (calm_react _))
  simp only [↓calm_mk, Calm.refl]

theorem leaves_execPfailAssert (s t : State) (h : execPfailAssert s = .next t) :
    Leaves { s.pins with pfail := true } s t := by
  have k := leaves_pins s { s.pins with pfail := true }
  unfold execPfailAssert at h
  extract_lets p u at h
  split at h
  · rw [← Host.Outcome.next.inj h]; exact k
  · rw [← Host.Outcome.next.inj h]; exact k
  · rw [← Host.Outcome.next.inj h]
    split
    · exact k
    · exact k
    · exact k.boots (boots_beginRetain u)
  · rw [← Host.Outcome.next.inj h]; exact k.boots (boots_failSafe u)

theorem leaves_execRetainDrainDone (s t : State) (h : execRetainDrainDone s = .next t) :
    Leaves s.pins s t := by
  rw [← Host.Outcome.next.inj h]
  exact (boots_ite (boots_retainDrained s) (Boots.refl s)).leaves

theorem leaves_execHoldRelease (s t : State) (h : execHoldRelease s = .next t) :
    Leaves { s.pins with pfail := false } s t := by
  rw [← Host.Outcome.next.inj h]
  exact (leaves_pins ..).boots (boots_ite (boots_memoryStart _) (Boots.refl _))

/-- Every event but the end of a burst and a reset leaves the parts of `Leaves`, but that
the parser may resume at its end. -/
theorem resumes_exec (c : Instr) (s t : State) (hc : parses c = false)
    (hb : ∀ flips, c ≠ .burstEnd flips) (hr : ∀ held, c ≠ .reset held) (h : exec c s = .next t) :
    Resumes (pinsAfter s.pins c) s t := by
  cases c
  case reportRecordBegin => exact (leaves_execReportRecordBegin s t h).ends
  case recordComplete => exact (leaves_execRecordComplete s t h).ends
  case arbiterGrant => exact resumes_execArbiterGrant s t h
  case refreshTimerExpiry => exact (leaves_execRefreshTimerExpiry s t h).ends
  case scrubTimerExpiry => exact (leaves_execScrubTimerExpiry s t h).ends
  case wakingEnd => exact resumes_execWakingEnd s t h
  case routeEndDeferred => exact resumes_execRouteEndDeferred _ s t h
  case coderLineComplete => exact (leaves_execCoderLineComplete s t h).ends
  case decoderLine => exact (leaves_execDecoderLine s t h).ends
  case decodingEnd => exact (leaves_execDecodingEnd _ s t h).ends
  case rxByte => exact resumes_execRxByte _ s t h
  case firstSync => exact resumes_execFirstSync _ s t h
  case lineValidChange => exact resumes_execLineValidChange _ s t h
  case carrierTimerExpiry => exact resumes_execCarrierTimerExpiry s t h
  case underrun => exact (leaves_execUnderrun s t h).ends
  case lineSendEnd => exact (leaves_execLineSendEnd s t h).ends
  case captureComplete => exact (leaves_execCaptureComplete _ s t h).ends
  case docInChange => exact resumes_execDocInChange _ s t h
  case docEdgeChange => exact (leaves_execDocEdgeChange _ s t h).ends
  case lampWarm => exact (leaves_execLampWarm s t h).ends
  case strobeTimerExpiry => exact (leaves_execStrobeTimerExpiry s t h).ends
  case converterSample => exact (leaves_execConverterSample _ s t h).ends
  case headSettled => exact (leaves_execHeadSettled s t h).ends
  case stepTimerExpiry => exact (leaves_execStepTimerExpiry _ s t h).ends
  case holdTimerExpiry => exact (leaves_execHoldTimerExpiry _ s t h).ends
  case paperChange => exact (leaves_execPaperChange _ s t h).ends
  case homeChange => exact (leaves_execHomeChange _ s t h).ends
  case cutterTimeout => exact (leaves_execCutterTimeout s t h).ends
  case coverOpening => exact resumes_execCoverOpening s t h
  case coverClosing => exact resumes_execCoverClosing s t h
  case wake => exact resumes_execWake _ s t h
  case dozeDrainDone => exact (leaves_execDozeDrainDone s t h).ends
  case pfailAssert => exact (leaves_execPfailAssert s t h).ends
  case retainDrainDone => exact (leaves_execRetainDrainDone s t h).ends
  case holdRelease => exact (leaves_execHoldRelease s t h).ends
  case transmitClock => exact (leaves_execTransmitClock s t h).ends
  case outboundRead => exact (leaves_execOutboundRead s t h).ends
  case burstEnd flips => exact absurd rfl (hb flips)
  case reset held => exact absurd rfl (hr held)
  all_goals cases hc

end Sys2Proof.Machine
end

