-- ==== Sys2Proof/WellFormed.lean ====
section
/-! DEFINITION. Which commands are well formed: the lengths their operands must have. -/

namespace Sys2Proof

/-- A known order kind (R175). -/
def knownKind (kind : Byte) : Bool :=
  (1 ≤ kind.toNat && kind.toNat ≤ 14) || kind == 0x7E

/-- The command can be framed as R175 lays it out, or brings what its event brings: a TABLE LOAD's data
fits its record (R170, R175), a DATA order carries 1 to 1024 page bytes (R68), a MALFORMED header is
one (R176), a readout is 1728 samples (R82), a burst reads at most 8 words (R26), and received bits
come at most a byte at a time (R137). -/
def Instr.wellFormed : Instr → Bool
  | .tableLoad _ _ _ n => decide (n ≤ 1036)
  | .tableLoadEnd ds => decide (ds.length ≤ 1036)
  | .data _ _ _ bytes => decide (1 ≤ bytes.length) && decide (bytes.length ≤ 1024)
  | .malformed kind length => kind != 0x7E && (!knownKind kind || decide (1040 < length.toNat))
  | .captureComplete samples => decide (samples.length = 1728)
  | .burstEnd flips => decide (flips.length ≤ 8)
  | .rxByte bits => decide (1 ≤ bits.length) && decide (bits.length ≤ 8)
  | .firstSync bits => decide (1 ≤ bits.length)
  | _ => true

end Sys2Proof
end

