-- ==== Sys2Proof/Tests/Slice0.lean ====
section
/-! SUPPORT. Tests: what well-formedness refuses, the worked cases of the reference, and for each statement with
hypotheses a state and operands that meet them (`witness_<Statement>`, with a letter where it has several). -/

set_option Elab.async false

namespace Sys2Proof.Machine

/-! ## Well-formedness: an ill-formed term for each check -/

theorem test_illformed_tableLoad : (Instr.tableLoad 0 0 0 1037).wellFormed = false := by decide
theorem test_illformed_tableLoadEnd :
    (Instr.tableLoadEnd (List.replicate 1037 0)).wellFormed = false := by decide +kernel
theorem test_illformed_data_empty : (Instr.data 0 0 0 []).wellFormed = false := by decide
theorem test_illformed_data_long :
    (Instr.data 0 0 0 (List.replicate 1025 0)).wellFormed = false := by decide +kernel
theorem test_illformed_malformed_known : (Instr.malformed 0x01 10).wellFormed = false := by decide
theorem test_illformed_malformed_resync : (Instr.malformed 0x7E 0).wellFormed = false := by decide
theorem test_wellformed_malformed_long : (Instr.malformed 0x01 1041).wellFormed = true := by decide
theorem test_illformed_capture : (Instr.captureComplete [0]).wellFormed = false := by decide
theorem test_illformed_burstEnd :
    (Instr.burstEnd (List.replicate 9 0)).wellFormed = false := by decide
theorem test_illformed_rxByte_empty : (Instr.rxByte []).wellFormed = false := by decide
theorem test_illformed_rxByte_long :
    (Instr.rxByte (List.replicate 9 true)).wellFormed = false := by decide
theorem test_illformed_firstSync : (Instr.firstSync []).wellFormed = false := by decide

/-! ## States to test on -/

/-- READY at RUN, the controller ON, nothing in use. -/
def live : State :=
  { State.reset with
    parser := { Parser.start with source := .port }
    store := { State.reset.store with state := .on, initLeft := 0, refreshTimer := some 15 }
    power := { State.reset.power with level := some .run }
    boot := { State.reset.boot with state := .ready, hostHold := false } }

/-- The state a command leads to. -/
def after (c : Instr) (s : State) : Option State :=
  match exec c s with
  | .next t => some t
  | _ => none

/-- The RAMP table of section 11.5: n = 8, Z = 2, spl 2, 4 and 6, hold 5, eight periods. -/
def rampData : List Byte :=
  [0x08, 0x02, 0x02, 0x04, 0x06, 0x05, 0xA0, 0x0F, 0xB8, 0x0B, 0x60, 0x09, 0xD0, 0x07, 0x08, 0x07,
    0xA4, 0x06, 0x40, 0x06, 0xDC, 0x05]

/-- `live` with that table READY in slot 5. -/
def ramped : State :=
  live.setTable 5
    { kind := some .ramp, state := .ready, length := 22, check := 1197, binds := 0
      storage := rampData, failure := none }

/-- A CODE table with the lengths of section 3.3's worked example; its patterns are prefix-free. -/
def codeData : List Byte :=
  (List.range 182).flatMap (fun i =>
    let (n, v) : Nat × Nat :=
      if i = 36 then (8, 0x40) else if i = 62 then (8, 0x41) else if i = 64 then (5, 4)
      else if i = 85 then (9, 0x21) else if i = 91 + 2 then (3, 2) else if i = 91 + 28 then (12, 0x200)
      else if i = 91 + 65 then (12, 0x201) else (10, 512 + i)
    [BitVec.ofNat 8 n, BitVec.ofNat 8 v, BitVec.ofNat 8 (v / 256)]) ++ [12, 0x01, 0x00, 2]

/-- A slot that holds it. -/
def codeSlot : TableSlot :=
  { kind := some .code, state := .ready, length := 550, check := 0, binds := 1
    storage := codeData, failure := none }

/-- The first `n` dots of a group black. -/
def firstDots (n : Nat) : BitVec 216 := BitVec.ofNat 216 (2 ^ n - 1)

/-- The values of section 6.7's HEAT table that its worked case uses. -/
def heatCase : Heat :=
  { base := (List.range 16).map fun i => if i = 9 then 800 else 100
    factor := (List.range 16).map fun i => if i = 7 then 144 else 1
    budget := 256, history := 64, wmin := 300, wmax := 2000, gap := 50, load := 120, stop := 12 }

/-- Section 6.7's line and history line. -/
def lineCase : Dots :=
  #v[firstDots 40, 0, firstDots 130, firstDots 90, firstDots 216, firstDots 10, 0, firstDots 60]
def historyCase : Dots :=
  #v[firstDots 40, 0, firstDots 65, 0, firstDots 200, 0, 0, firstDots 30]

/-! ## Worked cases of the reference -/

/-- Section 6.7: the phases, their dots, history dots and widths, and L = 3468. -/
theorem test_plan_worked_case :
    ((planOf heatCase 150 120 lineCase historyCase).phases.map
        fun p => (p.groups, p.dots, p.hist, p.overBudget, p.width))
      = [([0, 2], 170, 105, false, 761), ([3], 90, 0, false, 900), ([4, 5], 226, 200, false, 700),
        ([7], 60, 30, false, 787)]
    ∧ (planOf heatCase 150 120 lineCase historyCase).burn = 3468 := by decide +kernel

/-- Section 6.7's variation: with P = 200, group 4 is an over-budget phase alone. -/
theorem test_plan_over_budget :
    ((planOf { heatCase with budget := 200 } 150 120 lineCase historyCase).phases.map
        fun p => (p.groups, p.dots, p.overBudget))
      = [([0, 2], 170, false), ([3], 90, false), ([4], 216, true), ([5, 7], 70, false)] := by
  decide +kernel

/-- Section 3.3: the runs of the worked line, and the code lengths of its eight steps. -/
def codedLine : Dots := Dots.paint (Dots.paint Dots.white 100 130) 1700 28
theorem test_coded_line_runs : runsOfDots codedLine = [100, 130, 1470, 28] := by decide +kernel
theorem test_coded_line_codes :
    (lineCodes codeData codedLine).map List.length = [12, 5, 8, 12, 3, 9, 8, 12] := by
  decide +kernel

/-- Section 3.3: the Coder takes the line with its sync and first run in hand, and at once has all eight codes but
the last in its queue and accumulator: 57 bits, at the last run's colour and the line's end. -/
theorem test_coded_line_runs_through :
    let c := ((Coder.idleCoder.takeLine codeData codedLine).pump codeData)
    (c.bitPos, c.queue.length, c.acc.length) = (57, 3, 9)
      ∧ (c.dot, c.black) = (1728, true) ∧ (c.codes.map List.length, c.runs) = ([12], []) := by
  decide +kernel

/-- Section 3.3: words queued and accumulator bits after the eight steps. -/
theorem test_coded_line_packing :
    let c := (lineCodes codeData codedLine).foldl Coder.append Coder.idleCoder
    (c.bitPos, c.queue.length, c.acc.length) = (69, 4, 5) := by decide +kernel

/-- R44's table of runs: 64, 100, 1470 and 1728. -/
theorem test_run_codes :
    (runCodes codeData false 64 = [codeBits codeData false true 64, codeBits codeData false false 0])
    ∧ (runCodes codeData false 100
      = [codeBits codeData false true 64, codeBits codeData false false 36])
    ∧ (runCodes codeData false 1470
      = [codeBits codeData false true 1408, codeBits codeData false false 62])
    ∧ runCodes codeData false 1728
      = [codeBits codeData false true 1728, codeBits codeData false false 0] := by decide +kernel

/-- Section 11.5: the sum of the load is 1197 and its form tests pass; R[3] = 2600 fails the last. -/
theorem test_ramp_load :
    byteSum rampData = 1197 ∧ loadFailure .ramp rampData 1197 = none
    ∧ (rampOf rampData).periods = [4000, 3000, 2400, 2000, 1800, 1700, 1600, 1500] := by
  decide +kernel
theorem test_ramp_bad_form :
    let d := (rampData.set 12 0x28).set 13 0x0A
    ∃ i, loadFailure .ramp d (byteSum d) = some (.form i) ∧ 0 < i := by
  exact ⟨6, by decide +kernel⟩

/-- R29's table: the syndrome of d4 is 25h, of d15 34h. -/
theorem test_syndromes :
    (dataSyndromes.getD 4 0, dataSyndromes.getD 15 0) = (0x25, 0x34)
    ∧ (decodeWord (encodeWord 0x1234 ^^^ 0x10)).syndrome = 0x25 := by decide +kernel

/-! ## Commands, one step each -/

/-- Section 11.5, steps 1 and 2: the load opens slot 5, and its data makes it READY. -/
theorem test_tableLoad_opens :
    (after (.tableLoad 5 2 0x04AD 22) live).map (fun t => (t.table 5).state)
      = some .loading := by decide +kernel
theorem test_tableLoad_ready :
    ((after (.tableLoad 5 2 0x04AD 22) live).bind (after (.tableLoadEnd rampData))).map
        (fun t => ((t.table 5).state, t.parser.state, t.reports.map QueueEntry.report))
      = some (.ready, .head, [.tableReady 5 .ramp 1197]) := by decide +kernel
/-- Section 11.5, step 4: a load of a bound slot is refused TABLE-BOUND and its bytes are skipped. -/
theorem test_tableLoad_bound :
    (after (.tableLoad 5 2 0x04AD 22) (ramped.bind 5)).map
        (fun t => ((t.table 5).storage == rampData, t.parser.use))
      = some (true, .skip) := by decide +kernel

/-- R181: a MARK is the last entry of the queue. -/
theorem test_mark :
    (after (.mark 0x1234) live).map (fun t => t.reports.map QueueEntry.report)
      = some [.mark 0x1234] := by decide +kernel
/-- R175: a MARK report's record is its kind, a length of 2 and its value, low byte first. -/
theorem test_mark_record :
    QueueEntry.record { report := .mark 0x1234, count := 1, withheld := false }
      = [0x8C, 0x02, 0x00, 0x34, 0x12] := by decide +kernel

/-- R114 and R123: a MOVE backward puts out phase 7 from phase 0, and loads R[0] = 4000. -/
theorem test_move_backward :
    (after (.move { motor := 0, steps := 3, direction := 1, slot := 5, top := 7 }) ramped).map
        (fun t => (t.pf.phase, t.pf.timer, t.pf.left, (t.table 5).binds))
      = some (7, some 4000, 2, 1) := by decide +kernel

/-- R176: an unknown kind sends the parser into HUNT; the RESYNC sequence brings it back. -/
theorem test_malformed_hunts :
    (after (.malformed 0x55 3) live).map (fun t => t.parser.state) = some .hunt := by decide +kernel
theorem test_hunt_ends :
    (((((after (.malformed 0x55 3) live).bind (after (.hunt 0x7E))).bind (after (.hunt 0x81))).bind
      (after (.hunt 0x7E))).bind (after (.hunt 0x81))).map (fun t => t.parser.state)
      = some .head := by decide +kernel

/-- R157: a reset leaves the input levels and the DRAM. -/
theorem test_reset_keeps_pins :
    (after (.reset false) { live with pins := { live.pins with docIn := true } }).map
        (fun t => (t.pins.docIn, t.boot.state, t.store.state))
      = some (true, .hold, .init) := by decide +kernel

/-- R23: a burst past the last word of the store has no effect the reference gives. -/
theorem test_grant_outside_store :
    (match exec .arbiterGrant { live with pool :=
        { live.pool with dirQueue := [.link 600000 0] } } with
      | .fault .outsideStore => true
      | _ => false) = true := by decide +kernel

/-! ## Witnesses: the step and what every step keeps -/

theorem witness_StepRunsFrontCommand :
    ({ live with pending := [.cut, .resync] } : State).pending = .cut :: [.resync]
      ∧ live.pending = [] := ⟨rfl, rfl⟩

theorem live_lite : live.Lite :=
  ⟨⟨List.nodup_nil, nofun⟩, by unfold State.capsWf; decide +kernel,
    fun r => by unfold Route.countsWf; revert r; decide +kernel⟩

theorem witness_StepKeepsInvariant : live.Inv ∧ ∃ t, step live = .next t := ⟨⟨rfl, live_lite⟩, _, rfl⟩

theorem witness_EventsKeepSetupAndTables :
    parses .lampWarm = false ∧ (∀ held, Instr.lampWarm ≠ .reset held) ∧ live.port.inFifo = []
      ∧ wakes (some .run) = false ∧ ∃ t, exec .lampWarm live = .next t := ⟨rfl, nofun, rfl, rfl, _, rfl⟩

theorem witness_OnlyBurstEndsWriteTheStore :
    (∀ flips, Instr.lampWarm ≠ .burstEnd flips) ∧ ∃ t, exec .lampWarm live = .next t :=
  ⟨nofun, _, rfl⟩

/-- `live` with a burst in progress. -/
def bursting (k : BurstKind) : State :=
  { live with store := { live.store with burst := some { kind := k, orphan := true, page := none } } }

/-- Every kind of burst that writes ends in a next state; 9000 is its first word, 8999 and 9001 lie outside. -/
theorem witness_BurstEndWritesItsOwnWords :
    (∀ k ∈ ([.coderWrite 9000 [1], .lineWrite 9000 [1] 2, .hostWrite 9000 [1], .bootWrite 9000 [1],
        .header .power [1, 2, 3, 4], .dirImage 0 false [1], .dirLink 20 21, .scrub] : List BurstKind),
      (bursting k).store.burst = some { kind := k, orphan := true, page := none }
        ∧ (after (.burstEnd []) (bursting k)).isSome = true)
    ∧ dramWf (bursting .scrub).store.dram = true
    ∧ (BurstKind.coderWrite 9000 [1]).span 0 = (9000, 1) := by decide +kernel

theorem witness_InputsFollowTheirEvents :
    (∃ t, exec (.wake true) live = .next t) ∧ ∃ t, exec .lampWarm live = .next t :=
  ⟨⟨_, rfl⟩, _, rfl⟩

/-! ## Witnesses: code, lines and plans -/

theorem witness_CheckBitsAreEvenParities : (21 - 16 : Nat) < 6 ∧ (15 : Nat) < 16 ∧ dramWf [] = true := by
  decide

theorem witness_OneBitCorrectedTwoDetected : (21 : Nat) < 22 ∧ 20 < 21 := by decide

/-- A record of the error log. -/
def logRecord (cls : ErrorClass) : LogRecord :=
  { cls := cls, block := 16, offset := 0, syndrome := 1, client := .scrub }

theorem witness_ErrorLogTakesOffersByClass :
    (decodeWord (encodeWord 5)).cls = none
    ∧ (decodeWord (encodeWord 5 ^^^ 1)).cls = some .corrected
    ∧ (decodeWord (encodeWord 5 ^^^ 3)).cls = some .uncorrectable
    ∧ live.store.log = none
    ∧ ({ live.store with log := some (logRecord .corrected) } : Store).log
      = some (logRecord .corrected) ∧ (logRecord .corrected).cls = .corrected
    ∧ (logRecord .uncorrectable).cls = .uncorrectable := by decide +kernel

theorem witness_RunsOfALineSumTo1728 : Dots.dot lineCase 0 = true := by decide +kernel

theorem witness_RunsAreCodedByTheTable :
    (63 : Nat) < 64 ∧ (64 : Nat) ≤ 64 ∧ (1 : Nat) ≤ 1 ∧ (27 : Nat) ≤ 27 := by decide

/-- A full queue and 15 bits take no bit; an idle Coder takes 271. -/
theorem witness_CoderKeepsEveryBit_a :
    (let c := { Coder.idleCoder with queue := List.replicate 16 0, acc := List.replicate 15 false }
     c.acc.length ≤ 15 ∧ c.queue.length ≤ 16 ∧ ([] : Bits).length ≤ c.space)
    ∧ (List.replicate 271 true).length ≤ Coder.idleCoder.space
    ∧ (Coder.idleCoder.takeLine codeData lineCase).state = .coding
    ∧ Coder.idleCoder.acc.length ≤ 15 ∧ Coder.idleCoder.queue.length ≤ 16 := by decide +kernel

theorem witness_WidthsFollowBandsAndHistory_a :
    (255 : Byte).toNat / 16 < heatCase.base.length ∧ (255 : Byte).toNat / 16 < heatCase.factor.length
    ∧ heatCase.base.getD 15 0 ≤ 4000 ∧ heatCase.factor.getD 15 0 ≤ 255 := by decide +kernel

/-- Widths below, above and within the clamp, at history 0, 64 and 255. -/
theorem witness_WidthsFollowBandsAndHistory_b :
    let p := Phase.mk [0] 40 40 false 0
    1 ≤ p.dots ∧ p.hist ≤ p.dots ∧ heatCase.history ≤ 255 ∧ heatCase.wmin ≤ heatCase.wmax
    ∧ 300 * (256 * 40 - 64 * 40) / (256 * 40) < heatCase.wmin
    ∧ heatCase.wmax < 7968 * (256 * 40 - 64 * 40) / (256 * 40)
    ∧ heatCase.wmin ≤ 900 * (256 * 40 - 64 * 40) / (256 * 40)
    ∧ 900 * (256 * 40 - 64 * 40) / (256 * 40) ≤ heatCase.wmax
    ∧ ({ heatCase with history := 0 } : Heat).history = 0
    ∧ ({ heatCase with history := 255 } : Heat).history = 255 := by decide +kernel

/-- Four phases, none over-budget, so that three have one after them. -/
theorem witness_PhasesHoldEveryBlackGroupOnce :
    (planOf heatCase 150 120 lineCase historyCase).phases ≠ []
    ∧ (planOf heatCase 150 120 lineCase historyCase).phases.length = 4
    ∧ ∀ p ∈ (planOf heatCase 150 120 lineCase historyCase).phases,
      p.overBudget = false ∧ p.groups.head?.isSome = true := by decide +kernel

/-! ## Witnesses: reports and the parser -/

theorem witness_ReportsOfOneKeyCoalesce :
    let q : List QueueEntry :=
      [{ report := .mark 7, count := 1, withheld := false },
        { report := .routeArmed 0, count := 255, withheld := true }]
    Report.key (.routeRunning 0) ≠ none ∧ Report.key (.routeArmed 0) = Report.key (.routeRunning 0)
    ∧ Report.key (.mark 7) ≠ Report.key (.routeRunning 0) ∧ Report.key (.mark 8) = none
    ∧ (∀ y ∈ q, y.report.key ≠ Report.key (.routeRunning 1)) ∧ queueWf q := by
  unfold queueWf; decide +kernel

theorem witness_TableLoadsEndByTheirTests_a :
    byteSum rampData ≠ 1196 ∧ byteSum rampData = 1197
    ∧ (∀ ok ∈ formTests .ramp rampData, ok = true)
    ∧ (formTests .ramp ((rampData.set 12 0x28).set 13 0x0A))[6]? = some false
    ∧ (∀ j < 6, (formTests .ramp ((rampData.set 12 0x28).set 13 0x0A))[j]? = some true) := by
  decide +kernel

theorem witness_TableLoadsEndByTheirTests_b :
    live.atHead = true ∧ asFin 16 (5 : Byte).toNat = some 5 ∧ tableKindOf 2 = some .ramp
    ∧ (live.table 5).binds = 0 ∧ (0 : Nat) < 1 ∧ (1024 : Nat) ≤ 1024 := by decide +kernel

/-- `live` in a load of slot 5, no data byte taken yet. -/
def loading : State :=
  { live.setTable 5 { TableSlot.emptySlot with kind := some .ramp, state := .loading } with
    parser :=
      { Parser.start with
        state := .body, source := .port, kind := 0x02, length := 26, taken := 4
        use := .load 5 0x04AD } }

theorem witness_TableLoadsEndByTheirTests_c :
    loading.boot.state = .ready ∧ loading.power.level = some .run ∧ loading.parser.source = .port
    ∧ loading.parser.state = .body ∧ loading.parser.use = .load 5 0x04AD ∧ loading.port.inFifo = []
    ∧ 0 < rampData.length ∧ loading.parser.taken + rampData.length = loading.parser.length
    ∧ (loading.table 5).kind = some .ramp := by decide +kernel

/-- `live` in a body of 26 bytes whose bytes are skipped, all but two or one taken. -/
def skipping (taken : Nat) : State :=
  { live with parser :=
    { Parser.start with
      state := .body, source := .port, kind := 0x02, length := 26, taken := taken, use := .skip } }

theorem witness_TableLoadsEndByTheirTests_d :
    15 < (16 : Byte).toNat ∧ 3 < (4 : Byte).toNat ∧ (1024 : Nat) < 1025
    ∧ asFin 16 (5 : Byte).toNat = some 5 ∧ (2 : Byte).toNat ≤ 3 ∧ 0 < ((ramped.bind 5).table 5).binds
    ∧ (ramped.bind 5).atHead = true ∧ (1025 : Nat) ≤ 1036
    ∧ (ramped.bind 5).loadRefusal 5 2 22 = some .tableBound
    ∧ (ramped.bind 5).loadRefusal 5 2 1025 = some .badField
    ∧ ∀ n ∈ [24, 25],
      (skipping n).boot.state = .ready ∧ (skipping n).power.level = some .run
      ∧ (skipping n).parser.source = .port ∧ (skipping n).parser.state = .body
      ∧ (skipping n).parser.use = .skip ∧ (skipping n).port.inFifo = [] := by decide +kernel

theorem witness_TableLoadsEndByTheirTests_e :
    ramped.atHead = true ∧ asFin 16 (5 : Byte).toNat = some 5 ∧ (ramped.table 5).binds = 0
    ∧ (ramped.bind 5).atHead = true ∧ 0 < ((ramped.bind 5).table 5).binds
    ∧ 15 < (16 : Byte).toNat := by decide +kernel

theorem witness_AttnFollowsTheReportQueue :
    ({ live with reports := [{ report := .mark 7, count := 1, withheld := false }] } : State).attn
      = true ∧ live.attn = false := by decide +kernel

/-! ## Witnesses: orders -/

/-- SETUP's defaults, with a geometry and a scrub interval. -/
def aSetup (geometry : Word) (scrub : Byte) : SetupBody :=
  { geometry := geometry, refresh := 15, scrub := scrub, lowMark := 32, lamp := 50, settle := 10
    cutter := 150, watermark := 2 }

theorem witness_SetupSetsItsValues :
    live.atHead = true ∧ setupInRange (aSetup 1024 0) = true ∧ setupInRange (aSetup 4096 255) = true
    ∧ (aSetup 1024 0).refresh.toNat = live.setup.refresh
    ∧ (aSetup 1024 0).geometry.toNat = live.store.geometry
    ∧ (aSetup 4096 255).geometry.toNat ≠ live.store.geometry ∧ live.pool.state = .inService
    ∧ live.routesInUse = [] ∧ (∀ p, (live.page p).state = .free)
    ∧ setupInRange { aSetup 1024 0 with refresh := 7 } = false
    ∧ ({ aSetup 1024 0 with refresh := 8 } : SetupBody).refresh.toNat ≠ live.setup.refresh := by
  decide +kernel

/-- `live` with page 3 CLOSED, of one block, and two blocks free. -/
def paged (readers : Nat) : State :=
  { live.setPage 3
      { PageEntry.freeEntry with
        state := .closed, pitch := 1, head := 20, tail := 20, blockCount := 1, bitLength := 8
        lineCount := some 0, readers := readers } with
    pool :=
      { live.pool with freeHead := some 16, freeTail := some 17, freeCount := 2, spare := [18, 19] } }

theorem witness_PageDropFreesOrMarksItsPage :
    (paged 0).atHead = true ∧ asFin 32 (3 : Byte).toNat = some 3 ∧ (paged 0).pool.state = .inService
    ∧ ((paged 0).page 3).state = .closed ∧ ((paged 0).page 3).readers = 0
    ∧ (paged 0).freeNeed 3 ≤ (paged 0).dirPlaces
    ∧ (paged 1).atHead = true ∧ 0 < ((paged 1).page 3).readers
    ∧ (paged 1).imageNeed 3 ≤ (paged 1).dirPlaces
    ∧ (paged 0).dropPageRefusal 4 = some .pageState ∧ 31 < (32 : Byte).toNat
    ∧ ({ live with pool := { live.pool with state := .clearing } } : State).pool.state ≠ .inService
    ∧ (live.page 31).state ≠ .closed := by decide +kernel

/-- A start's body, most of its fields 0. -/
def aStart (slot kind page : Byte) : StartBody :=
  { slot := slot, kind := kind, options := 0, pitch := 1, top := 7, code := 0, heat := 1, pfRamp := 5
    sfRamp := 5, shade := 2, page := page, reservation := 0, badLimit := 0, minBits := 0, carrier := 1
    jam := 0, lead := 0, trail := 0, eject := 0, tail := 0, maxLines := 0 }

/-- `paged 0` with a CODE, a HEAT, a SHADE and a RAMP table READY. -/
def stocked : State :=
  ((((paged 0).setTable 0 { codeSlot with binds := 0 }).setTable 1
    { codeSlot with kind := some .heat, binds := 0, storage := [] }).setTable 2
    { codeSlot with kind := some .shade, binds := 0, storage := [] }).setTable 5 (ramped.table 5)

/-- Every kind's start is accepted in `stocked`; HOST-STORE has the places it asks for. -/
theorem witness_RouteStartPutsItsRouteInUse_a :
    stocked.atHead = true
    ∧ (∀ k ∈ ([0, 1, 2, 3, 4, 5, 6] : List Byte), (routeKindOf k).isSome = true
      ∧ stocked.startRefusal (aStart 3 k 3) = none)
    ∧ asFin 4 (3 : Byte).toNat = some 3 ∧ routeKindOf 5 = some .hostStore
    ∧ stocked.pool.dirQueue.length + 2 ≤ 16 := by decide +kernel

/-- Route 3 RUNNING with a kind. -/
def Route.ofKind (k : RouteKind) : Route := { Route.idleRecord with kind := some k, state := .running }

theorem witness_RouteStartPutsItsRouteInUse_b :
    startBadField (aStart 3 1 3) .copy = false ∧ routeKindOf 1 = some .copy
    ∧ ({ stocked with pool := { stocked.pool with state := .clearing } } : State).pool.state = .clearing
    ∧ stocked.pool.state ≠ .clearing ∧ ((stocked.setRoute 3 (Route.ofKind .copy)).route 3).inUse = true
    ∧ (stocked.route 3).inUse = false
    ∧ ({ stocked.engines with printer := some 0 } : Engines).busy .copy = true
    ∧ (stocked.engines.busy .copy || stocked.claimBusy .copy) = false
    ∧ RouteKind.copy.usesScanner = true ∧ RouteKind.copy.usesPrinter = true
    ∧ stocked.engines.scannerFault = false ∧ stocked.engines.printerFault = false
    ∧ ({ stocked.pins with paperOut := true } : Pins).paperOut = true
    ∧ startBadField { aStart 3 1 3 with pitch := 0 } .copy = true ∧ routeKindOf 7 = none
    ∧ 3 < (4 : Byte).toNat := by decide +kernel

/-- The last four tests: slot 1 EMPTY, slot 5 of another kind, page 4 FREE, and more blocks reserved than there
are. -/
theorem witness_RouteStartPutsItsRouteInUse_c :
    (∃ x ∈ startBindings (aStart 3 1 3) .copy,
      ((stocked.setTable 1 TableSlot.emptySlot).slotAt x.1).state ≠ .ready)
    ∧ (∀ x ∈ startBindings (aStart 3 1 3) .copy, (stocked.slotAt x.1).state = .ready)
    ∧ (∃ x ∈ startBindings (aStart 3 1 3) .copy,
      ((stocked.setTable 5 (stocked.table 2)).slotAt x.1).kind ≠ some x.2)
    ∧ (∀ x ∈ startBindings (aStart 3 1 3) .copy, (stocked.slotAt x.1).kind = some x.2)
    ∧ RouteKind.pageHost.isReader = true ∧ asFin 32 (4 : Byte).toNat = some 4
    ∧ (stocked.page 4).state ≠ .closed ∧ (stocked.page 3).state = .closed
    ∧ stocked.available < ({ aStart 3 3 3 with reservation := 1008 } : StartBody).reservation.toNat
    ∧ RouteKind.copy.isReader = false ∧ stocked.pins.paperOut = false := by decide +kernel

/-- SETUP's tests for another geometry: out of service, with a route in use, and with a page that is not FREE. -/
theorem witness_SetupSetsItsValues_b :
    ({ live with pool := { live.pool with state := .clearing } } : State).pool.state ≠ .inService
    ∧ (live.setRoute 3 (Route.ofKind .hostStore)).pool.state = .inService
    ∧ (live.setRoute 3 (Route.ofKind .hostStore)).routesInUse ≠ []
    ∧ (paged 0).routesInUse = [] ∧ (∃ p, ((paged 0).page p).state ≠ .free) :=
  ⟨by decide +kernel, by decide +kernel, by decide +kernel, by decide +kernel, 3, by decide +kernel⟩

/-- HALTED, as a halt fixes it. -/
def haltedFate : Fate := { outcome := .halted, cause := none, unterminated := false, close := none }

/-- `stocked` with a PAGE-HOST route in slot 3 that reads page 3. -/
def hosting : State :=
  { (stocked.setRoute 3 { Route.ofKind .pageHost with page := some 3 }).setPage 3
      { stocked.page 3 with readers := 1 } with
    engines := { stocked.engines with hostOut := some 3 }
    hostOut := { HostOut.idleFlow with slot := some 3, bitLength := 8 } }

/-- `hosting` with a LINE-RECEIVE route SEEKING in slot 1 on CODE slot 0, three blocks reserved, every other block
stranded, and a MOVE of PF on slot 5. -/
def booked : State :=
  { ((hosting.setRoute 1 { Route.ofKind .lineReceive with remainder := 3, code := some 0 }).setTable 0
      codeSlot).bind 5 with
    pf :=
      { Motor.idleMotor with
        state := .moving, motion := .move .order, left := 2, timer := some 4000, slot := some 5
        claim := some .move }
    engines := { hosting.engines with line := some 1 }
    line := { LinePort.idlePort with slot := some 1, rx := .seeking }
    pool := { hosting.pool with stranded := 1003 } }

theorem booked_fate : ∀ r, (booked.route r).fate = none := by decide +kernel

theorem booked_pageBooks : booked.PageBooks := by
  refine ⟨?_, ?_, ?_, ?_⟩
  · unfold State.entryBooked State.writes; decide +kernel
  · intro r
    refine ⟨?_, ?_, ?_, ?_⟩
    · revert r; decide +kernel
    · revert r; decide +kernel
    · revert r; decide +kernel
    · intro f h
      rw [booked_fate r] at h; exact nomatch h
  · refine ⟨?_, ?_, ?_, ?_, ?_, ?_, ?_, ?_, ?_, ?_, ?_, ?_⟩
    · exact nofun
    · exact nofun
    · exact nofun
    · intro r h
      have : r = 1 := by revert r; decide +kernel
      subst this; decide +kernel
    · exact nofun
    · intro r h
      have : r = 3 := by revert r; decide +kernel
      subst this; decide +kernel
    · decide +kernel
    · intro _ r h
      have : r = 1 := by revert r; decide +kernel
      subst this; decide +kernel
    · intro h; exact absurd rfl h
    · intro _ r h
      have : r = 1 := by revert r; decide +kernel
      subst this; decide +kernel
    · decide +kernel
    · exact nofun
  · unfold State.bootBooked; decide +kernel

theorem booked_poolBooks : booked.PoolBooks := by
  refine ⟨?_, ?_, ?_, ?_, ?_, ?_, ?_, ?_, ?_, ?_, ?_, ?_, ?_⟩
  · intro _ _
    refine ⟨by decide +kernel, ?_⟩
    intro h k
    have e : booked.pool.freeHead = some 16 := by decide +kernel
    rw [e] at k; cases k; decide +kernel
  · decide +kernel
  · intro h; exact absurd rfl h
  · intro h; exact nomatch h
  · decide +kernel
  · decide +kernel
  · decide +kernel
  · decide +kernel
  · intro _; decide +kernel
  · intro b h; exact nomatch h
  · intro b h; exact nomatch h
  · intro h; exact absurd h (by decide +kernel)
  · intro h; exact absurd h (by decide +kernel)

theorem booked_bindBooks : booked.BindBooks := by
  refine ⟨?_, ?_, ?_, ?_, ?_, ?_, ?_, ?_, ?_, ?_, ?_, ?_, ?_, ?_, ?_, ?_⟩
  iterate 7 · unfold State.claimBooked; decide +kernel
  · decide +kernel
  · unfold State.motorBooked; decide +kernel
  · unfold State.motorBooked; decide +kernel
  · exact nofun
  · exact nofun
  · exact nofun
  · exact nofun
  · decide +kernel
  · exact nofun

theorem witness_StepKeepsQueuesWithin : booked.queuesWf ∧ ∃ t, step booked = .next t :=
  ⟨by unfold State.queuesWf; decide +kernel, _, rfl⟩

theorem witness_StepKeepsThePageBooks : booked.PageBooks ∧ ∃ t, step booked = .next t :=
  ⟨booked_pageBooks, _, rfl⟩

theorem witness_StepKeepsTheBlockBooks :
    booked.PageBooks ∧ booked.PoolBooks ∧ ∃ t, step booked = .next t :=
  ⟨booked_pageBooks, booked_poolBooks, _, rfl⟩

/-- Slot 0 is bound by a route, slot 5 by a MOVE. -/
theorem witness_StepKeepsTheBindings :
    booked.PageBooks ∧ booked.BindBooks ∧ (booked.table 0).binds = 1 ∧ (booked.table 5).binds = 1
      ∧ ∃ t, step booked = .next t :=
  ⟨booked_pageBooks, booked_bindBooks, by decide +kernel, by decide +kernel, _, rfl⟩

/-- `hosting` with the outcome fixed. -/
def deferred : State :=
  hosting.setRoute 3
    { hosting.route 3 with state := .halting, fate := some haltedFate }

/-- `deferred` with the directory write queue full. -/
def deferredFull : State :=
  { deferred.setPage 3 { deferred.page 3 with state := .dropping } with
    pool := { deferred.pool with dirQueue := List.replicate 16 (.link 20 21) } }

theorem witness_RouteEndsInOneEvent :
    (deferred.route 3).fate = some haltedFate ∧ deferred.endNeed 3 haltedFate ≤ deferred.dirPlaces
    ∧ (deferredFull.route 3).fate = some haltedFate
    ∧ deferredFull.dirPlaces < deferredFull.endNeed 3 haltedFate
    ∧ (stocked.route 3).page = none ∧ (deferred.route 3).page = some 3
    ∧ haltedFate.close = none ∧ (deferred.route 3).isReader = true
    ∧ (Route.ofKind .hostStore).isReader = false := by decide +kernel

/-- A reader's page: its last reader on a DROPPING page, DROP-AFTER at DONE with one reader or two, and readers left. -/
theorem witness_RouteEndsInOneEvent_b :
    (deferred.page 3).readers ≤ 1 ∧ (deferredFull.page 3).state = .dropping
    ∧ ({ haltedFate with outcome := .done } : Fate).outcome = .done
    ∧ ({ Route.ofKind .pageHost with dropAfter := true } : Route).dropAfter = true
    ∧ 1 < ((paged 2).page 3).readers ∧ ((paged 2).page 3).state ≠ .dropping
    ∧ haltedFate.outcome ≠ .done ∧ deferred.pool.state = .inService := by decide +kernel

theorem witness_HaltFinishBringsARouteToItsEnd_a :
    asFin 4 (3 : Byte).toNat = some 3
    ∧ (∀ x ∈ ([.armed, .running, .stalled, .halting] : List RouteState),
      let s := hosting.setRoute 3 { hosting.route 3 with state := x }
      s.atHead = true ∧ (s.route 3).state = x)
    ∧ stocked.atHead = true ∧ (stocked.route 3).state = .idle ∧ 3 < (4 : Byte).toNat := by decide +kernel

/-- A route of a kind RUNNING in slot 3, with page 3. -/
def running (k : RouteKind) : State :=
  (stocked.setRoute 3 { Route.ofKind k with page := some 3, code := some 0 }).setPage 3
    { stocked.page 3 with state := if k.isWriter then .opened else .closed }

theorem witness_HaltFinishBringsARouteToItsEnd_b :
    (∀ k ∈ ([.scanStore, .copy, .printPage, .lineReceive, .lineSend, .hostStore, .pageHost] :
        List RouteKind), ((running k).route 3).kind = some k)
    ∧ (running .lineSend).line.txFifo = []
    ∧ ({ LinePort.idlePort with txFifo := [{ byte := 0, mark := none }] } : LinePort).txFifo ≠ []
    ∧ hosting.dataUnderWay 3 = none
    ∧ (let x : OutRecord :=
        { bytes := [], data := some { slot := 3, left := 7, final := false, cutShort := false } }
      ({ hosting with port := { hosting.port with record := some x } } : State).dataUnderWay 3 = some 7)
    ∧ (∀ x ∈ ([.none, .feedIn, .lead, .capture, .trail, .eject] : List FeedPhase),
      ({ live.scanner with phase := x } : Scanner).phase = x)
    ∧ live.sf.state ≠ .moving ∧ ({ live.sf with state := .moving } : Motor).state = .moving
    ∧ ({ Route.ofKind .copy with halt := .finish } : Route).halt = .finish := by decide +kernel

/-- A PRINT-PAGE route in its cut. -/
def cutting (halt : HaltMode) : State :=
  let s := (running .printPage).setRoute 3 { (running .printPage).route 3 with halt := halt }
  { s with cutter := { state := .out, timer := some 1500000, owner := some (.route 3) } }

/-- The same, the part in a stutter: the request stands and the store is entering self-refresh. -/
def stuttering : State :=
  let s := cutting .none
  { s with
    engines := { s.engines with printer := some 3, decoder := some 3 }
    store := { s.store with state := .entering, request := .ordinary }
    power := { s.power with stutter := true, request := .ordinary } }

theorem witness_HaltNowEndsARouteAtOnce_c :
    (cutting .none).atHead = true ∧ ((cutting .none).route 3).live = true
    ∧ ((cutting .none).route 3).halt ≠ .nowWaiting ∧ ((cutting .none).route 3).state ≠ .armed
    ∧ ((cutting .none).route 3).usesPrinter = true ∧ (cutting .none).cutter.cutting = true
    ∧ (cutting .nowWaiting).atHead = true ∧ ((cutting .nowWaiting).route 3).halt = .nowWaiting
    ∧ ((cutting .nowWaiting).route 3).inUse = true ∧ 3 < (4 : Byte).toNat
    ∧ (stuttering.route 3).live = true ∧ (stuttering.route 3).halt ≠ .nowWaiting
    ∧ (stuttering.route 3).state ≠ .armed ∧ stuttering.engines.printer = some 3
    ∧ stuttering.power.level = some .run ∧ stuttering.power.request = .ordinary
    ∧ (stuttering.route 3).kind = some .printPage := by decide +kernel

/-- Hand-read from R154: the stutter request of a route that HALT NOW leaves waiting on its cut is withdrawn in the
event, and the store in ENTERING returns to ON. -/
theorem test_halt_now_in_a_cut_withdraws_stutter :
    (after (.routeHaltNow 3) stuttering).map
        (fun t => ((t.route 3).state, t.power.request, t.store.state))
      = some (.halting, .none, .on) := by decide +kernel

/-- Hand-read from R72: a failed link word of a route that waits on its cut under NOW ends it FAILED(MEMORY). -/
theorem test_failed_link_while_waiting_on_a_cut :
    (after (.routeHaltNow 3) stuttering).map
        (fun t =>
          let x := (t.readerLink .print none).route 3
          (x.state, x.outcome, x.cause))
      = some (.idle, some .failed, some .memory) := by decide +kernel

theorem witness_HaltNowEndsARouteAtOnce_a :
    asFin 4 (3 : Byte).toNat = some 3 ∧ hosting.atHead = true ∧ (hosting.route 3).live = true
    ∧ (hosting.route 3).halt ≠ .nowWaiting ∧ (hosting.route 3).state ≠ .armed
    ∧ ((hosting.route 3).usesPrinter && hosting.cutter.cutting) = false
    ∧ (let s := hosting.setRoute 3 { hosting.route 3 with state := .armed }
      s.atHead = true ∧ (s.route 3).live = true ∧ (s.route 3).state = .armed)
    ∧ deferred.atHead = true ∧ (deferred.route 3).inUse = true ∧ (deferred.route 3).fate ≠ none
    ∧ stocked.atHead = true ∧ (stocked.route 3).state = .idle := by decide +kernel

theorem witness_HaltNowEndsARouteAtOnce_b :
    (hosting.route 3).live = true ∧ hosting.abruptClose 3 = haltedFate.close
    ∧ haltedFate.outcome = .halted ∧ haltedFate.cause = none ∧ haltedFate.unterminated = false
    ∧ (let stopped := (hosting.stopFlows 3).orphanBurst (hosting.route 3).kind
      stopped.endNeed 3 haltedFate ≤ stopped.dirPlaces) := by decide +kernel

/-- `live` with a HOST-STORE route in slot 3, `n` words in its queue. -/
def storing (n : Nat) (half : Option Byte) : State :=
  { live.setRoute 3 (Route.ofKind .hostStore) with
    engines := { live.engines with hostIn := some 3 }
    hostIn := { HostIn.idleFlow with slot := some 3, queue := List.replicate n 0, half := half } }

/-- Room for the bytes: an empty queue with 128 of them, and 63 words and a half with one. -/
theorem witness_DataBytesJoinTheHostQueue :
    asFin 4 (3 : Byte).toNat = some 3
    ∧ (storing 0 none).atHead = true ∧ (storing 0 none).dataRefusal 3 3 128 = none
    ∧ (storing 0 none).hostIn.slot = some 3
    ∧ (storing 0 none).hostIn.queue.length
      + ((storing 0 none).hostIn.half.toList.length + 128) / 2 ≤ 64
    ∧ ((0 : Byte).getLsbD 1 = true → (0 : Byte).getLsbD 0 = true) ∧ (3 : Byte).toNat ≤ 3
    ∧ (stocked.route 3).kind ≠ some .hostStore ∧ ((storing 0 none).route 3).kind = some .hostStore
    ∧ ((storing 0 none).route 3).fate = none ∧ ((storing 0 none).route 3).state = .running
    ∧ (storing 0 none).hostIn.finalTaken = false
    ∧ (storing 63 (some 1)).dataRefusal 3 0 1 = none
    ∧ (storing 63 (some 1)).hostIn.queue.length
      + ((storing 63 (some 1)).hostIn.half.toList.length + 1) / 2 ≤ 64 := by decide +kernel

theorem witness_MovesAndCutsStartTheirMotions_a :
    let b : MoveBody := { motor := 1, steps := 0xFFFF, direction := 1, slot := 5, top := 127 }
    ramped.atHead = true ∧ motorOf b.motor = some .sf ∧ asFin 16 b.slot.toNat = some 5
    ∧ ramped.moveRefusal b = none ∧ (ramped.motor .sf).copy = none
    ∧ b.steps ≠ 0 ∧ b.direction.toNat ≤ 1 ∧ b.top.toNat ≤ 127
    ∧ ramped.motorRoute .sf = none ∧ (ramped.motor .sf).claim = none ∧ ramped.pins.coverOpen = false
    ∧ (ramped.table 5).state = .ready ∧ (live.table 5).state ≠ .ready := by decide +kernel

theorem witness_MovesAndCutsStartTheirMotions_b :
    (let s : State := { live with cutter := { state := .out, timer := some 9, owner := none } };
      s.atHead = true ∧ s.engines.printer = none ∧ s.cutter.owner ≠ some .order
        ∧ s.cutter.cutting = true ∧ s.cutter.owner = none)
    ∧ live.atHead = true ∧ live.engines.printer = none ∧ live.cutter.owner ≠ some .order
    ∧ live.pins.coverOpen = false ∧ live.cutter.state = .idle
    ∧ ({ live.engines with printer := some 0 } : Engines).printer ≠ none
    ∧ ({ live.pins with coverOpen := true } : Pins).coverOpen = true := by decide +kernel

/-- `live` with a self-refresh request standing and the controller in a state. -/
def requested (x : StoreState) : State :=
  { live with
    power := { live.power with request := .ordinary }
    store := { live.store with request := .ordinary, state := x } }

theorem witness_LevelOrdersRunAndDoze_a :
    live.atHead = true ∧ live.power.request ≠ .ordinary
    ∧ (requested .entering).atHead = true ∧ (requested .entering).power.request = .ordinary
    ∧ (requested .entering).store.request = .ordinary ∧ (requested .entering).store.state = .entering
    ∧ (requested .selfRefresh).store.state = .selfRefresh
    ∧ ((1 : Byte).getLsbD 0 || (1 : Byte).getLsbD 1 || decide (7 < (1 : Byte).toNat)) = true
    ∧ ((8 : Byte).getLsbD 0 || (8 : Byte).getLsbD 1 || decide (7 < (8 : Byte).toNat)) = true := by
  decide +kernel

theorem witness_LevelOrdersRunAndDoze_b :
    live.atHead = true ∧ (3 : Byte).toNat ≤ 3 ∧ live.routesInUse = [] ∧ live.pool.state = .inService
    ∧ live.pf.state = .idle ∧ live.sf.state = .idle ∧ live.pf.claim = none ∧ live.sf.claim = none
    ∧ live.cutter.cutting = false ∧ live.pins.wake = false ∧ live.power.request = .none
    ∧ hosting.routesInUse = [3] ∧ (hosting.route 3).kind ≠ some .lineReceive
    ∧ (let s := live.setRoute 3 { Route.ofKind .lineReceive with state := .armed }
      s.routesInUse.length ≤ 1
        ∧ ∀ r ∈ s.routesInUse, (s.route r).kind = some .lineReceive ∧ (s.route r).state = .armed)
    ∧ ({ live.pool with dirQueue := [.link 20 21] } : Pool).dirQueue ≠ []
    ∧ live.pool.dirQueue = [] ∧ live.store.state = .on ∧ live.store.burst = none
    ∧ live.store.backlog = 0 ∧ live.urgentWaits = false := by decide +kernel

theorem witness_QueriesAndMarksAreAnsweredInOrder :
    live.atHead = true ∧ live.holdsKind 0x8B = false ∧ live.holdsKind 0x8C = false
    ∧ 31 < (32 : Byte).toNat ∧ 3 < (4 : Byte).toNat ∧ 15 < (16 : Byte).toNat ∧ (1 : Byte) ≠ 0 := by
  decide +kernel

theorem witness_ClearsEndTheirFaults :
    live.atHead = true ∧ live.pins.coverOpen = false
    ∧ ({ live with pins := { live.pins with coverOpen := true } } : State).atHead = true
    ∧ (paged 0).atHead = true ∧ (paged 0).pool.state = .inService
    ∧ (∀ r ∈ (paged 0).routesInUse, ((paged 0).route r).isWriter = false)
    ∧ (∀ r ∈ hosting.routesInUse, (hosting.route r).isWriter = false)
    ∧ (∃ r ∈ (running .hostStore).routesInUse, ((running .hostStore).route r).isWriter = true)
    ∧ (running .hostStore).atHead = true ∧ (running .hostStore).pool.state = .inService
    ∧ ({ live with pool := { live.pool with state := .rebuilding } } : State).atHead = true := by
  decide +kernel

theorem witness_RefusedOrdersChangeNothingElse :
    live.atHead = true ∧ live.setupRefusal (aSetup 1000 0) false = some .badField
    ∧ live.startRefusal (aStart 3 4 3) = some .tableNotReady ∧ routeKindOf 4 ≠ some .hostStore
    ∧ ({ stocked with pool := { stocked.pool with state := .clearing } } : State).startRefusal
        (aStart 3 5 3) = some .busy
    ∧ stocked.pool.dirQueue.length + 2 ≤ 16 ∧ OrderKind.setup.bodyLength ≠ some ([] : List Byte).length
    ∧ live.orderHeld .setup [] = false
    ∧ live.dataRefusal 3 0 1 = some .noRoute ∧ ([0] : List Byte).length ≤ 1036
    ∧ live.moveRefusal { motor := 0, steps := 0, direction := 0, slot := 5, top := 0 } = some .badField
    ∧ live.levelRefusal 1 4 = some .badField := by decide +kernel

/-! ## Witnesses: the stream port and the boot ROM -/

/-- `live` in HUNT, with some bytes of the sequence matched. -/
def hunting (n : Nat) : State :=
  { live with parser := { Parser.start with source := .port, state := .hunt, matched := n } }

theorem witness_MalformedHeadersLeadToHunt :
    live.atHead = true ∧ (0x55 : Byte) ≠ 0x7E ∧ OrderKind.ofByte 0x55 = none
    ∧ 1040 < (1041 : Word).toNat ∧ (hunting 3).parser.state = .hunt
    ∧ (hunting 3).power.level = some .run ∧ (hunting 3).port.inFifo = []
    ∧ huntMatched (hunting 3).parser.matched 0x81 = 4
    ∧ huntMatched (hunting 3).parser.matched 0x7E ≠ 4 := by decide +kernel

/-- `live` at a level. -/
def atLevel (x : Level) : State := { live with power := { live.power with level := some x } }

theorem witness_InboundBytesReachTheParser_a :
    live.atHead = true ∧ (atLevel .doze).inboundReady = true ∧ (atLevel .doze).parser.source = .port
    ∧ (atLevel .doze).power.level ≠ some .run ∧ (atLevel .retain).inboundReady = false
    ∧ (let s : State := { live with port := { live.port with inFifo := [1] } }
      s.boot.state = .ready ∧ s.power.level = some .run ∧ s.parser.source = .port
        ∧ s.parser.state = .head ∧ s.parser.header = [] ∧ s.port.inFifo = [1]) := by decide +kernel

/-- `live` in the body of an order of a kind, `length` bytes, some of them taken. -/
def inBody (kind : Byte) (length : Nat) (body : List Byte) (use : BodyUse) : State :=
  { live with
    reports := [{ report := .mark 7, count := 1, withheld := false }]
    port := { live.port with inFifo := [1] }
    parser :=
      { Parser.start with
        state := .body, source := .port, kind := kind, length := length, body := body
        taken := body.length, use := use } }

/-- A second MARK is held at its last byte, a QUERY is not. -/
theorem witness_InboundBytesReachTheParser_b :
    (inBody 0x0C 2 [5] .collect).port.inFifo = 1 :: []
    ∧ ({ inBody 0x0C 2 [5] .collect with port := live.port } : State).takeByte 1 = none
    ∧ ((({ inBody 0x0B 2 [2] .collect with port := live.port } : State).takeByte 0).map
      fun t => t.port.inFifo) = some []
    ∧ (∀ k ∈ ([0x0B, 0x0C] : List Byte), (OrderKind.ofByte k).isSome = true
      ∧ (inBody k 2 [5] .collect).power.level = some .run
      ∧ (inBody k 2 [5] .collect).parser.source = .port ∧ (inBody k 2 [5] .collect).parser.state = .body
      ∧ (inBody k 2 [5] .collect).parser.length = (inBody k 2 [5] .collect).parser.taken + 1)
    ∧ (inBody 0x0C 2 [5] .collect).orderHeld .mark [5, 1] = true
    ∧ (inBody 0x0B 2 [2] .collect).orderHeld .query [2, 0] = false
    ∧ (∀ n ∈ [14, 15], ({ live with pool :=
        { live.pool with dirQueue := List.replicate n (.link 20 21) } } : State).orderHeld .routeStart
          (startBytes (aStart 3 5 3)) = decide (n = 15))
    ∧ (startBytes (aStart 3 5 3)).length = 30 := by decide +kernel

/-- A DATA byte with 64 words queued, one waiting for its second half or not; and a PAGE DROP without places. -/
theorem witness_InboundBytesReachTheParser_c :
    (∀ half ∈ [none, some (1 : Byte)],
      let s : State := { storing 64 half with parser :=
        { Parser.start with
          state := .body, source := .port, kind := 0x07, length := 20, taken := 4, use := .place 3 true } }
      s.parser.use = .place 3 true ∧ s.hostIn.slot = some 3 ∧ (s.route 3).live = true
        ∧ s.hostIn.half = half ∧ 64 ≤ s.hostIn.queue.length ∧ s.parser.taken + 1 < s.parser.length)
    ∧ (storing 63 none).hostIn.queue.length < 64
    ∧ asFin 32 (3 : Byte).toNat = some 3 ∧ (paged 0).dropPageRefusal 3 = none
    ∧ (∀ n ∈ [14, 15], let s : State := { paged 0 with pool :=
        { (paged 0).pool with dirQueue := List.replicate n (.link 20 21) } }
      decide (s.dirPlaces < s.freeNeed 3) = decide (n = 15)) := by decide +kernel

/-- Two reports, the older withheld. -/
def twoReports : List QueueEntry :=
  [{ report := .poolLow, count := 1, withheld := true },
    { report := .mark 7, count := 1, withheld := false }]

theorem witness_ReportsLeaveAsRecords :
    live.port.record = none ∧ live.mayBegin = true
    ∧ ({ live with reports := twoReports } : State).reports
      = [{ report := .poolLow, count := 1, withheld := true }]
        ++ { report := .mark 7, count := 1, withheld := false } :: []
    ∧ (let s : State := { live with port := { live.port with
          record := some { bytes := [0x12], data := none }, outFifo := List.replicate 63 0 } }
      s.port.record = some { bytes := [0x12], data := none } ∧ s.muxRuns = true
        ∧ s.port.outFifo.length < 64)
    ∧ ({ live.port with outFifo := [1, 2] } : Port).outFifo = 1 :: [2] ∧ live.port.outFifo = [] := by
  decide +kernel

/-- `hosting` with a word of its page queued. -/
def feeding : State :=
  { hosting with hostOut := { hosting.hostOut with fetch := { Fetch.idle with queue := [0x8000] } } }

/-- A DATA report of the route in slot 3 under way. -/
def reporting (bytes : List Byte) (left : Nat) (cutShort : Bool) : State :=
  { feeding with port :=
    { feeding.port with
      record := some
        { bytes := bytes, data := some { slot := 3, left := left, final := true, cutShort := cutShort } } } }

theorem witness_ReportsLeaveAsRecords_b :
    feeding.port.record = none ∧ feeding.mayBegin = true ∧ (∀ e ∈ feeding.reports, e.withheld = true)
    ∧ feeding.hostOut.slot = some 3 ∧ (feeding.route 3).live = true ∧ (feeding.route 3).halt = .none
    ∧ feeding.hostOut.finalBegun = false ∧ feeding.hostOut.sent = feeding.hostOut.begun
    ∧ (∀ c ∈ [true, false],
      (reporting [] 1 c).muxRuns = true ∧ (reporting [] 1 c).port.outFifo.length < 64
      ∧ (reporting [] 1 c).heldByDamage 3 = false
      ∧ (reporting [] 1 c).hostOut.fetch.queue = 0x8000 :: [])
    ∧ (reporting [1] 0 false).muxRuns = true := by decide +kernel

/-- In replay, at a position of the image, the retained flag as given. -/
def replayAt (pos : Nat) (retained : Bool) : State :=
  { State.reset with
    store := live.store
    boot := { State.reset.boot with state := .romReplay, romPos := pos, retained := retained } }

theorem witness_ReplayEndsWithItsOutcome :
    (∀ b ∈ [true, false], (replayAt 0 b).replaying = true ∧ (replayAt 0 b).boot.romPos = 0
      ∧ (replayAt 0 b).parser.source = .rom ∧ (replayAt 0 b).parser.state = .head
      ∧ (replayAt 0 b).parser.header = [] ∧ (replayAt 16 b).replaying = true
      ∧ (replayAt 16 b).replayHead = true ∧ (replayAt 65531 b).replayHead = true
      ∧ (1 : Word) ≠ (replayAt 16 b).boot.imageSum)
    ∧ (0x02 : Byte) ≠ 0xFF ∧ (0x02 : Byte) ≠ 0x01 := by decide +kernel

/-- The boot in a state. -/
def booting (x : BootState) : State :=
  { replayAt 16 true with boot := { (replayAt 16 true).boot with state := x, marks := [20, 21] } }

theorem witness_BootGoesWarmColdOrFailSafe_a :
    (let w (v : StoreWord) : ReadWord := decodeWord v
     let e (v : Word) : ReadWord := decodeWord (encodeWord v)
     (∃ x ∈ [w 3, w 0, w 0, w 0], x.cls = some .uncorrectable)
     ∧ (∀ x ∈ [e 0x4C4A, e 0x3420, e 1024, e 0xC1EA], x.cls ≠ some .uncorrectable)
     ∧ (e 0).data ≠ 0x4C4A ∧ (e 0x4C4A).data = 0x4C4A ∧ (e 0x3420).data = 0x3420
     ∧ (e 1024).data.toNat = 1024 ∧ (e 2048).data.toNat ≠ 1024)
    ∧ ({ (booting .romReplay).boot with task := .readHeader } : Boot).task = .readHeader
    ∧ wordSum (((paged 0).page 3).image.take 15) = (((paged 0).page 3).image.getD 15 0).toNat
    ∧ ((((paged 0).page 3).image.getD 0 0).toNat, (PageEntry.freeEntry.image.getD 0 0).toNat) = (2, 0)
    ∧ (({ (paged 0).page 3 with state := .opened } : PageEntry).image.getD 0 0).toNat = 1
    ∧ (let e := (paged 0).page 3
      (paged 0).store.geometry ≤ 4096 ∧ e.state = .closed ∧ e.readers = 0 ∧ e.owner = none
        ∧ 1 ≤ e.pitch ∧ e.pitch ≤ 3 ∧ e.codeSlot ≤ 15 ∧ (paged 0).isData e.head = true
        ∧ (paged 0).isData e.tail = true ∧ 1 ≤ e.blockCount ∧ e.blockCount ≤ (paged 0).dataBlocks
        ∧ e.bitLength ≤ e.blockCount * 8192 ∧ e.lineCount = some 0 ∧ e.badLines ≤ 65535)
    ∧ (decodeWord (encodeWord 0xFFFF)).data.toNat = 0xFFFF
    ∧ (decodeWord (encodeWord 30)).cls ≠ some .uncorrectable ∧ (booting .warmRebuild).isData 30 = true
    ∧ 30 ∉ (booting .warmRebuild).boot.marks ∧ 20 ∈ (booting .warmRebuild).boot.marks := by
  decide +kernel

theorem witness_BootGoesWarmColdOrFailSafe_b :
    (booting .warmRebuild).boot.marks.Nodup
    ∧ (∀ b ∈ (booting .warmRebuild).boot.marks, (booting .warmRebuild).isData b = true)
    ∧ (booting .warmRebuild).isData 16 = true ∧ 16 ∉ (booting .warmRebuild).boot.marks
    ∧ (22 : Nat) < (booting .warmRebuild).store.geometry ∧ 22 ∉ (booting .warmRebuild).boot.marks
    ∧ (∀ k < 22, 20 ≤ k → k ∈ (booting .warmRebuild).boot.marks)
    ∧ (booting .warmRebuild).store.geometry = 1024
    ∧ ({ (booting .coldClear).boot with task := .clear (1024 * 512 - 8) } : Boot).task
      = .clear (1024 * 512 - 8)
    ∧ (∀ x ∈ ([.memoryStart, .release, .romReplay, .warmRebuild, .coldClear, .hold, .failSafe] :
        List BootState), (booting x).boot.state = x ∧ (booting x).store.state = .on
      ∧ (booting x).store.burst = none ∧ (booting x).store.backlog = 0
      ∧ (booting x).power.level = none)
    ∧ (bursting .scrub).store.burst ≠ none := by decide +kernel

/-- The image of page 3, whose head is block 20, read whole: its entry is walked, its head marked or not. -/
theorem witness_BootGoesWarmColdOrFailSafe_c :
    let e := (paged 0).page 3
    let xs := (e.image.drop 8).map fun w => decodeWord (encodeWord w)
    (booting .warmRebuild).classify (e.image.take 8 ++ xs.map ReadWord.data)
        (false || xs.any fun x => x.cls = some .uncorrectable) = .walked e
    ∧ e.head ∈ (booting .warmRebuild).boot.marks
    ∧ ({ booting .warmRebuild with boot := { (booting .warmRebuild).boot with marks := [] } } :
        State).classify (e.image.take 8 ++ xs.map ReadWord.data)
        (false || xs.any fun x => x.cls = some .uncorrectable) = .walked e := by decide +kernel

/-- An image of a CLOSED page with a good check word that is out of form: a pitch of 4. -/
theorem witness_BootGoesWarmColdOrFailSafe_d :
    let e := { (paged 0).page 3 with pitch := 4 }
    wordSum (e.image.take 15) = (e.image.getD 15 0).toNat ∧ (e.image.getD 0 0).toNat = 2
    ∧ ¬(e.image.getD 2 0).toNat ≤ 3 ∧ (booting .warmRebuild).classify e.image false = .discarded := by
  decide +kernel

/-! ## Witnesses: the page store -/

/-- `live` with a link write waiting and a backlog. -/
def asking (backlog : Nat) : State :=
  { live with
    pool := { live.pool with dirQueue := [.link 20 21] }
    store := { live.store with backlog := backlog } }

theorem witness_GrantsFollowThePriority_a :
    (asking 0).store.burst = none ∧ (asking 0).nextBurst.1 = some (.dirLink 20 21)
    ∧ (asking 0).nextBurst.2.inStore (.dirLink 20 21) = true
    ∧ ({ live with pool := { live.pool with dirQueue := [.link 600000 0] } } : State).nextBurst.2.inStore
        (.dirLink 600000 0) = false
    ∧ (bursting .scrub).store.burst ≠ none ∧ live.nextBurst.1 = none := by decide +kernel

theorem witness_GrantsFollowThePriority_b :
    (asking 7).store.state = .on ∧ 7 ≤ (asking 7).store.backlog ∧ (asking 6).store.backlog < 7
    ∧ (asking 6).wantRx = none ∧ (asking 6).wantTx = none ∧ (asking 6).wantPrint = none
    ∧ (asking 6).dirSources ≠ [] ∧ live.dirSources = [] ∧ live.wantRx = none ∧ live.wantTx = none
    ∧ live.wantPrint = none ∧ live.wantScan = none ∧ live.wantHostIn = none ∧ live.wantHostOut = none
    ∧ ({ live.store with backlog := 1 } : Store).backlog < 7 ∧ live.store.backlog = 0
    ∧ ({ live.store with scrubWaiting := true } : Store).scrubWaiting = true
    ∧ (requested .selfRefresh).store.state = .selfRefresh ∧ State.reset.store.state = .init := by
  decide +kernel

/-- A page block with words to write or to fetch. -/
def flow : Writer := { Writer.fresh with room := 512 }
def fetching : Fetch := { active := true, block := 20, offset := 0, left := 8, queue := [] }

theorem witness_GrantsFollowThePriority_c :
    ({ running .lineReceive with line :=
        { LinePort.idlePort with
          slot := some 3, rx := .storing, rxFifo := List.replicate 16 0, writer := flow } } : State).wantRx.isSome
      = true
    ∧ ({ running .lineSend with line :=
        { LinePort.idlePort with
          slot := some 3, tx := .priming, bitLength := 128, fetch := fetching } } : State).wantTx.isSome
      = true
    ∧ ({ running .printPage with printDec :=
        { PrintDecoder.idleDecoder with
          slot := some 3, bitLength := 128, fetch := fetching } } : State).wantPrint.isSome = true
    ∧ ({ running .scanStore with coder :=
        { Coder.idleCoder with
          slot := some 3, state := .waiting, queue := List.replicate 8 0, writer := flow } } : State).wantScan.isSome
      = true
    ∧ ({ running .hostStore with hostIn :=
        { HostIn.idleFlow with
          slot := some 3, queue := List.replicate 8 0, writer := flow } } : State).wantHostIn.isSome = true
    ∧ ({ running .pageHost with hostOut :=
        { HostOut.idleFlow with
          slot := some 3, bitLength := 128, fetch := fetching } } : State).wantHostOut.isSome = true := by
  decide +kernel

theorem witness_GrantsFollowThePriority_d :
    (let u := ((bursting (.refreshRow false)).endBurst
        { kind := .refreshRow false, orphan := false, page := none } []).react.resume (some .run)
     u.nextBurst.1 = none)
    ∧ (let s : State := { bursting (.refreshRow false) with pool := (asking 0).pool }
      let u := (s.endBurst
        { kind := .refreshRow false, orphan := false, page := none } []).react.resume (some .run)
      u.store.burst = none ∧ u.nextBurst.1 = some (.dirLink 20 21)
        ∧ u.nextBurst.2.inStore (.dirLink 20 21) = true) := by decide +kernel

/-- A LINE-RECEIVE route that stores, 16 bytes in its FIFO and a block to write them to. -/
def receivingMuch : State :=
  { running .lineReceive with line :=
    { LinePort.idlePort with
      slot := some 3, rx := .storing, rxFifo := List.replicate 16 0, writer := flow } }

theorem witness_BurstEndsServeTheirClients_a :
    1 < State.reset.store.initLeft
    ∧ (∀ x ∈ ([.hold, .memoryStart] : List BootState),
      let s : State := { State.reset with
        store := { State.reset.store with initLeft := 1 }, boot := { State.reset.boot with state := x } }
      s.store.initLeft = 1 ∧ s.boot.state = x ∧ s.boot.task ≠ .failOn ∧ s.power.level = none
        ∧ s.store.request = .none)
    ∧ live.store.state ≠ .entering
    ∧ (let s : State := { receivingMuch with store := (requested .entering).store }
      s.store.state = .entering ∧ s.store.request ≠ .retain ∧ s.urgentWaits = true)
    ∧ (requested .entering).store.state = .entering ∧ (requested .entering).urgentWaits = false
    ∧ (requested .entering).power.level = some .run
    ∧ (asking 0).pool.dirQueue = .link 20 21 :: []
    ∧ (∀ half ∈ [false, true],
      ({ live.pool with dirQueue := [.image 3 (some (List.replicate 16 0)) half] } : Pool).dirQueue
        = .image 3 (some (List.replicate 16 0)) half :: [])
    ∧ (asking 1).store.state = .on ∧ 0 < (asking 1).store.backlog := by decide +kernel

/-- `hosting` with its fetch active, and two bits in error in the word at 9000, one in the word at 0. -/
def spoilt : State :=
  { hosting with
    hostOut := { hosting.hostOut with fetch := fetching }
    store := { hosting.store with dram := [(0, 1), (9000, 3)] } }

theorem witness_BurstEndsServeTheirClients_b :
    (∀ x ∈ dramReadWords spoilt.store.dram 9001 8, x.cls = none)
    ∧ (∃ x ∈ dramReadWords spoilt.store.dram 9000 8, x.cls = some .uncorrectable)
    ∧ spoilt.power.level = some .run ∧ (spoilt.page 3).state = .closed ∧ (spoilt.page 3).damaged = false
    ∧ spoilt.imageNeed 3 ≤ spoilt.dirPlaces ∧ spoilt.pool.damage = [] ∧ spoilt.readerPage .host = some 3
    ∧ spoilt.readerSlot .host = some 3 ∧ (spoilt.fetchOf .host).active = true
    ∧ spoilt.linkOf 20 [decodeWord (encodeWord 30)] = some 30 ∧ spoilt.isData 30 = true
    ∧ spoilt.linkPasses (spoilt.linkOf 20 [decodeWord 3]) = false
    ∧ spoilt.linkPasses (spoilt.linkOf 20 [decodeWord (encodeWord 15)]) = false
    ∧ dramWf spoilt.store.dram = true ∧ spoilt.store.scrubPos = 0
    ∧ (decodeWord (dramRead spoilt.store.dram 0)).cls = some .corrected
    ∧ (decodeWord (dramRead spoilt.store.dram 7)).cls ≠ some .corrected := by decide +kernel

/-- A LINE-RECEIVE route's reservation of two blocks, or none, beside the blocks of `paged 0`. -/
def reserving (n : Nat) : State :=
  (paged 0).setRoute 1 { Route.ofKind .lineReceive with remainder := n }

theorem witness_PagesTakeAndReturnTheirBlocks_a :
    (reserving 2).pool.state = .inService ∧ 0 < ((reserving 2).route 1).remainder
    ∧ ((reserving 4).route 0).remainder = 0 ∧ (reserving 4).available = 0
    ∧ ({ live.pool with state := .rebuilding } : Pool).state ≠ .inService
    ∧ (paged 0).pool.spare = 18 :: [19] ∧ (paged 0).freeEntry = some 0
    ∧ ({ live with pages := Vector.replicate 32 ((paged 0).page 3) } : State).freeEntry = none
    ∧ live.askBlock 0 = .cannot ∧ (paged 0).askBlock 0 = .give ∧ (paged 0).dirPlaces = 16
    ∧ (paged 0).power.level = some .run ∧ live.available = 0 ∧ (paged 0).available = 4
    ∧ ({ live.setup with lowMark := 5 } : Setup).lowMark = 5
    ∧ (let s := (running .scanStore).setRoute 3 { (running .scanStore).route 3 with state := .stalled }
      let t : State := { s with coder :=
        { Coder.waitingFor 3 with writer := { Writer.fresh with starved := true } } }
      0 < t.available ∧ t.coder.slot = some 3 ∧ t.coder.writer.starved = true
        ∧ (t.route 3).state = .stalled) := by decide +kernel

/-- `paged 0` with the walk of page 3's chain at a block, `left` blocks from it on. -/
def walking (left : Nat) : State :=
  { live with pool :=
    { live.pool with
      state := .rebuilding
      rebuild := some { at_ := .walking 3 20 left, marks := [20], joined := [] } } }

theorem witness_PagesTakeAndReturnTheirBlocks_b :
    (paged 0).pool.state = .inService ∧ (paged 0).pool.freeHead = some 16 ∧ 1 < (paged 0).pool.freeCount
    ∧ (paged 0).pool.spare.length < 4 ∧ (paged 0).linkOf 16 [decodeWord (encodeWord 17)] = some 17
    ∧ (paged 0).isData 17 = true ∧ ({ (paged 0).pool with freeCount := 1 } : Pool).freeCount = 1
    ∧ (paged 0).linkOf 16 [decodeWord 3] = none
    ∧ (paged 0).linkPasses ((paged 0).linkOf 16 [decodeWord (encodeWord 1024)]) = false
    ∧ (∀ left ∈ [2, 3], ((walking left).pool.rebuild.map Rebuild.at_) = some (.walking 3 20 left)
      ∧ (walking left).retaining = false ∧ (walking left).linkOf 20 [decodeWord (encodeWord 21)] = some 21
      ∧ (walking left).isData 21 = true ∧ (walking left).linkOf 20 [decodeWord (encodeWord 20)] = some 20)
    ∧ ({ live.boot with task := .geometryHeader } : Boot).task = .geometryHeader := by decide +kernel

/-- A block to give with the places at hand, or without them; no block to give; no entry; spare blocks to come. -/
theorem witness_PagesTakeAndReturnTheirBlocks_c :
    (paged 0).askBlock 0 = .give ∧ (paged 0).freeEntry = some 0
    ∧ 2 + (paged 0).imageNeed 0 ≤ (paged 0).dirPlaces
    ∧ (let s : State := { paged 0 with pool :=
          { (paged 0).pool with dirQueue := List.replicate 15 (.link 20 21) } }
      s.askBlock 0 = .give ∧ s.freeEntry = some 0 ∧ s.dirPlaces < 1 + s.imageNeed 0)
    ∧ (let s : State := { paged 0 with pages := Vector.replicate 32 ((paged 0).page 3) }
      s.askBlock 0 = .give ∧ s.freeEntry = none ∧ 2 ≤ s.dirPlaces)
    ∧ ({ paged 0 with pool := { (paged 0).pool with spare := [] } } : State).askBlock 0 = .wait := by
  decide +kernel

theorem witness_StoreTimersAndWaking :
    live.store.refreshTimer = some 15 ∧ live.store.scrubTimer = none
    ∧ ({ live.store with scrubTimer := some 100000 } : Store).scrubTimer = some 100000
    ∧ State.reset.store.refreshTimer = none
    ∧ (let s : State := { atLevel .waking with
          store := { live.store with state := .waking, wakeTimer := some 200 } }
      s.store.state = .waking ∧ s.store.wakeTimer = some 200 ∧ s.store.request = .none
        ∧ s.boot.state = .ready ∧ s.boot.task = .none ∧ s.pool.state ≠ .clearing) := by decide +kernel

/-! ## Witnesses: coding and the line -/

theorem witness_CoderKeepsEveryBit_b :
    let s : State := { running .scanStore with coder :=
      { Coder.idleCoder with
        slot := some 3, state := .coding, codes := [[true, false]], writer := flow } }
    s.coder.runs = [] ∧ s.coder.slot = some 3 ∧ s.coder.state = .coding ∧ s.coder.codes = [[true, false]]
    ∧ (s.route 3).live = true ∧ ([true, false] : Bits).length ≤ s.coder.space := by decide +kernel

/-- A PRINT-PAGE route whose decoder stands at the code of a white 36, `sum` dots into its line. -/
def decoding (sum bits : Nat) : State :=
  { running .printPage with printDec :=
    { PrintDecoder.idleDecoder with
      slot := some 3, bitLength := bits
      dec := { Decoder.start with state := .line, sum := sum }
      fetch := { Fetch.idle with active := true, queue := [0x4000] } } }

theorem witness_DecodersHandOverAndCountLines_a :
    (decoding 1692 8).printMove.map (fun x => (x.1, x.2.2)) = some (3, .good)
    ∧ (decoding 1700 8).printMove.map (fun x => (x.1, x.2.2)) = some (3, .bad)
    ∧ (decoding 0 0).printMove.map (fun x => (x.1, x.2.2)) = some (3, .ended false) := by
  decide +kernel

theorem witness_DecodersHandOverAndCountLines_b :
    let s : State := { running .lineSend with line :=
      { LinePort.idlePort with slot := some 3, tx := .priming } }
    s.line.slot = some 3 ∧ (s.route 3).kind = some .lineSend ∧ (s.route 3).live = true
    ∧ (s.route 3).halt ≠ .finish ∧ s.heldByDamage 3 = false ∧ (s.txMove 3 true).isSome = true := by
  decide +kernel

theorem witness_DecodersHandOverAndCountLines_c :
    let x := { Route.ofKind .lineReceive with badLimit := 3, consecBad := 2 }
    0 < x.badLimit ∧ min (x.consecBad + 1) 65535 = x.badLimit ∧ x.badReported = false
    ∧ x.kind ≠ some .printPage ∧ (Route.ofKind .lineReceive).badLimit = 0 := by decide +kernel

/-- A PRINT-PAGE route one bad line short of its limit of 3, its page in a state, `n` directory writes waiting. -/
def failing (state : PageState) (damaged : Bool) (n : Nat) : State :=
  { ((running .printPage).setRoute 3
      { (running .printPage).route 3 with badLimit := 3, consecBad := 2 }).setPage 3
      { stocked.page 3 with state := state, damaged := damaged } with
    pool := { stocked.pool with dirQueue := List.replicate n (.link 20 21) } }

theorem witness_DecodersHandOverAndCountLines_d :
    ∀ x ∈ ([(.closed, false, 0), (.closed, false, 16), (.closed, true, 0), (.opened, false, 0)] :
        List (PageState × Bool × Nat)),
      let s := failing x.1 x.2.1 x.2.2
      let y := s.route 3
      0 < y.badLimit ∧ min (y.consecBad + 1) 65535 = y.badLimit ∧ y.badReported = false
      ∧ y.kind = some .printPage ∧ y.page = some 3 ∧ (3, some 3) ∉ s.pool.damage
      ∧ (s.page 3).state = x.1 ∧ (s.page 3).damaged = x.2.1
      ∧ decide (s.imageNeed 3 ≤ s.dirPlaces) = decide (x.2.2 = 0) := by decide +kernel

/-- A LINE-RECEIVE route that stores, with bytes in its FIFO and bits in its assembly. -/
def receiving (bytes bits : Nat) : State :=
  { running .lineReceive with line :=
    { LinePort.idlePort with
      slot := some 3, rx := .storing, rxFifo := List.replicate bytes 0
      assembly := List.replicate bits true } }

theorem witness_ReceptionStoresFromTheFirstSync_a :
    (receiving 31 7).line.slot = some 3 ∧ ((receiving 31 7).route 3).live = true
    ∧ (receiving 31 7).line.rx = .storing ∧ 1 ≤ ([true] : Bits).length
    ∧ ((receiving 31 6).line.assembly ++ [true]).length < 8
    ∧ ((receiving 31 7).line.assembly ++ [true]).length = 8 ∧ (receiving 31 7).line.rxFifo.length < 32
    ∧ 32 ≤ (receiving 32 7).line.rxFifo.length ∧ (receiving 32 7).line.dec.state ≠ .line
    ∧ (receiving 32 7).line.dec.state ≠ .synced := by decide +kernel

/-- A LINE-RECEIVE route that seeks, LINE-VALID asserted, the window holding zeros. -/
def seeking : State :=
  { running .lineReceive with
    pins := { live.pins with lineValid := true }
    line := { LinePort.idlePort with
      slot := some 3, rx := .seeking, window := List.replicate 16 false } }

theorem witness_ReceptionStoresFromTheFirstSync_b :
    let sync := syncBits (seeking.storage (seeking.route 3).code)
    let window (b : Bool) := (seeking.line.window ++ [b]).drop ((seeking.line.window ++ [b]).length - 16)
    seeking.line.slot = some 3 ∧ (seeking.route 3).live = true ∧ seeking.line.rx = .seeking
    ∧ seeking.pins.lineValid = true ∧ seeking.power.level = some .run
    ∧ sync.isSuffixOf (window false) = false ∧ sync ≠ [] ∧ sync.isSuffixOf (window true) = true := by
  decide +kernel

theorem witness_CarrierTimerWatchesLineValid :
    (receiving 0 0).line.slot = some 3 ∧ ((receiving 0 0).route 3).live = true
    ∧ (receiving 0 0).line.rx = .storing ∧ (receiving 0 0).pins.lineValid = false
    ∧ ({ live.pins with lineValid := true } : Pins).lineValid = true
    ∧ ({ (receiving 0 0).line with carrier := some 10000 } : LinePort).carrier = some 10000
    ∧ (receiving 0 0).line.carrier = none := by decide +kernel

/-- A LINE-SEND route that sends: its FIFO, the fill owed, the end. -/
def sending (fifo : List TxByte) (fill : Nat) (endPos : Option Nat) : State :=
  { running .lineSend with line :=
    { LinePort.idlePort with
      slot := some 3, tx := .sending, txFifo := fifo, fill := fill, endPos := endPos } }

theorem witness_TransmitClocksSendThePage :
    live.txNext = .zero ∧ (sending [] 5 none).txNext = .fill none
    ∧ (sending [{ byte := 0x80, mark := none }] 0 (some 8)).txNext = .bit true false
    ∧ (sending [{ byte := 0x80, mark := none }] 0 (some 1)).txNext = .bit true true
    ∧ (sending [] 0 none).txNext = .empty ∧ (sending [] 0 none).line.inUnderrun = false
    ∧ (sending [{ byte := 0x80, mark := some (0, 5) }] 0 none).txNext = .fill (some 5)
    ∧ (let s : State := { sending [] 0 none with
          line := { (sending [] 0 none).line with inUnderrun := true } }
      s.txNext = .empty ∧ s.line.inUnderrun = true)
    ∧ (sending [] 0 none).line.slot = some 3 ∧ live.line.slot = none
    ∧ (sending [] 0 none).line.tx = .sending ∧ ((sending [] 0 none).route 3).live = true
    ∧ ((deferred.setRoute 3 { deferred.route 3 with kind := some .lineSend }).route 3).live = false
    ∧ (let s := sending [{ byte := 0x80, mark := some (0, 0) }] 0 none
      s.line.fill = 0 ∧ s.line.sent = 0 ∧ (s.txNext = .bit true (s.txLast 3))) := by decide +kernel

/-! ## Witnesses: scanner, head, motors, cutter -/

/-- A route of a kind at the scanner, a capture under way, a sheet in a phase. -/
def scanning (k : RouteKind) (phase : FeedPhase) : State :=
  { running k with
    engines := { live.engines with scanner := some 3 }
    scanner := { Scanner.idlePort with capturing := true, captureTimer := some 864, phase := phase } }

theorem witness_CapturesFillTheirRing :
    1727 < (List.replicate 1728 (0 : Byte)).length ∧ (List.replicate 1728 (0 : Byte)).length = 1728
    ∧ (scanning .scanStore .capture).scanner.capturing = true
    ∧ ({ (scanning .copy .capture) with
        head := { live.head with capturing := true, capacity := 8 } } : State).head.capturing = true
    ∧ (scanning .copy .capture).head.capturing = false
    ∧ (scanning .scanStore .capture).engines.scanner = some 3
    ∧ (scanning .scanStore .capture).scanner.captureTimer = some 864
    ∧ (scanning .scanStore .capture).copying = false
    ∧ (scanning .copy .capture).copying = true := by decide +kernel

theorem witness_DocumentSensorsAreReported :
    live.sensing = true ∧ live.pins.docIn = false
    ∧ ({ live.pins with docIn := true } : Pins).docIn = true ∧ live.engines.scanner = none
    ∧ live.pins.docEdge ≠ true ∧ (scanning .scanStore .feedIn).power.level = some .run
    ∧ (scanning .scanStore .feedIn).boot.state = .ready
    ∧ (scanning .scanStore .feedIn).pins.docEdge = false
    ∧ (scanning .scanStore .feedIn).engines.scanner = some 3
    ∧ ((scanning .scanStore .feedIn).route 3).live = true
    ∧ (scanning .scanStore .feedIn).scanner.phase = .feedIn
    ∧ ((scanning .scanStore .feedIn).route 3).halt ≠ .finish
    ∧ State.reset.sensing = false ∧ (atLevel .retain).sensing = false := by decide +kernel

theorem witness_LampSupplyAndConverterTimers :
    ({ live.scanner with lampTimer := some 500000 } : Scanner).lampTimer = some 500000
    ∧ ({ live.head with settleTimer := some 10000 } : Head).settleTimer = some 10000
    ∧ live.scanner.lampTimer = none ∧ live.head.settleTimer = none
    ∧ live.head.sampleTimer = some 1000 ∧ live.head.thetaNext = true
    ∧ ({ live.head with thetaNext := false } : Head).thetaNext = false := by decide +kernel

/-- A PRINT-PAGE route's burn at a stage, the head settled. -/
def burning (stage : BurnStage) (phases : List Phase) : State :=
  { running .printPage with
    engines := { live.engines with printer := some 3 }
    head := { live.head with
      supply := .settled
      burn := some
        { stage := stage, phases := phases, gap := 50, timer := some 120, slot := 3 } } }

/-- A phase. -/
def aPhase : Phase := { groups := [0], dots := 40, hist := 0, overBudget := true, width := 761 }

theorem witness_BurnsRunPhaseByPhase :
    (∀ stage ∈ ([.loading, .firing, .gap] : List BurnStage), ∀ phases ∈ ([[aPhase], [aPhase, aPhase]] :
        List (List Phase)),
      (burning stage phases).head.burn = some
        { stage := stage, phases := phases, gap := 50, timer := some 120, slot := 3 }
      ∧ (burning stage phases).head.cutOff = [])
    ∧ (burning .loading [aPhase]).headReady = true
    ∧ ({ burning .loading [aPhase] with pins := { live.pins with coverOpen := true } } : State).headReady
      = false
    ∧ (burning .firing [aPhase]).head.strobes = [0] ∧ (burning .gap [aPhase]).head.strobes = []
    ∧ (burning .firing [aPhase]).head.cutBurn.strobes = [0]
    ∧ live.head.burn = none ∧ live.head.cutOff = [] := by decide +kernel

/-- A phase cut off, driven or in its gap, ending before the burn's timer. -/
theorem witness_BurnsRunPhaseByPhase_b :
    ∀ driven ∈ [true, false],
      let c : CutPhase :=
        { driven := driven, groups := [0], overBudget := true, gap := 50, ends := 100, slot := some 3 }
      let s : State := { burning .firing [aPhase] with
        head := { (burning .firing [aPhase]).head with cutOff := [c] } }
      s.head.cutOff = [c] ∧ c.driven = driven ∧ (s.head.burn.bind Burn.timer) = some 120
        ∧ c.ends ≤ 120 := by decide +kernel

/-- `ramped` with SF in a motion on slot 5, at an index, steps left. -/
def moving (motion : Motion) (index left : Nat) : State :=
  ramped.setMotor .sf
    { Motor.idleMotor with
      state := .moving, motion := motion, index := index, left := left, timer := some 4000
      slot := some 5, claim := some .move, top := 7 }

theorem witness_StepsAndHoldsFollowTheirMotion :
    ((moving .lines 3 2).motor .sf).timer = some 4000 ∧ ((moving .lines 3 2).motor .sf).motion = .lines
    ∧ 0 < ((moving .lines 3 2).motor .sf).left
    ∧ (let s := (moving .runDown 2 0).setMotor .sf
        { (moving .runDown 2 0).sf with copy := some (rampOf rampData), slot := none }
      (s.motor .sf).motion = .runDown ∧ (s.motor .sf).index ≤ (s.rampInUse .sf).z)
    ∧ ((moving (.move .order) 2 0).motor .sf).motion = .move .order
    ∧ ((moving (.move .order) 2 0).motor .sf).slot = some 5
    ∧ ((moving (.move .order) 2 0).motor .sf).left = 0
    ∧ ((moving (.move .order) 2 0).motor .sf).index ≤ ((moving (.move .order) 2 0).rampInUse .sf).z
    ∧ (moving (.move .order) 2 0).dozing = false
    ∧ ({ Motor.idleMotor with holdTimer := some 50000 } : Motor).holdTimer = some 50000
    ∧ Motor.idleMotor.holdTimer = none := by decide +kernel

theorem witness_TargetIsTheLowestCeiling :
    (scanning .copy .lead).ceilings .pf 0 ≠ [] ∧ (3 : Nat) < 4 ∧ Motor.idleMotor.motion = .none
    ∧ ((moving .runDown 3 2).motor .sf).motion = .runDown
    ∧ ((moving (.move .order) 3 2).motor .sf).motion = .move .order
    ∧ (moving .lines 3 2).sf.motion = .lines
    ∧ ({ live with pf := { Motor.idleMotor with motion := .lines } } : State).pf.motion = .lines
    ∧ (let ramp := rampOf rampData
      6 < ramp.periods.length ∧ 6400 ≤ ramp.periods.getD 6 0 * 4
        ∧ ∀ j < ramp.periods.length, 6 < j → ramp.periods.getD j 0 * 4 < 6400)
    ∧ (∀ j < (rampOf rampData).periods.length, (rampOf rampData).periods.getD j 0 * 4 < 16001)
    ∧ (scanning .copy .lead).engines.scanner = some 3
    ∧ live.head.current.toList ++ live.head.ready = []
    ∧ (let l : PlannedLine := { dots := lineCase, plan := planOf heatCase 150 120 lineCase historyCase }
      ({ live.head with ready := [l] } : Head).current.toList ++ [l] ≠ []) := by decide +kernel

theorem witness_PaperIsReportedAndWatched :
    live.boot.state = .ready ∧ live.power.level ≠ some .retain ∧ live.pins.paperOut = false
    ∧ ({ live.pins with paperOut := true } : Pins).paperOut = true := by decide +kernel

theorem witness_CutsEndAtHomeOrTimeOut :
    let cutter (x : CutterState) (o : CutOwner) : Cutter :=
      { state := x, timer := some 1500000, owner := some o }
    (cutter .out .order).state = .out ∧ live.pins.home = true
    ∧ (cutter .back .order).state = .back ∧ ({ live.pins with home := false } : Pins).home = false
    ∧ (cutter .back .order).owner = some .order ∧ (cutter .out .order).timer = some 1500000
    ∧ (cutter .out (.route 3)).owner = some (.route 3)
    ∧ ((running .printPage).route 3).halt ≠ .nowWaiting ∧ live.cutter.timer = none := by decide +kernel

/-- A route's cut, waited on by a NOW or not; and a cut without an owner, PRINTER free or claimed since, by a route
that waits on the cut or not. -/
theorem witness_CutsEndAtHomeOrTimeOut_b :
    (∀ h ∈ ([.none, .nowWaiting] : List HaltMode), (cutting h).cutter.timer = some 1500000
      ∧ (cutting h).cutter.owner = some (.route 3) ∧ ((cutting h).route 3).halt = h)
    ∧ (∀ h ∈ ([.none, .nowWaiting] : List HaltMode), ∀ p ∈ [none, some (3 : RouteNo)],
      let s : State := { cutting h with
        engines := { live.engines with printer := p }
        cutter := { state := .back, timer := some 1500000, owner := none }
        pins := { live.pins with home := false } }
      s.cutter.state = .back ∧ s.cutter.timer = some 1500000 ∧ s.cutter.owner = none
        ∧ s.pins.home = false ∧ s.engines.printer = p ∧ (s.route 3).halt = h) := by decide +kernel

/-! ## Witnesses: COVER and power -/


/-- DOZE. -/
def dozing : State :=
  { live with
    power := { live.power with level := some .doze, request := .ordinary, asleep := true }
    store := { live.store with state := .selfRefresh, request := .ordinary } }

/-- The drain of DOZE entry. -/
def draining : State :=
  { live with power := { live.power with level := some .enteringDoze, step := .drain } }

/-- At RUN and DOZE, at RETAIN and before READY; the levels at which COVER is taken each in its way. -/
theorem witness_CoverStopsTheMechanics :
    live.boot.state = .ready ∧ live.power.level = some .run ∧ live.pins.coverOpen = false
    ∧ ({ live.pins with coverOpen := true } : Pins).coverOpen = true
    ∧ dozing.boot.state = .ready ∧ dozing.power.level = some .doze ∧ dozing.power.request = .ordinary
    ∧ dozing.store.request = .ordinary ∧ dozing.store.state = .selfRefresh
    ∧ (atLevel .retain).power.level = some .retain ∧ State.reset.boot.state ≠ .ready
    ∧ (atLevel .waking).power.level = some .waking
    ∧ (atLevel .enteringRetain).power.level = some .enteringRetain := by decide +kernel

theorem witness_DozeIsEnteredAndLeft :
    dozing.power.level = some .doze ∧ dozing.power.request = .ordinary
    ∧ dozing.store.request = .ordinary ∧ dozing.store.state = .selfRefresh
    ∧ dozing.power.wakeFirst = none ∧ dozing.power.wakeSet = []
    ∧ draining.power.level = some .enteringDoze ∧ draining.power.step = .drain
    ∧ draining.pool.dirQueue = [] ∧ draining.store.state = .on ∧ draining.store.burst = none
    ∧ draining.store.backlog = 0 ∧ draining.urgentWaits = false
    ∧ (asking 0).pool.dirQueue ≠ [] := by decide +kernel

/-- `seeking` at a level, with a self-refresh request standing and the controller in a state. -/
def seekingAt (x : Level) (y : StoreState) : State :=
  { seeking with
    power := { (requested y).power with level := some x }
    store := (requested y).store }

theorem witness_DozeIsEnteredAndLeft_b :
    (∀ x ∈ ([.doze, .enteringDoze] : List Level), ∀ y ∈ ([.selfRefresh, .entering] : List StoreState),
      let s := seekingAt x y
      let sync := syncBits (s.storage (s.route 3).code)
      s.line.slot = some 3 ∧ (s.route 3).live = true ∧ s.line.rx = .seeking ∧ s.pins.lineValid = true
      ∧ s.power.level = some x ∧ sync ≠ []
      ∧ sync.isSuffixOf ((s.line.window ++ [true]).drop ((s.line.window ++ [true]).length - 16)) = true
      ∧ s.power.request = .ordinary ∧ s.store.request = .ordinary ∧ s.store.state = y)
    ∧ (seekingAt .dozeRx .on).power.level = some .dozeRx
    ∧ ((seekingAt .dozeRx .on).route 3).kind = some .lineReceive ∧ haltedFate.cause = none
    ∧ (seekingAt .dozeRx .on).pins.lineValid = true
    ∧ (seekingAt .dozeRx .on).pool.dirQueue = [] ∧ (seekingAt .dozeRx .on).store.state = .on
    ∧ (seekingAt .dozeRx .on).store.burst = none ∧ (seekingAt .dozeRx .on).store.backlog = 0
    ∧ (seekingAt .dozeRx .on).urgentWaits = false := by decide +kernel

theorem witness_PowerFailEntersRetain :
    hosting.boot.state = .ready ∧ hosting.power.level = some .run
    ∧ (∀ x ∈ ([.enteringDoze, .doze, .waking, .dozeRx] : List Level), (atLevel x).boot.state = .ready
      ∧ (atLevel x).power.level = some x ∧ x ≠ .enteringRetain ∧ x ≠ .retain)
    ∧ dozing.power.asleep = true
    ∧ (∀ x ∈ ([.geometryWait, .geometryClear 0, .geometryHeader, .none] : List BootTask),
      ({ live.boot with task := x } : Boot).task = x)
    ∧ live.power.request ≠ .ordinary ∧ (requested .entering).power.request = .ordinary
    ∧ (requested .entering).store.request = .ordinary ∧ (requested .entering).store.state = .entering
    ∧ (requested .selfRefresh).store.state = .selfRefresh
    ∧ (atLevel .retain).power.level = some .retain
    ∧ (let s : State := { live with power :=
          { live.power with level := some .enteringRetain, step := .retainDrain } }
      s.power.level = some .enteringRetain ∧ s.power.step = .retainDrain ∧ s.routesInUse = []
        ∧ s.pool.dirQueue = [] ∧ s.pool.state ≠ .clearing)
    ∧ ({ live.pool with state := .clearing } : Pool).state = .clearing := by decide +kernel

theorem witness_ResetReturnsToHold :
    State.reset.boot.state = .hold ∧ State.reset.boot.retained = false
    ∧ State.reset.store.state = .init
    ∧ (let s := State.afterReset [] 0 0 State.reset.pins [] true
      s.boot.state = .hold ∧ s.boot.retained = true ∧ s.store.state = .selfRefresh) := by decide +kernel

/-! ## Witnesses: the operations the events go through -/

theorem witness_ReportsOfOneKeyCoalesce_b :
    live.power.level ≠ some .enteringDoze ∧ live.power.level ≠ some .doze
    ∧ live.power.level ≠ some .dozeRx
    ∧ (∀ x ∈ ([.enteringDoze, .doze, .dozeRx] : List Level), (atLevel x).power.level = some x)
    ∧ (Report.overrun 3 1).isError = true ∧ (Report.poolLow).isError = false
    ∧ live.isReception .poolLow = true ∧ live.isReception .poolOut = false
    ∧ (atLevel .doze).power.quietErrors = false
    ∧ ({ live.power with quietErrors := true } : Power).quietErrors = true := by decide +kernel

theorem witness_RouteEndsInOneEvent_c :
    (let s : State := { hosting.setPage 3 { hosting.page 3 with state := .dropping } with
          pool := { hosting.pool with dirQueue := List.replicate 16 (.link 20 21) } }
      let stopped := (s.stopFlows 3).orphanBurst (s.route 3).kind
      (s.route 3).live = true ∧ stopped.dirPlaces < stopped.endNeed 3 haltedFate)
    ∧ (hosting.route 3).live = true ∧ (deferred.route 3).live = false
    ∧ haltedFate.close = none
    ∧ (∀ k ∈ ([.scanStore, .copy, .printPage, .lineReceive, .lineSend, .hostStore, .pageHost] :
        List RouteKind), ((running k).route 3).kind = some k ∧ ((running k).route 3).page = some 3
      ∧ ((running k).route 3).halt ≠ .finish)
    ∧ (stocked.route 3).page = none
    ∧ (live.motor .sf).state ≠ .moving ∧ ((moving .lines 3 2).motor .sf).state = .moving
    ∧ ((moving .lines 3 2).motor .sf).stretched = false
    ∧ (∀ i ∈ [2, 3], let m : Motor := { (moving .lines i 0).sf with stretched := true }
      m.state = .moving ∧ m.stretched = true
        ∧ decide (m.index ≤ ((moving .lines i 0).rampInUse .sf).z) = decide (i = 2))
    ∧ (bursting .scrub).store.burst ≠ none ∧ live.store.burst = none := by decide +kernel

theorem witness_MalformedHeadersLeadToHunt_b :
    ∀ header ∈ ([[], [0x7E], [0x7E, 0x81], [0x7E, 0x81, 0x7E]] : List (List Byte)),
      let s : State := { live with parser := { live.parser with header := header } }
      s.power.level = some .run ∧ s.parser.source = .port ∧ s.parser.state = .head
        ∧ s.parser.header = header := by decide +kernel

/-- A whole SETUP, by its bytes one after the other, has the effect of its command. -/
theorem witness_InboundBytesReachTheParser_d :
    live.atHead = true ∧ (setupBytes (aSetup 1024 9)).length = 10
    ∧ ((recordBytes 1 10 (setupBytes (aSetup 1024 9))).foldlM State.takeByte live).map State.setup
      = (after (.setup (aSetup 1024 9)) live).map State.setup
    ∧ 1 < (2 : Byte).toNat ∧ 2 < (3 : Byte).toNat
    ∧ OrderKind.ofByte 0x01 = some .setup ∧ (0x01 : Byte) ≠ 0x7E
    ∧ (wordOfBytes 4 16).toNat = 1040 ∧ (wordOfBytes 0 0).toNat = 0
    ∧ (inBody 0x01 10 [0, 4, 15] .collect).parser.use = .collect
    ∧ (inBody 0x01 10 [0, 4, 15] .collect).parser.taken + 1 < 10
    ∧ (inBody 0x07 10 [0, 4] .collect).parser.body.length ≠ 3 := by decide +kernel

/-- Replay in a state of the parser. -/
def replayIn (p : Parser) : State := { replayAt 16 true with parser := { p with source := .rom } }

/-- A first SETUP, the slots of a TABLE LOAD, a MARK, and the framing faults of a header, at the byte that shows
them. -/
theorem witness_ReplayEndsWithItsOutcome_b :
    (replayAt 65535 true).replaying = true ∧ 0 < (replayAt 65535 true).boot.romPos
    ∧ (∀ header ∈ ([[], [0x0C], [0x0C, 2], [0x0E, 3], [0x20, 0], [0x7E], [0x7E, 0x81], [0x7E, 0x81, 0x7E]] :
        List (List Byte)),
      let s := replayIn { Parser.start with header := header }
      s.replaying = true ∧ s.parser.source = .rom ∧ s.parser.state = .head ∧ s.parser.header = header)
    ∧ OrderKind.ofByte 0x20 = none ∧ OrderKind.ofByte 0x0C = some .mark ∧ wordOfBytes 0 3 ≠ 2
    ∧ (∀ use ∈ ([.collect, .skip, .load 5 0] : List BodyUse),
      let s := replayIn { Parser.start with state := .body, kind := 2, length := 26, use := use }
      s.parser.state = .body ∧ s.parser.use = use)
    ∧ OrderKind.ofByte 0x02 = some .tableLoad ∧ OrderKind.ofByte 0x07 = some .data
    ∧ (setupBytes (aSetup 2048 9)).length = 10
    ∧ setupInRange (setupOf (setupBytes (aSetup 2048 9))) = true
    ∧ setupInRange (setupOf (setupBytes (aSetup 1000 9))) = false
    ∧ (replayAt 16 true).loadRefusal 5 2 22 = none
    ∧ (replayAt 16 true).loadRefusal 16 2 22 = some .badField
    ∧ asFin 16 (5 : Byte).toNat = some 5 ∧ tableKindOf 2 = some .ramp
    ∧ (after (.romByte 0) (replayIn { Parser.start with header := [0x20, 0] })).map
        (fun t => t.boot.romOutcome) = some (some .bad)
    ∧ (after (.romByte 0) (replayIn
        { Parser.start with state := .body, kind := 0x0C, length := 2, body := [5], taken := 1 })).map
        (fun t => t.reports.map QueueEntry.report)
      = some [.refused .mark .notInBoot [5, 0]] := by decide +kernel

/-- A PRINT-PAGE route with the ring full, every word of its page fetched and no block to refill: a stutter may be
placed. -/
def idling : State :=
  let l : PlannedLine := { dots := lineCase, plan := planOf heatCase 150 120 lineCase historyCase }
  let s := cutting .none
  { s with
    engines := { s.engines with printer := some 3, decoder := some 3 }
    power := { s.power with stutter := true }
    head := { s.head with ready := List.replicate 4 l }
    pool := { s.pool with freeCount := 0, freeHead := none, freeTail := none } }

theorem witness_LevelOrdersRunAndDoze_c :
    idling.mayStutter = true
    ∧ ({ stuttering with power := { stuttering.power with stutter := false } } : State).endStutter = true
    ∧ stuttering.store.state ≠ .selfRefresh
    ∧ (let s : State := { receivingMuch with store := (requested .selfRefresh).store }
      s.store.state = .selfRefresh ∧ s.store.request ≠ .retain ∧ s.urgentWaits = true) := by
  decide +kernel

/-- What stands at the positions of a line: the sync, a code of 36 white dots, fill, no match, and bits that are
wanting. -/
theorem witness_DecodersHandOverAndCountLines_e :
    let sync := syncBits codeData
    let white (n : Nat) := (List.replicate n false : Bits)
    sync.length = 12 ∧ sync <+: sync ∧ ¬sync <+: white 16
    ∧ (white 3).length < sync.length ∧ sync.length ≤ (white 16).length
    ∧ (matchCode codeData false ([false, true] ++ white 14)).isSome = true
    ∧ matchCode codeData false (List.replicate 16 true) = none
    ∧ (decoding 0 8).printDec.slot = some 3 ∧ ((decoding 0 8).route 3).live = true
    ∧ ((decoding 0 8).route 3).state ≠ .armed ∧ (decoding 0 8).heldByDamage 3 = false
    ∧ (decoding 0 8).printDec.held = none ∧ (decoding 0 8).printDec.told = false
    ∧ 0 < (decoding 0 8).head.freeSlots ∧ idling.head.freeSlots = 0
    ∧ (let s := decoding 0 8
      let table := s.storage (s.route 3).code
      let m := s.printDec.act (endCount table) (s.printFinds table)
      m.2 = .none ∧ m.1.dec ≠ s.printDec.dec) := by decide +kernel

theorem witness_DecodersHandOverAndCountLines_f :
    (∀ x ∈ ([.synced, .line, .seek] : List DecState), ({ Decoder.start with state := x } : Decoder).state = x)
    ∧ ({ Decoder.start with syncs := 1 } : Decoder).syncs + 1 = 2
    ∧ ({ Decoder.start with syncs := 0 } : Decoder).syncs + 1 ≠ 2
    ∧ 1728 < ({ Decoder.start with sum := 1700 } : Decoder).sum + 36
    ∧ ({ Decoder.start with sum := 1692 } : Decoder).sum + 36 ≤ 1728 := by decide +kernel

/-- A LINE-RECEIVE route that flushes, its page to be closed. -/
def flushing (again : Bool) : State :=
  let s := (running .lineReceive).setRoute 3 { (running .lineReceive).route 3 with continues := again }
  { s with line :=
    { LinePort.idlePort with
      slot := some 3, rx := .flushing, stop := some { pos := 24, lines := 1, bad := 0, endPattern := true } } }

theorem witness_ReceptionStoresFromTheFirstSync_c :
    (∀ b ∈ [true, false], (flushing b).line.slot = some 3 ∧ (flushing b).line.stop.isSome = true
      ∧ ((flushing b).route 3).page = some 3 ∧ ((flushing b).route 3).live = true
      ∧ (flushing b).line.rx = .flushing ∧ (flushing b).line.rxFifo = []
      ∧ ((flushing b).route 3).continues = b ∧ ((flushing b).route 3).halt ≠ .finish
      ∧ (flushing b).imageNeed 3 ≤ (flushing b).dirPlaces)
    ∧ (receiving 0 0).line.stop = none ∧ ((receiving 0 0).route 3).live = true
    ∧ findAt codeData { Decoder.start with state := .synced } [] false = .wait
    ∧ findAt codeData { Decoder.start with state := .synced } (syncBits codeData) false = .sync 12
    ∧ (8 * 0 ≤ 12 ∧ 12 ≤ 8 * (0 + 2)) ∧ (7 : Nat) < 8 * 1 := by decide +kernel

theorem witness_ReceptionStoresFromTheFirstSync_d :
    let s : State := (receiving 32 7).setLine
      { (receiving 32 7).line with dec := { Decoder.start with state := .line } }
    s.line.dec.state = .line ∧ s.line.slot = some 3 ∧ (s.route 3).live = true ∧ s.line.rx = .storing
    ∧ (s.line.assembly ++ [true]).length = 8 ∧ 32 ≤ s.line.rxFifo.length := by decide +kernel

/-- A LINE-SEND route in PRIMING, its page's bits those of `bits`. -/
def priming (queue : List Word) (bits : Nat) : State :=
  { running .lineSend with line :=
    { LinePort.idlePort with
      slot := some 3, tx := .priming, bitLength := bits, dec := { Decoder.start with state := .seek }
      fetch := { Fetch.idle with active := true, queue := queue } } }

theorem witness_TransmitClocksSendThePage_b :
    ((priming [0] 16).txMove 3 false).isSome = true ∧ ((priming [] 0).txMove 3 true).isSome = true
    ∧ (priming [] 16).txMove 3 false = none
    ∧ (priming [0] 16).line.tx = .priming ∧ (priming [0] 16).line.slot = some 3
    ∧ (sending [] 0 (some 0)).line.endPos = some (sending [] 0 (some 0)).line.sent
    ∧ (sending [] 0 none).line.endPos ≠ some (sending [] 0 none).line.sent
    ∧ ((priming [0] 16).route 3).kind = some .lineSend ∧ ((priming [0] 16).route 3).halt ≠ .finish
    ∧ (priming [0] 16).heldByDamage 3 = false
    ∧ ({ LinePort.idlePort with markAt := some (9, 5) } : LinePort).markAt = some (9, 5)
    ∧ ({ LinePort.idlePort with lineSync := some 4 } : LinePort).lineSync = some 4 := by decide +kernel

/-- A line start: of a SCAN-STORE or a COPY, with room and without. -/
theorem witness_CapturesFillTheirRing_b :
    (∀ k ∈ ([.scanStore, .copy] : List RouteKind), (scanning k .trail).engines.scanner = some 3
      ∧ ((scanning k .trail).route 3).kind = some k)
    ∧ (scanning .scanStore .trail).scanner.firstStart = true
    ∧ 0 < 4 - ((scanning .scanStore .trail).scanner.coding.toNat
      + (scanning .scanStore .trail).scanner.ready.length
      + (scanning .scanStore .trail).scanner.capturing.toNat)
    ∧ 0 < (scanning .copy .trail).head.capacity
      - ((scanning .copy .trail).head.ready.length + (scanning .copy .trail).head.capturing.toNat)
    ∧ 4 - (false.toNat + ([Dots.white, Dots.white, Dots.white, Dots.white] : List Dots).length + false.toNat)
      = 0 := by decide +kernel

theorem witness_DocumentSensorsAreReported_b :
    (∀ phase ∈ ([.none, .feedIn, .lead, .capture, .trail, .eject] : List FeedPhase),
      (scanning .scanStore phase).scanner.phase = phase ∧ (scanning .scanStore phase).sensing = true
      ∧ (scanning .scanStore phase).engines.scanner = some 3
      ∧ ((scanning .scanStore phase).route 3).live = true
      ∧ (scanning .scanStore phase).scanner.lastLine = false)
    ∧ ((scanning .scanStore .feedIn).route 3).jam = 0 ∧ ((scanning .scanStore .feedIn).route 3).lead = 0
    ∧ (scanning .scanStore .feedIn).sf.state ≠ .moving
    ∧ (let s := (scanning .scanStore .eject).setRoute 3
          { (scanning .scanStore .eject).route 3 with page := none, continues := true }
      let t := s.setScanner { s.scanner with sheetOut := true }
      t.engines.scanner = some 3 ∧ (t.route 3).kind = some .scanStore ∧ (t.route 3).live = true
        ∧ t.scanner.sheetOut = true ∧ (t.route 3).page = none ∧ t.coder.writer.opening = false
        ∧ (t.route 3).halt ≠ .finish ∧ (t.route 3).continues = true ∧ t.pins.docIn = false)
    ∧ ({ live.pins with docIn := true, docEdge := true } : Pins).docEdge = true := by decide +kernel

/-- A route of a kind ARMED in slot 3, its hardware ready. -/
def arming (k : RouteKind) : State :=
  { (running k).setRoute 3 { (running k).route 3 with state := .armed } with
    pins := { live.pins with docIn := true }
    scanner := { live.scanner with lamp := .warm }
    head := { live.head with supply := .settled } }

theorem witness_LampSupplyAndConverterTimers_b :
    (∀ k ∈ ([.scanStore, .copy, .printPage] : List RouteKind),
      ((arming k).route 3).state = .armed ∧ ((arming k).route 3).live = true
      ∧ (arming k).armed ((arming k).route 3) = true ∧ ((arming k).route 3).kind = some k
      ∧ ((arming k).route 3).page = some 3)
    ∧ ((running .printPage).route 3).state ≠ .armed := by decide +kernel

/-- A print whose burn is at a stage, with one more line ready. -/
def printing (stage : BurnStage) (index : Nat) : State :=
  let l : PlannedLine := { dots := lineCase, plan := planOf heatCase 150 120 lineCase historyCase }
  let s := burning stage [aPhase]
  { s with
    head := { s.head with ready := [l], current := some l }
    pf := { Motor.idleMotor with state := .moving, motion := .lines, index := index, stretched := true } }

theorem witness_BurnsRunPhaseByPhase_c :
    (printing .loading 0).head.ready ≠ [] ∧ (printing .loading 0).copying = false
    ∧ (scanning .copy .capture).copying = true ∧ (printing .firing 0).head.burnDone = false
    ∧ (printing .complete 0).head.burnDone = true
    ∧ (printing .firing 0).pf.index ≤ ((printing .firing 0).rampInUse .pf).z
    ∧ ((printing .firing 9).rampInUse .pf).z < (printing .firing 9).pf.index
    ∧ (printing .firing 9).head.current.isSome = true ∧ (printing .complete 0).engines.printer = some 3
    ∧ (printing .complete 0).pf.stretched = true ∧ (printing .complete 0).pf.state = .moving
    ∧ live.engines.printer = none := by decide +kernel

theorem witness_StepsAndHoldsFollowTheirMotion_b :
    (moving (.move .order) 3 2).sf.timer = some 4000 ∧ (moving (.move .order) 3 2).sf.overrun = false
    ∧ (moving (.move .order) 3 2).sf.left ≠ 0 ∧ (moving (.move .order) 3 0).sf.left = 0
    ∧ ((moving (.move .order) 3 0).rampInUse .sf).z < (moving (.move .order) 3 0).sf.index
    ∧ (moving (.move .order) 2 0).sf.index ≤ ((moving (.move .order) 2 0).rampInUse .sf).z
    ∧ (∀ motion ∈ ([.none, .runDown, .move .eject, .lines] : List Motion),
      (moving motion 3 0).sf.motion = motion)
    ∧ ((moving (.move .order) 3 2).moveStep .sf 2).2 = false
    ∧ ((moving (.move .order) 2 0).moveStep .sf 0).2 = true
    ∧ (scanning .scanStore .lead).engines.scanner = some 3
    ∧ (burning .gap [aPhase]).engines.printer = some 3 := by decide +kernel

/-- SF at a line end: the last line or another, moving above Z or not, in WAIT-ROOM, with room or without. -/
theorem witness_StepsAndHoldsFollowTheirMotion_c :
    (scanning .scanStore .lead).scanner.lastLine = false
    ∧ ((scanning .scanStore .lead).route 3).halt ≠ .finish ∧ 0 < (scanning .scanStore .lead).scanFree
    ∧ (let s : State := { scanning .scanStore .capture with
          scanner := { (scanning .scanStore .capture).scanner with ready := List.replicate 4 Dots.white } }
      s.scanFree = 0 ∧ s.scanner.lastLine = false ∧ s.sf.state ≠ .moving)
    ∧ (moving .lines 3 0).sf.state = .moving ∧ (live.route 3).eject = 0
    ∧ (let s : State := { scanning .scanStore .capture with
          sf := { Motor.idleMotor with state := .waitRoom, motion := .lines } }
      s.sf.state = .waitRoom ∧ 0 < s.scanFree ∧ (s.route 3).live = true) := by decide +kernel

/-- A print at rest, with a line to take and without paper; and one that moves to its line end. -/
theorem witness_PaperIsReportedAndWatched_b :
    let rest (paperOut : Bool) : State := { printing .complete 0 with
      pf := { Motor.idleMotor with state := .waitData, motion := .lines }
      pins := { live.pins with paperOut := paperOut } }
    (∀ b ∈ [true, false], (rest b).engines.printer = some 3 ∧ (rest b).pf.state = .waitData
      ∧ ((rest b).route 3).live = true ∧ (rest b).printComplete 3 = false ∧ (rest b).head.ready ≠ []
      ∧ (rest b).head.supply = .settled ∧ (rest b).pins.coverOpen = false ∧ (rest b).pins.paperOut = b)
    ∧ ({ rest false with head := { (rest false).head with supply := .off } } : State).head.supply
      ≠ .settled
    ∧ live.engines.printer = none
    ∧ ((printing .complete 9).rampInUse .pf).z < (printing .complete 9).pf.index
    ∧ (let s : State := { printing .complete 0 with
          head := { (printing .complete 0).head with ready := [] } }
      s.head.ready = [] ∧ s.printComplete 3 = false
        ∧ ({ s with printDec := { s.printDec with told := true } } : State).printComplete 3 = true) := by
  decide +kernel

/-- A print that is complete, its CUT-AFTER set or not, its tail of some steps or none. -/
theorem witness_CutsEndAtHomeOrTimeOut_c :
    ∀ x ∈ ([(false, 0), (true, 0), (true, 9)] : List (Bool × Nat)),
      let s0 := (burning .complete []).setRoute 3
        { (burning .complete []).route 3 with cutAfter := x.1, tail := x.2 }
      let s : State := { s0 with printDec := { PrintDecoder.idleDecoder with slot := some 3, told := true } }
      s.engines.printer = some 3 ∧ (s.route 3).live = true ∧ (s.route 3).state = .running
        ∧ (s.route 3).halt = .none ∧ (s.route 3).cutStage = .none ∧ s.printComplete 3 = true
        ∧ s.pf.state ≠ .moving ∧ (s.route 3).cutAfter = x.1 ∧ (s.route 3).tail = x.2
        ∧ s.cutter.state = .idle := by decide +kernel

/-- The cutter in each state as COVER opens, and a route at PRINTER, live or not, and elsewhere. -/
theorem witness_CoverStopsTheMechanics_b :
    (∀ x ∈ ([.idle, .out, .back, .fault] : List CutterState), ({ live.cutter with state := x } : Cutter).state = x)
    ∧ ((running .printPage).route 3).live = true ∧ ((running .printPage).route 3).usesPrinter = true
    ∧ (hosting.route 3).usesScanner = false ∧ (hosting.route 3).usesPrinter = false
    ∧ (stocked.route 3).live = false := by decide +kernel

theorem witness_DozeIsEnteredAndLeft_c :
    (∀ x ∈ ([.run, .waking, .enteringDoze, .doze, .dozeRx, .enteringRetain, .retain] : List Level),
      (atLevel x).power.level = some x)
    ∧ State.reset.power.level = none
    ∧ (atLevel .dozeRx).withdrawOrdinary.store.state = .on
    ∧ dozing.withdrawOrdinary.store.state ≠ .on := by decide +kernel

/-- Hand-read from R149 and R150: STREAM at ENTERING-DOZE with the controller ON reaches RUN in its event, the entry
abandoned. -/
theorem test_entry_abandoned :
    ((atLevel .enteringDoze).takeWake .stream).power.level = some .run
    ∧ ((atLevel .enteringDoze).takeWake .stream).reports.map QueueEntry.report
      = [.levelRun (some .stream) [.stream] true] := by decide +kernel

/-- The Coder with a line ready, with a mark and nothing left, at its last word written, and under FINISH. -/
theorem witness_CoderKeepsEveryBit_c :
    let s : State := { running .scanStore with coder := { Coder.idleCoder with slot := some 3, state := .waiting } }
    let z : State := { s with scanner := { s.scanner with mark := .cutShort, capturing := false } }
    let w : State := { s with coder := { s.coder with state := .ending } }
    (s.route 3).page = some 3 ∧ (s.route 3).live = true ∧ s.coder.slot = some 3
    ∧ (s.route 3).halt ≠ .finish ∧ (s.route 3).state ≠ .stalled ∧ s.scanner.mark = .none
    ∧ ({ s.scanner with ready := [lineCase] } : Scanner).ready ≠ []
    ∧ z.scanner.mark ≠ .none ∧ z.scanner.ready = [] ∧ z.scanner.capturing = false ∧ z.scanner.coding = false
    ∧ w.coder.codes = [] ∧ w.coder.padding = false ∧ w.coder.acc = [] ∧ w.coder.queue = []
    ∧ w.imageNeed 3 ≤ w.dirPlaces
    ∧ ({ s.route 3 with halt := .finish } : Route).halt = .finish := by decide +kernel

/-- The HOST-IN queue under FINISH: a half word waiting, with room and without, and all of it written. -/
theorem witness_DataBytesJoinTheHostQueue_b :
    let t (n : Nat) (half : Option Byte) : State :=
      { running .hostStore with hostIn := { (storing n half).hostIn with finalPlaced := true } }
    (∀ x ∈ ([(0, none), (1, none), (63, some 1), (64, some 1)] : List (Nat × Option Byte)),
      (t x.1 x.2).hostIn.slot = some 3 ∧ ((t x.1 x.2).route 3).live = true
        ∧ (t x.1 x.2).hostFlushing = true ∧ (t x.1 x.2).hostIn.half = x.2
        ∧ (t x.1 x.2).hostIn.queue.length = x.1 ∧ ((t x.1 x.2).route 3).page ≠ none)
    ∧ (storing 0 none).hostFlushing = false ∧ ((storing 0 none).route 3).live = true
    ∧ ((storing 0 none).route 3).page = none := by decide +kernel

/-! ## Witnesses: records, grants and the rebuild -/

/-- `paged 0` with a rebuild at its first entry. -/
def rebuilding : State :=
  { paged 0 with pool :=
    { live.pool with
      state := .rebuilding, stranded := 1007
      rebuild := some { at_ := .entry 0, marks := [], joined := [] } } }

theorem rebuilding_pageBooks : rebuilding.PageBooks := by
  refine ⟨?_, ?_, ?_, ?_⟩
  · unfold State.entryBooked State.writes; decide +kernel
  · intro r
    have e : rebuilding.route r = Route.idleRecord := by revert r; decide +kernel
    rw [e]
    exact ⟨by decide +kernel, by decide +kernel, by decide +kernel, nofun⟩
  · refine ⟨?_, ?_, ?_, ?_, ?_, ?_, ?_, ?_, ?_, ?_, ?_, ?_⟩
    iterate 6 · exact nofun
    · decide +kernel
    · intro h; exact absurd rfl h
    · intro h; exact absurd rfl h
    · exact nofun
    · decide +kernel
    · exact nofun
  · unfold State.bootBooked; decide +kernel

theorem rebuilding_poolBooks : rebuilding.PoolBooks := by
  refine ⟨?_, ?_, ?_, ?_, ?_, ?_, ?_, ?_, ?_, ?_, ?_, ?_, ?_⟩
  · intro _ _
    exact ⟨by decide +kernel, nofun⟩
  · decide +kernel
  · intro _; decide +kernel
  · intro _; decide +kernel
  · decide +kernel
  · decide +kernel
  · decide +kernel
  · decide +kernel
  · intro _; decide +kernel
  · intro b h
    have e : rebuilding.pool.rebuild = some { at_ := .entry 0, marks := [], joined := [] } := rfl
    rw [e] at h
    cases h
    refine ⟨⟨List.nodup_nil, nofun⟩, nofun, ?_⟩
    show 0 = rebuilding.heldBelow 0 + 0
    decide +kernel
  · exact nofun
  · intro h; exact absurd h (by decide +kernel)
  · intro h; exact absurd h (by decide +kernel)

theorem witness_PagesTakeAndReturnTheirBlocks_d :
    rebuilding.pool.rebuild.isSome = true ∧ rebuilding.PageBooks ∧ rebuilding.PoolBooks :=
  ⟨rfl, rebuilding_pageBooks, rebuilding_poolBooks⟩

/-- The rebuild at a FREE entry, at page 3, its head marked or not, after the last entry; a walk that waits, and one
whose link word is queued; a sweep with a block to find, with none, and past the last with a chain to join or none. -/
theorem witness_PagesTakeAndReturnTheirBlocks_e :
    rebuilding.retaining = false ∧ (rebuilding.page 0).state = .free ∧ (rebuilding.page 3).state ≠ .free
    ∧ (rebuilding.page 3).head = 20 ∧ 20 ∉ ([] : List Nat) ∧ 32 ≤ 32
    ∧ rebuilding.waitingLink 20 = none
    ∧ (let s : State := { rebuilding with pool := { rebuilding.pool with dirQueue := [.link 20 21] } }
      s.waitingLink 20 = some 21 ∧ 0 < s.dirPlaces)
    ∧ 1023 < rebuilding.store.geometry ∧ rebuilding.store.geometry ≤ 1024
    ∧ (rebuilding.store.geometry < 1025)
    ∧ ({ at_ := .sweeping 1025 none none 0, marks := [], joined := [{ head := 20, tail := 20, count := 1 }] } :
        Rebuild).joined ≠ []
    ∧ ({ live.pool with alert := .low } : Pool).alert ≠ .none := by decide +kernel

/-- A LINE-RECEIVE route that seeks, after a page or before one, and one that flushes. -/
theorem witness_CarrierTimerWatchesLineValid_b :
    seeking.line.slot = some 3 ∧ (seeking.route 3).live = true ∧ seeking.line.rx = .seeking
    ∧ seeking.pins.lineValid = true ∧ (seeking.route 3).received = false
    ∧ ({ seeking.route 3 with received := true } : Route).received = true
    ∧ ({ seeking.line with rx := .flushing } : LinePort).rx ≠ .storing ∧ live.line.slot = none
    ∧ live.pins.lineValid = false := by decide +kernel

/-- A start with no reservation left in its slot, availability crossing the low mark or not. -/
theorem witness_RouteStartPutsItsRouteInUse_d :
    let s : State := { stocked with setup := { stocked.setup with lowMark := 4 } }
    (stocked.route 3).remainder = 0 ∧ s.atHead = true
    ∧ s.startRefusal { aStart 3 3 3 with reservation := 1 } = none
    ∧ s.available - 1 < s.setup.lowMark ∧ s.setup.lowMark ≤ s.available ∧ s.pool.alert = .none
    ∧ (hosting.route 3).page = some 3 := by decide +kernel

/-- Routes of each kind as their ends free their blocks. -/
theorem witness_RouteEndsInOneEvent_d :
    (∀ k ∈ ([.scanStore, .copy, .printPage, .lineReceive, .lineSend, .hostStore, .pageHost] :
        List RouteKind), ((running k).route 3).kind = some k)
    ∧ ((running .hostStore).route 3).usesScanner = false
    ∧ ((running .printPage).route 3).usesPrinter = true := by decide +kernel

/-- Bursts as they are granted: an image at the front, and in ENTERING an urgent request or none, backlog or none. -/
theorem witness_GrantsFollowThePriority_e :
    let entering (n : Nat) : State :=
      { live with store := { live.store with state := .entering, request := .ordinary, backlog := n } }
    let urgent (n : Nat) : State := { receivingMuch with store := (entering n).store }
    (∀ n ∈ [0, 6, 7], (entering n).store.state = .entering ∧ (entering n).wantRx = none
        ∧ (entering n).wantTx = none ∧ (entering n).wantPrint = none ∧ (entering n).store.burst = none
        ∧ (urgent n).wantRx ≠ none ∧ (urgent n).store.request ≠ .retain)
    ∧ ({ live with pool := { live.pool with dirQueue := [.image 3 none false] } } : State).dirBurst.isSome = true
    ∧ (atLevel .enteringDoze).power.level = some .enteringDoze
    ∧ (atLevel .enteringRetain).power.level = some .enteringRetain
    ∧ ({ live with pool := { (paged 0).pool with spare := [] } } : State).refillBurst = some (.refill 16)
    ∧ (receivingMuch.line.slot.bind fun r =>
        if (receivingMuch.route r).live then (receivingMuch.route r).page.map receivingMuch.page else none) ≠ none
    ∧ (∀ x ∈ ([.releaseHeader, .failLive, .geometryHeader, .failClean, .clear 0, .none] : List BootTask),
      ({ live.boot with task := x } : Boot).task = x) := by decide +kernel

/-- A page to flag, with a place for its image or none. -/
theorem witness_BurstEndsServeTheirClients_c :
    ((paged 0).page 3).state = .closed ∧ ((paged 0).page 3).damaged = false ∧ (paged 0).pool.damage = []
    ∧ (paged 0).imageNeed 3 ≤ (paged 0).dirPlaces
    ∧ ({ paged 0 with pool :=
        { (paged 0).pool with dirQueue := List.replicate 16 (.link 20 21) } } : State).dirPlaces
      < ({ paged 0 with pool :=
        { (paged 0).pool with dirQueue := List.replicate 16 (.link 20 21) } } : State).imageNeed 3 := by
  decide +kernel

/-- The alert at the start of a rebuild and of a geometry clear: availability from at the low mark to 0. -/
theorem witness_ClearsEndTheirFaults_b :
    let s : State := { paged 0 with setup := { live.setup with lowMark := 4 } }
    s.atHead = true ∧ s.pool.state = .inService ∧ 0 < s.available ∧ 0 < s.setup.lowMark
    ∧ s.setup.lowMark ≤ s.available ∧ s.pool.alert = .none := by decide +kernel

end Sys2Proof.Machine
end

section
/-! PROOF. The check code: each check bit is the even parity of its column of R29's table, and the syndrome that a
read computes. -/

namespace Sys2Proof.Machine

/-! ## Check bits as parities -/

/-- Summing syndromes over the set bits of a word sums each syndrome bit over them: the bit is its starting value,
flipped once for every set bit whose syndrome has it. -/
theorem getLsbD_foldl_syndromes (w : Word) (i : Nat) (ds : List Nat) (c : BitVec 6) :
    (ds.foldl (fun c d => if w.getLsbD d then c ^^^ dataSyndromes.getD d 0 else c) c).getLsbD i
      = (c.getLsbD i ^^
        ds.countP (fun d => w.getLsbD d && (dataSyndromes.getD d 0).getLsbD i) % 2 == 1) := by
  induction ds generalizing c with
  | nil => simp
  | cons d ds ih =>
    have parity_succ (n : Nat) : ((n + 1) % 2 == 1) = !(n % 2 == 1) := by
      rcases Nat.mod_two_eq_zero_or_one n with h | h <;> simp [Nat.add_mod, h]
    rw [List.foldl_cons, ih, List.countP_cons]
    cases hd : w.getLsbD d with
    | false => simp only [Bool.false_and, Bool.false_eq_true, if_false, Nat.add_zero]
    | true =>
      cases hs : (dataSyndromes.getD d 0).getLsbD i with
      | false =>
        simp only [Bool.and_false, Bool.false_eq_true, if_true, if_false, Nat.add_zero, BitVec.getLsbD_xor, hs,
          Bool.xor_false]
      | true =>
        simp only [Bool.and_true, if_true, parity_succ, BitVec.getLsbD_xor, hs, Bool.xor_true, Bool.not_xor,
          Bool.xor_not]

/-- The data bits marked for a check bit are those whose syndrome has its bit. -/
theorem feedsOf_eq_filter :
    ∀ i (h : i < 6),
      feedsOf[i]'h = (List.range 16).filter fun d => (dataSyndromes.getD d 0).getLsbD i := by
  decide

/-- R29: a check bit is the even parity of the data bits marked for it. -/
theorem getLsbD_checkBits (w : Word) (i : Nat) (h : i < 6) :
    (checkBits w).getLsbD i = (((feedsOf[i]'h).countP fun d => w.getLsbD d) % 2 == 1) := by
  rw [checkBits, getLsbD_foldl_syndromes, feedsOf_eq_filter i h, List.countP_filter]
  simp

/-- R29's table read by rows: the syndrome of a data column has the bits of the check bits it feeds. -/
theorem getLsbD_dataSyndromes :
    ∀ d (h : d < 16) (i : Nat) (h' : i < 6),
      (dataSyndromes[d]'h).getLsbD i = (feedsOf[i]'h').contains d := by
  decide

/-! ## The parts of a stored word -/

/-- The check bits stand above the 16 data bits. -/
theorem encodeWord_eq_append (w : Word) : encodeWord w = checkBits w ++ w := by
  apply BitVec.eq_of_toNat_eq
  have hw := w.isLt
  have hc := (checkBits w).isLt
  rw [BitVec.toNat_append, ← Nat.shiftLeft_add_eq_or_of_lt hw, Nat.shiftLeft_eq, encodeWord,
    BitVec.toNat_ofNat]
  omega

theorem getLsbD_encodeWord_data (w : Word) {i : Nat} (h : i < 16) :
    (encodeWord w).getLsbD i = w.getLsbD i := by
  rw [encodeWord_eq_append, BitVec.getLsbD_append, if_pos h]

theorem getLsbD_encodeWord_check (w : Word) (i : Nat) :
    (encodeWord w).getLsbD (16 + i) = (checkBits w).getLsbD i := by
  rw [encodeWord_eq_append, BitVec.getLsbD_append, if_neg (by omega), Nat.add_sub_cancel_left]

theorem setWidth_encodeWord (w : Word) : (encodeWord w).setWidth 16 = w := by
  apply BitVec.eq_of_getLsbD_eq
  intro i hi
  simp [getLsbD_encodeWord_data w hi, hi]

theorem extractLsb'_encodeWord (w : Word) : (encodeWord w).extractLsb' 16 6 = checkBits w := by
  apply BitVec.eq_of_getLsbD_eq
  intro i hi
  simp [getLsbD_encodeWord_check, hi]

/-! ## The syndrome of a read -/

/-- R30: the syndrome compares the check bits of the data as read with the check bits as read. -/
theorem decodeWord_syndrome (v : StoreWord) :
    (decodeWord v).syndrome = (checkBits (v.setWidth 16) ^^^ v.extractLsb' 16 6).toNat := by
  have data : BitVec.ofNat 16 v.toNat = v.setWidth 16 := rfl
  have check : BitVec.ofNat 6 (v.toNat / 65536) = v.extractLsb' 16 6 := by
    simp [BitVec.extractLsb', Nat.shiftRight_eq_div_pow]
  simp only [decodeWord, data, check]
  split
  next clean => rw [clean]; rfl
  next => split_ifs <;> rfl

/-- With the data bits intact, the syndrome is the errors among the check bits. -/
theorem decodeWord_syndrome_of_check_error (w : Word) (e : StoreWord) (h : e.setWidth 16 = 0#16) :
    (decodeWord (encodeWord w ^^^ e)).syndrome = (e.extractLsb' 16 6).toNat := by
  rw [decodeWord_syndrome, BitVec.setWidth_xor, BitVec.extractLsb'_xor, setWidth_encodeWord, extractLsb'_encodeWord, h,
    BitVec.xor_zero, ← BitVec.xor_assoc, BitVec.xor_self, BitVec.zero_xor]

/-- The error in check bit c_i leaves the data bits alone, and read as a syndrome it is 2^i. -/
theorem checkColumn_parts :
    ∀ i < 6, (BitVec.ofNat 22 (2 ^ (16 + i))).setWidth 16 = 0#16
      ∧ ((BitVec.ofNat 22 (2 ^ (16 + i))).extractLsb' 16 6).toNat = 2 ^ i := by
  decide

/-- Settles O13: the check bits by the parity of a fold of syndromes, the columns by R29's table, and the rewrite by
the rule of the DRAM's list. -/
theorem checkBitsAreEvenParities : Obligations.CheckBitsAreEvenParities := by
  intro w
  refine ⟨fun i hi => getLsbD_encodeWord_data w hi, fun i hi => ?_, getLsbD_dataSyndromes,
    fun i hi => ?_, by decide, by decide, fun m a hm => ?_⟩
  · rw [getLsbD_encodeWord_check, getLsbD_checkBits w i hi]
  · obtain ⟨dataIntact, column⟩ := checkColumn_parts i hi
    rw [decodeWord_syndrome_of_check_error w _ dataIntact, column]
  · exact dramWriteWords_same [w] m a hm 0 Nat.one_pos

end Sys2Proof.Machine
end

section
/-! PROOF. Run-length coding: what the runs of a line expand to (R42), and how many codes the runs take (R44). -/

namespace Sys2Proof.Machine

/-! ## The runs of a line (R42) -/

theorem runsFrom_cons_same (bs : List Bool) (c : Bool) (n : Nat) :
    runsFrom (c :: bs) c n = runsFrom bs c (n + 1) := by simp [runsFrom]

theorem runsFrom_cons_not (bs : List Bool) (c : Bool) (n : Nat) :
    runsFrom ((!c) :: bs) c n = n :: runsFrom bs (!c) 1 := by simp [runsFrom]

/-- Runs of alternating colour expand to the dots they were counted from, the current run's dots first. -/
theorem expandRuns_runsFrom (bs : List Bool) (c : Bool) (n : Nat) :
    expandRuns c (runsFrom bs c n) = List.replicate n c ++ bs := by
  induction bs generalizing c n with
  | nil => simp [runsFrom, expandRuns]
  | cons b bs ih =>
    obtain rfl | rfl := Bool.eq_or_eq_not b c
    · rw [runsFrom_cons_same, ih, List.replicate_succ', List.append_assoc, List.singleton_append]
    · rw [runsFrom_cons_not, expandRuns, ih, List.replicate_one, List.singleton_append]

/-- The current run keeps the dots it holds, and every later run holds at least the dot that ended the one before. -/
theorem runsFrom_eq_cons (bs : List Bool) (c : Bool) (n : Nat) :
    ∃ first rest, runsFrom bs c n = first :: rest ∧ n ≤ first ∧ ∀ m ∈ rest, 1 ≤ m := by
  induction bs generalizing c n with
  | nil => exact ⟨n, [], rfl, le_rfl, by simp⟩
  | cons b bs ih =>
    obtain rfl | rfl := Bool.eq_or_eq_not b c
    · obtain ⟨first, rest, runs, held, later⟩ := ih b (n + 1)
      exact ⟨first, rest, by rw [runsFrom_cons_same, runs], Nat.le_of_succ_le held, later⟩
    · obtain ⟨next, rest, runs, held, later⟩ := ih (!c) 1
      exact ⟨n, next :: rest, by rw [runsFrom_cons_not, runs], le_rfl, List.forall_mem_cons.mpr ⟨held, later⟩⟩

/-- Only the current run can be empty. -/
theorem one_le_of_mem_tail_runsFrom (bs : List Bool) (c : Bool) (n : Nat) :
    ∀ m ∈ (runsFrom bs c n).tail, 1 ≤ m := by
  obtain ⟨first, rest, runs, -, later⟩ := runsFrom_eq_cons bs c n
  rwa [runs, List.tail_cons]

theorem head?_runsFrom_of_head?_not {bs : List Bool} {c : Bool} (n : Nat) (h : bs.head? = some !c) :
    (runsFrom bs c n).head? = some n := by
  obtain ⟨rest, rfl⟩ := List.head?_eq_some_iff.mp h
  rw [runsFrom_cons_not, List.head?_cons]

theorem length_expandRuns (c : Bool) (runs : List Nat) : (expandRuns c runs).length = runs.sum := by
  induction runs generalizing c with
  | nil => rfl
  | cons n rest ih => simp [expandRuns, ih]

theorem expandRuns_runsOfDots (d : Dots) : expandRuns false (runsOfDots d) = boolsOfDots d := by
  rw [runsOfDots, expandRuns_runsFrom, List.replicate_zero, List.nil_append]

theorem length_boolsOfDots (d : Dots) : (boolsOfDots d).length = 1728 := by
  simp [boolsOfDots, Config.lineDots]

theorem head?_boolsOfDots (d : Dots) : (boolsOfDots d).head? = some (Dots.dot d 0) := by
  simp [boolsOfDots, Config.lineDots, List.head?_range]

/-- The runs of a line sum to the number of dots they expand to. -/
theorem sum_runsOfDots (d : Dots) : (runsOfDots d).sum = 1728 := by
  rw [← length_expandRuns false, expandRuns_runsOfDots, length_boolsOfDots]

/-- Settles O16: the runs expand to the line, so their sum is its number of dots and bounds each of them. -/
theorem runsOfALineSumTo1728 : Obligations.RunsOfALineSumTo1728 := by
  intro d
  refine ⟨expandRuns_runsOfDots d, one_le_of_mem_tail_runsFrom _ _ _, fun n hn => ?_, sum_runsOfDots d,
    fun black => ?_⟩
  · exact sum_runsOfDots d ▸ List.le_sum_of_mem hn
  · exact head?_runsFrom_of_head?_not 0 ((head?_boolsOfDots d).trans (congrArg some black))

/-! ## The codes of the runs (R44) -/

theorem runCodes_of_lt {r : Nat} (table : List Byte) (black : Bool) (h : r < 64) :
    runCodes table black r = [codeBits table black false r] := if_pos h

theorem runCodes_of_le {r : Nat} (table : List Byte) (black : Bool) (h : 64 ≤ r) :
    runCodes table black r
      = [codeBits table black true (r / 64 * 64), codeBits table black false (r % 64)] :=
  if_neg (Nat.not_lt.mpr h)

/-- A run takes its terminating code, and a chunk code when it has a whole 64. -/
theorem length_runCodes (table : List Byte) (black : Bool) (r : Nat) :
    (runCodes table black r).length = 1 + if 64 ≤ r then 1 else 0 := by
  split
  next long => rw [runCodes_of_le table black long, List.length_cons, List.length_singleton]
  next short => rw [runCodes_of_lt table black (Nat.lt_of_not_le short), List.length_singleton]

/-- A line's runs take a terminating code each, and a chunk code for each run of 64 or more. -/
theorem length_runsCodes (table : List Byte) (black : Bool) (runs : List Nat) :
    (runsCodes table black runs).length = runs.length + runs.countP fun n => decide (64 ≤ n) := by
  induction runs generalizing black with
  | nil => rfl
  | cons n rest ih =>
    rw [runsCodes, List.length_append, length_runCodes, ih, List.length_cons, List.countP_cons]
    simp only [decide_eq_true_eq]
    omega

/-- R169: the terminating codes of a colour are its first 64 places, in ascending run value. -/
theorem codeBits_terminating (table : List Byte) (black : Bool) (r : Nat) :
    codeBits table black false r = tableItem table (3 * ((if black then 91 else 0) + r)) := by
  simp [codeBits, codeIndex]

/-- R169: the chunk codes of a colour follow its terminating codes, in ascending run value. -/
theorem codeBits_chunk (table : List Byte) (black : Bool) (k : Nat) :
    codeBits table black true (64 * k) = tableItem table (3 * ((if black then 91 else 0) + 63 + k)) := by
  simp [codeBits, codeIndex, Nat.add_assoc]

/-- Settles O17: the codes of a run by its two cases, the codes of a line by adding up its runs. -/
theorem runsAreCodedByTheTable : Obligations.RunsAreCodedByTheTable := fun table black r =>
  ⟨runCodes_of_lt table black, runCodes_of_le table black, fun _ => codeBits_terminating table black r,
    fun k _ _ => codeBits_chunk table black k, length_runsCodes table black⟩

end Sys2Proof.Machine
end

section
/-! PROOF. The widths of the strobe: the base width of a line's bands (R101), and a phase's share of it by the dots
that its history repeats, clamped (R102). -/

namespace Sys2Proof.Machine

/-! ## The base width (R101) -/

/-- Where both bands have an entry, the base width is made of those entries and not of a default. -/
theorem baseWidth_eq_getElem (h : Heat) (theta volts : Byte) (hb : theta.toNat / 16 < h.base.length)
    (hf : volts.toNat / 16 < h.factor.length) :
    baseWidth h theta volts = h.base[theta.toNat / 16] * h.factor[volts.toNat / 16] / 128 := by
  rw [baseWidth, List.getD_eq_getElem _ _ hb, List.getD_eq_getElem _ _ hf]

theorem scaled_le_7968 {base factor : Nat} (hb : base ≤ 4000) (hf : factor ≤ 255) :
    base * factor / 128 ≤ 7968 :=
  calc base * factor / 128
    _ ≤ 4000 * 255 / 128 := Nat.div_le_div_right (Nat.mul_le_mul hb hf)
    _ = 7968 := by norm_num

/-! ## The share that the history leaves (R102) -/

/-- R102's width of a phase before it is clamped, over the base width `b`, the `d` dots of the phase, the `q` of them
that repeat the history, and the history weight `k`. -/
def historyShare (b k d q : Nat) : Nat := b * (256 * d - k * q) / (256 * d)

/-- A weight of at most 255 leaves the bracket at least one 256th of the full width. -/
theorem le_historyBracket {k d q : Nat} (weight : k ≤ 255) (repeated : q ≤ d) :
    d ≤ 256 * d - k * q := by
  have taken : k * q ≤ 255 * d := Nat.mul_le_mul weight repeated
  omega

theorem historyShare_zero (b q : Nat) {d : Nat} (hd : 1 ≤ d) : historyShare b 0 d q = b := by
  rw [historyShare, Nat.zero_mul, Nat.sub_zero]
  exact Nat.mul_div_cancel b (by omega)

/-- At the greatest weight, with every dot repeated, the bracket is the dots alone. -/
theorem historyShare_full (b : Nat) {d : Nat} (hd : 1 ≤ d) : historyShare b 255 d d = b / 256 := by
  have bracket : 256 * d - 255 * d = d := by omega
  rw [historyShare, bracket, Nat.mul_div_mul_right b 256 hd]

/-! ## The clamp (R102) -/

theorem phaseWidth_of_lt_wmin {h : Heat} {base : Nat} {p : Phase}
    (low : historyShare base h.history p.dots p.hist < h.wmin) : phaseWidth h base p = h.wmin :=
  if_pos low

/-- The model tests `wmin` first, so that a width over `wmax` meets its clamp only where the two are in order. -/
theorem phaseWidth_of_wmax_lt {h : Heat} {base : Nat} {p : Phase} (ordered : h.wmin ≤ h.wmax)
    (high : h.wmax < historyShare base h.history p.dots p.hist) : phaseWidth h base p = h.wmax :=
  (if_neg (Nat.not_lt.mpr (ordered.trans high.le))).trans (if_pos high)

theorem phaseWidth_of_within {h : Heat} {base : Nat} {p : Phase}
    (low : h.wmin ≤ historyShare base h.history p.dots p.hist)
    (high : historyShare base h.history p.dots p.hist ≤ h.wmax) :
    phaseWidth h base p = historyShare base h.history p.dots p.hist :=
  (if_neg (Nat.not_lt.mpr low)).trans (if_neg (Nat.not_lt.mpr high))

/-- Settles O19: the base width from the entries of its bands, the phase's width from its history share and the three
cases of the clamp. -/
theorem widthsFollowBandsAndHistory : Obligations.WidthsFollowBandsAndHistory := by
  refine ⟨fun h theta volts hb hf => ?_, fun h base p hdots hhist hweight ordered => ?_⟩
  · have entries := baseWidth_eq_getElem h theta volts hb hf
    exact ⟨entries, fun base4000 factor255 => entries ▸ scaled_le_7968 base4000 factor255⟩
  · refine ⟨phaseWidth_of_lt_wmin, phaseWidth_of_wmax_lt ordered, phaseWidth_of_within, fun weightless => ?_,
      fun full repeated => ?_, le_historyBracket hweight hhist⟩
    · rw [weightless]; exact historyShare_zero base p.hist hdots
    · rw [full, repeated]; exact historyShare_full base hdots

end Sys2Proof.Machine
end

section
/-! PROOF. The ATTN output: the three conditions it is the conjunction of (R184). -/

namespace Sys2Proof.Machine

/-- The queue's test for an entry to show, as a statement about its entries. -/
theorem any_not_withheld_iff (queue : List QueueEntry) :
    (queue.any fun e => !e.withheld) = true ↔ ∃ e ∈ queue, e.withheld = false := by
  simp only [List.any_eq_true, Bool.not_eq_true']

/-- Settles O22: ATTN is a conjunction of three tests, and each test is read as the condition it decides. -/
theorem attnFollowsTheReportQueue : Obligations.AttnFollowsTheReportQueue := by
  intro s
  have queue := any_not_withheld_iff s.reports
  have released : (s.boot.state == .ready) = true ↔ s.boot.state = .ready := beq_iff_eq
  have notRetaining : (s.power.level != some .retain) = true ↔ s.power.level ≠ some .retain := bne_iff_ne
  rw [State.attn, Bool.and_eq_true, Bool.and_eq_true, queue, released, notRetaining, and_assoc]

end Sys2Proof.Machine
end

section
/-! PROOF. The step and the frames of every command: the invariant (R182 and the capacities), the one fault, what
leaves the SETUP values and tables, what writes the store, what the inputs follow. -/

namespace Sys2Proof.Machine

/-- Settles O1: by the two cases of the step's match on its queue. -/
theorem stepRunsFrontCommand : Obligations.StepRunsFrontCommand :=
  ⟨fun s c rest h => by rw [step, h], fun s h => by rw [step, h]⟩

/-! ## The invariant -/

/-- The state after a reset has empty queues and fresh records, whatever the DRAM holds. -/
theorem afterReset_lite (pending : List Instr) (now choices : Nat) (pins : Pins) (dram : List (Nat × StoreWord))
    (retained : Bool) : (State.afterReset pending now choices pins dram retained).Lite := by
  refine ⟨⟨List.nodup_nil, nofun⟩, ?_, fun r => ?_⟩
  · simp [State.capsWf, State.afterReset, LinePort.idlePort, Coder.idleCoder, Motor.idleMotor, HostIn.idleFlow]
  · simp [State.afterReset, State.route, Route.countsWf, Route.idleRecord]

/-- What holds outside the DRAM's list is kept by every command. -/
theorem exec_keeps_lite (c : Instr) (s t : State) (lite : s.Lite) (h : exec c s = .next t) : t.Lite := by
  by_cases parsing : parses c = true
  · exact (mild_exec c s t parsing h).lite lite
  · rw [Bool.not_eq_true] at parsing
    cases c
    case burstEnd flips =>
      obtain rfl | ⟨b, -, u, ended, resumed⟩ := burstEnd_cases flips s t h
      · exact lite
      · have burst := (boots_endBurst s b flips).lite lite
        exact resumed.lite ((mild_resume u s.power.level).lite (ended.lite burst))
    case reset held => cases h; exact afterReset_lite ..
    all_goals exact (resumes_exec _ s t parsing nofun nofun h).keeps.lite lite

/-- A command leaves the DRAM, or is the end of a burst. -/
theorem exec_dram (c : Instr) (s t : State) (notBurst : ∀ flips, c ≠ .burstEnd flips) (h : exec c s = .next t) :
    t.store.dram = s.store.dram := by
  by_cases parsing : parses c = true
  · exact (mild_exec c s t parsing h).dram
  · rw [Bool.not_eq_true] at parsing
    cases c
    case reset held => cases h; rfl
    case burstEnd flips => exact absurd rfl (notBurst flips)
    all_goals exact (resumes_exec _ s t parsing nofun nofun h).keeps.dram

/-- What the end of a burst leaves in the DRAM is what the burst itself leaves there: the parser and the next grant
write nothing. -/
theorem execBurstEnd_dram (flips : List StoreWord) (s t : State) (h : exec (.burstEnd flips) s = .next t) :
    t = s ∨ ∃ b, s.store.burst = some b ∧ t.store.dram = (s.endBurst b flips).store.dram := by
  obtain rfl | ⟨b, hb, u, ended, resumed⟩ := burstEnd_cases flips s t h
  · exact .inl rfl
  · exact .inr ⟨b, hb, resumed.dram.trans ((mild_resume u s.power.level).dram.trans ended.dram)⟩

theorem exec_keeps_dramWf (c : Instr) (s t : State) (wf : dramWf s.store.dram = true) (h : exec c s = .next t) :
    dramWf t.store.dram = true := by
  by_cases burst : ∃ flips, c = .burstEnd flips
  · obtain ⟨flips, rfl⟩ := burst
    obtain rfl | ⟨b, -, dram⟩ := execBurstEnd_dram flips s t h
    · exact wf
    · rw [dram]; exact endBurst_dramWf s b flips wf
  · rw [exec_dram c s t (fun flips e => burst ⟨flips, e⟩) h]; exact wf

/-- A property of states that no command spoils, and neither the model's clock nor its queue of commands holds a part
of, is kept by every step. -/
theorem step_keeps {P : State → Prop} (tick : ∀ s, P s → P { s with now := s.now + 1 })
    (taken : ∀ s rest, P s → P { s with pending := rest })
    (command : ∀ c s t, P s → exec c s = .next t → P t) {s t : State} (hs : P s) (h : step s = .next t) : P t := by
  unfold step at h
  split at h
  · cases h; exact tick s hs
  · exact command _ _ t (taken s _ hs) h

/-- Settles O3: by the frames of the commands, the end of a burst and the reset apart. -/
theorem stepKeepsInvariant : Obligations.StepKeepsInvariant := fun _ _ inv h =>
  step_keeps (P := State.Inv) (fun _ => id) (fun _ _ => id)
    (fun c s t ⟨wf, lite⟩ h => ⟨exec_keeps_dramWf c s t wf h, exec_keeps_lite c s t lite h⟩) inv h

/-! ## The one fault -/

/-- Only the two commands that grant can stop. -/
theorem exec_next (c : Instr) (s : State) (notGrant : c ≠ .arbiterGrant) (notBurst : ∀ flips, c ≠ .burstEnd flips) :
    ∃ t, exec c s = .next t := by
  cases c
  case arbiterGrant => exact absurd rfl notGrant
  case burstEnd flips => exact absurd rfl (notBurst flips)
  case imageEnd check => simp only [exec, execImageEnd]; split <;> exact ⟨_, rfl⟩
  case tableLoadEnd data => simp only [exec, execTableLoadEnd]; split <;> exact ⟨_, rfl⟩
  case outboundRead => simp only [exec, execOutboundRead]; split <;> exact ⟨_, rfl⟩
  case refreshTimerExpiry => simp only [exec, execRefreshTimerExpiry]; split <;> exact ⟨_, rfl⟩
  case scrubTimerExpiry => simp only [exec, execScrubTimerExpiry]; split <;> exact ⟨_, rfl⟩
  case wakingEnd => simp only [exec, execWakingEnd]; split <;> exact ⟨_, rfl⟩
  case routeEndDeferred => simp only [exec, execRouteEndDeferred]; split; split; all_goals exact ⟨_, rfl⟩
  case coderLineComplete => simp only [exec, execCoderLineComplete]; split; split; all_goals exact ⟨_, rfl⟩
  case decoderLine => simp only [exec, execDecoderLine]; split <;> exact ⟨_, rfl⟩
  case decodingEnd decoder => cases decoder <;> exact ⟨_, rfl⟩
  case carrierTimerExpiry => simp only [exec, execCarrierTimerExpiry]; split <;> exact ⟨_, rfl⟩
  case lineSendEnd => simp only [exec, execLineSendEnd]; split <;> exact ⟨_, rfl⟩
  case captureComplete => simp only [exec, execCaptureComplete]; split <;> exact ⟨_, rfl⟩
  case lampWarm => simp only [exec, execLampWarm]; split <;> exact ⟨_, rfl⟩
  case strobeTimerExpiry => simp only [exec, execStrobeTimerExpiry]; split; split; all_goals exact ⟨_, rfl⟩
  case converterSample => simp only [exec, execConverterSample]; split <;> exact ⟨_, rfl⟩
  case headSettled => simp only [exec, execHeadSettled]; split <;> exact ⟨_, rfl⟩
  case stepTimerExpiry => simp only [exec, execStepTimerExpiry]; split <;> exact ⟨_, rfl⟩
  case holdTimerExpiry => simp only [exec, execHoldTimerExpiry]; split <;> exact ⟨_, rfl⟩
  case cutterTimeout => simp only [exec, execCutterTimeout]; split <;> exact ⟨_, rfl⟩
  case pfailAssert => simp only [exec, execPfailAssert]; split <;> exact ⟨_, rfl⟩
  all_goals exact ⟨_, rfl⟩

/-- Settles O8: the grant's own outcome decides, alone and at a burst's end; no other command stops. -/
theorem onlyGrantsOutsideTheStoreStop : Obligations.OnlyGrantsOutsideTheStoreStop := by
  intro c s
  by_cases grant : c = .arbiterGrant
  · subst grant
    cases granted : s.grantNext with
    | some t => exact .inl ⟨t.react.resume s.power.level, by simp only [exec, execArbiterGrant, granted]⟩
    | none => exact .inr ⟨by simp only [exec, execArbiterGrant, granted], .inl ⟨rfl, rfl⟩⟩
  by_cases burst : ∃ flips, c = .burstEnd flips
  · obtain ⟨flips, rfl⟩ := burst
    simp only [exec, execBurstEnd]
    split
    · exact .inl ⟨_, rfl⟩
    next b hb =>
      split
      · exact .inl ⟨_, rfl⟩
      next none => exact .inr ⟨rfl, .inr ⟨flips, b, rfl, hb, none⟩⟩
  · exact .inl (exec_next c s grant fun flips e => burst ⟨flips, e⟩)

/-! ## The frames of the commands -/

/-- The end of a burst leaves the SETUP values, the geometry, the tables and the inbound FIFO, but where the parser
resumes. -/
theorem resumes_execBurstEnd (flips : List StoreWord) (s t : State)
    (quiet : s.port.inFifo = [] ∨ wakes s.power.level = false) (h : exec (.burstEnd flips) s = .next t) :
    t = s ∨ ∃ m, Boots (s.setDram m) t := by
  obtain rfl | ⟨b, -, u, ended, resumed⟩ := burstEnd_cases flips s t h
  · exact .inl rfl
  · have burst := (boots_endBurst s b flips).trans ended.boots
    rw [resume_still u s.power.level (quiet.imp burst.inFifo.trans id)] at resumed
    exact .inr ⟨_, burst.trans resumed.boots⟩

/-- Settles O9: by the frames of the events, the end of a burst apart. -/
theorem eventsKeepSetupAndTables : Obligations.EventsKeepSetupAndTables := by
  intro c s t parsing notReset quiet h
  by_cases burst : ∃ flips, c = .burstEnd flips
  · obtain ⟨flips, rfl⟩ := burst
    obtain rfl | ⟨m, boots⟩ := resumes_execBurstEnd flips s t quiet h
    · exact ⟨rfl, rfl, rfl, fun _ => rfl⟩
    · exact ⟨boots.setup, boots.geometry, boots.inFifo, boots.tables⟩
  · have leaves :=
      (resumes_exec c s t parsing (fun flips e => burst ⟨flips, e⟩) notReset h).leaves quiet
    exact ⟨leaves.setup, leaves.geometry, leaves.inFifo, leaves.tables⟩

/-- Settles O10. -/
theorem onlyBurstEndsWriteTheStore : Obligations.OnlyBurstEndsWriteTheStore := fun c s t =>
  exec_dram c s t

/-- No order and no byte is the event of an input. -/
theorem pinsAfter_of_parses (c : Instr) (p : Pins) (h : parses c = true) : pinsAfter p c = p := by
  cases c <;> first | rfl | cases h

/-- Settles O12: the orders leave every level, each event sets its own, and the end of a burst and a reset set none. -/
theorem inputsFollowTheirEvents : Obligations.InputsFollowTheirEvents := by
  intro c s t h
  by_cases parsing : parses c = true
  · exact (mild_exec c s t parsing h).pins.trans (pinsAfter_of_parses c s.pins parsing).symm
  · rw [Bool.not_eq_true] at parsing
    cases c
    case burstEnd flips =>
      obtain rfl | ⟨b, -, u, ended, resumed⟩ := burstEnd_cases flips s t h
      · rfl
      · exact resumed.pins.trans ((mild_resume u s.power.level).pins.trans
          (ended.pins.trans (boots_endBurst s b flips).pins))
    case reset held => cases h; rfl
    all_goals exact (resumes_exec _ s t parsing nofun nofun h).keeps.pins

end Sys2Proof.Machine
end

section
/-! PROOF. The end of a burst word by word (R23 to R29), the correction of bit errors (R30), the error log (R31), and
the state after a reset. -/

namespace Sys2Proof.Machine

/-! ## The words of a burst -/

/-- The first address and the words that a burst stores, where it is one that writes. -/
def BurstKind.stored : BurstKind → Option (Nat × List Word)
  | .dirLink blk v => some (Config.linkBase + blk, [v])
  | .dirImage p half ws => some (Config.imageBase + 16 * p.val + (if half then 8 else 0), ws)
  | .header _ ws => some (0, ws)
  | .bootWrite a ws | .coderWrite a ws | .lineWrite a ws _ | .hostWrite a ws => some (a, ws)
  | _ => none

/-- A burst that writes reads nothing, covers the words it stores and stores them. -/
theorem stored_spec (k : BurstKind) {a : Nat} {ws : List Word} (h : k.stored = some (a, ws)) (p : Nat) :
    k.logClient = none ∧ k.span p = (a, ws.length)
      ∧ ∀ m xs, burstMem k p m xs = dramWriteWords m a ws := by
  cases k <;> cases h <;> exact ⟨rfl, rfl, fun _ _ => rfl⟩

/-- A burst that writes nothing leaves the DRAM as it read it, but that scrub writes back what it corrected. -/
theorem burstMem_of_not_stored (k : BurstKind) (h : k.stored = none) (p : Nat) (m : List (Nat × StoreWord))
    (xs : List ReadWord) : burstMem k p m xs = m ∨ k = .scrub ∧ burstMem k p m xs = scrubWords m p xs := by
  cases k <;> first | exact .inl rfl | exact .inr ⟨rfl, rfl⟩ | cases h

/-- A word of the DRAM outside a burst is not touched by the bit errors that come in with it. -/
theorem flippedDram_outside (s : State) (b : Burst) (flips : List StoreWord) (a : Nat)
    (outside : a < (b.kind.span s.store.scrubPos).1
      ∨ (b.kind.span s.store.scrubPos).1 + (b.kind.span s.store.scrubPos).2 ≤ a) :
    dramRead (flippedDram s b flips) a = dramRead s.store.dram a := by
  simp only [flippedDram]
  split
  · refine dramFlip_other _ _ _ _ (outside.imp_right fun above => ?_)
    have taken := List.length_take_le (b.kind.span s.store.scrubPos).2 flips
    omega
  · rfl

theorem length_burstReads_le (s : State) (b : Burst) (flips : List StoreWord) :
    (burstReads s b flips).length ≤ (b.kind.span s.store.scrubPos).2 := by
  simp only [burstReads]
  split <;> simp [dramReadWords]

/-- The end of a burst leaves every word outside it. -/
theorem endBurst_outside (s : State) (b : Burst) (flips : List StoreWord) (a : Nat)
    (outside : a < (b.kind.span s.store.scrubPos).1
      ∨ (b.kind.span s.store.scrubPos).1 + (b.kind.span s.store.scrubPos).2 ≤ a) :
    dramRead (s.endBurst b flips).store.dram a = dramRead s.store.dram a := by
  rw [endBurst_dram, ← flippedDram_outside s b flips a outside]
  cases writing : b.kind.stored with
  | some x =>
    obtain ⟨first, ws⟩ := x
    obtain ⟨-, span, mem⟩ := stored_spec b.kind writing s.store.scrubPos
    rw [mem]
    rw [span] at outside
    exact dramWriteWords_other _ _ _ _ outside
  | none =>
    obtain mem | ⟨scrub, mem⟩ := burstMem_of_not_stored b.kind writing s.store.scrubPos
      (flippedDram s b flips) (burstReads s b flips)
    · rw [mem]
    · rw [mem]
      have reads := length_burstReads_le s b flips
      rw [scrub] at outside reads
      refine scrubWords_other _ _ _ _ (outside.imp_right fun above => ?_)
      simp only [BurstKind.span] at above reads
      omega

/-- The end of a burst that writes stores its words with their check bits. -/
theorem endBurst_stored (s : State) (b : Burst) (flips : List StoreWord) {a : Nat} {ws : List Word}
    (writing : b.kind.stored = some (a, ws)) (wf : dramWf s.store.dram = true) (i : Nat) (h : i < ws.length) :
    dramRead (s.endBurst b flips).store.dram (a + i) = encodeWord ws[i] := by
  obtain ⟨reads, -, mem⟩ := stored_spec b.kind writing s.store.scrubPos
  have unflipped : flippedDram s b flips = s.store.dram := by simp [flippedDram, reads]
  rw [endBurst_dram, mem, unflipped]
  exact dramWriteWords_same ws _ a wf i h

/-- With a burst in progress its end leaves in the DRAM what the burst does. -/
theorem execBurstEnd_dram_of_burst {flips : List StoreWord} {s t : State} {b : Burst}
    (burst : s.store.burst = some b) (h : exec (.burstEnd flips) s = .next t) :
    t.store.dram = (s.endBurst b flips).store.dram := by
  simp only [exec, execBurstEnd, burst] at h
  split at h
  next u granted =>
    cases h
    exact (calm_grantNext _ _ granted).dram.trans ((mild_resume _ _).dram.trans (calm_react _).dram)
  · cases h

/-- Settles O11: by what a burst stores, and what the writes of the DRAM's list leave. -/
theorem burstEndWritesItsOwnWords : Obligations.BurstEndWritesItsOwnWords := by
  intro flips s t b burst h
  rw [execBurstEnd_dram_of_burst burst h]
  refine ⟨fun a outside => endBurst_outside s b flips a outside, fun wf a ws kind i hi => ?_⟩
  refine endBurst_stored s b flips ?_ wf i hi
  rcases kind with kind | ⟨_, kind⟩ | kind | kind | ⟨_, rfl, kind⟩ | ⟨_, _, rfl, kind⟩ | ⟨_, _, rfl, rfl, kind⟩ <;>
    rw [kind] <;> rfl

/-! ## Bit errors (R30) -/

/-- A fold of syndromes over an error and a word is that over the word and that over the error: the code is linear. -/
theorem foldl_syndromes_xor (w e : Word) (ds : List Nat) (c c' : BitVec 6) :
    ds.foldl (fun c i => if (w ^^^ e).getLsbD i then c ^^^ dataSyndromes.getD i 0 else c) (c ^^^ c')
      = ds.foldl (fun c i => if w.getLsbD i then c ^^^ dataSyndromes.getD i 0 else c) c
        ^^^ ds.foldl (fun c i => if e.getLsbD i then c ^^^ dataSyndromes.getD i 0 else c) c' := by
  induction ds generalizing c c' with
  | nil => rfl
  | cons d ds ih =>
    simp only [List.foldl_cons]
    rw [← ih]
    congr 1
    generalize dataSyndromes.getD d 0 = x
    rw [BitVec.getLsbD_xor]
    cases w.getLsbD d <;> cases e.getLsbD d
    case false.false => rfl
    case false.true => exact BitVec.xor_assoc ..
    case true.false =>
      show c ^^^ c' ^^^ x = c ^^^ x ^^^ c'
      ac_rfl
    case true.true =>
      show c ^^^ c' = c ^^^ x ^^^ (c' ^^^ x)
      rw [BitVec.xor_comm c' x, ← BitVec.xor_assoc, BitVec.xor_assoc c x x, BitVec.xor_self, BitVec.xor_zero]

theorem checkBits_xor (w e : Word) : checkBits (w ^^^ e) = checkBits w ^^^ checkBits e :=
  foldl_syndromes_xor w e (List.range 16) 0 0

/-- What R30's table makes of a syndrome: the class, and the data bits that it corrects. -/
def syndromeReading (x : BitVec 6) : Option ErrorClass × Word :=
  if x = 0 then (none, 0)
  else if dataSyndromes.contains x then (some .corrected, BitVec.ofNat 16 (2 ^ dataSyndromes.idxOf x))
  else if [1, 2, 4, 8, 16, 32].contains x then (some .corrected, 0)
  else (some .uncorrectable, 0)

/-- A read by its syndrome alone. -/
theorem decodeWord_eq (v : StoreWord) :
    decodeWord v =
      let x := checkBits (v.setWidth 16) ^^^ v.extractLsb' 16 6
      { data := v.setWidth 16 ^^^ (syndromeReading x).2, cls := (syndromeReading x).1, syndrome := x.toNat } := by
  have data : BitVec.ofNat 16 v.toNat = v.setWidth 16 := rfl
  have check : BitVec.ofNat 6 (v.toNat / 65536) = v.extractLsb' 16 6 := by
    simp [BitVec.extractLsb', Nat.shiftRight_eq_div_pow]
  simp only [decodeWord, data, check, syndromeReading]
  split
  next clean => simp [clean]
  next => split_ifs <;> simp

/-- A stored word with some bits in error reads as those errors alone would, the word joined to the data. -/
theorem decodeWord_encodeWord_xor (w : Word) (e : StoreWord) :
    decodeWord (encodeWord w ^^^ e)
      = { data := w ^^^ (decodeWord e).data, cls := (decodeWord e).cls, syndrome := (decodeWord e).syndrome } := by
  have syndrome : checkBits ((encodeWord w ^^^ e).setWidth 16) ^^^ (encodeWord w ^^^ e).extractLsb' 16 6
      = checkBits (e.setWidth 16) ^^^ e.extractLsb' 16 6 := by
    rw [BitVec.setWidth_xor, BitVec.extractLsb'_xor, setWidth_encodeWord, extractLsb'_encodeWord, checkBits_xor,
      BitVec.xor_comm (checkBits w), BitVec.xor_assoc, ← BitVec.xor_assoc (checkBits w), BitVec.xor_self,
      BitVec.zero_xor]
  simp only [decodeWord_eq (encodeWord w ^^^ e), decodeWord_eq e, syndrome]
  rw [BitVec.setWidth_xor, setWidth_encodeWord, BitVec.xor_assoc]

/-- One bit in error on an all-zero word is corrected, with the syndrome of its column. -/
theorem decodeWord_oneBit :
    ∀ i < 22, decodeWord (BitVec.ofNat 22 (2 ^ i))
      = { data := 0, cls := some .corrected
          syndrome := if i < 16 then (dataSyndromes.getD i 0).toNat else 2 ^ (i - 16) } := by
  decide +kernel

/-- Two bits in error on an all-zero word are detected. -/
theorem decodeWord_twoBits :
    ∀ j < 22, ∀ i < j, (decodeWord (BitVec.ofNat 22 (2 ^ i) ^^^ BitVec.ofNat 22 (2 ^ j))).cls
      = some .uncorrectable := by
  decide +kernel

/-- Settles O14: the code is linear, so that an error is read alike on every word; the errors of one and of two bits
are finitely many. -/
theorem oneBitCorrectedTwoDetected : Obligations.OneBitCorrectedTwoDetected := by
  intro w
  refine ⟨?_, fun i hi => ?_, fun i j hij hj => ?_⟩
  · have clean : decodeWord 0#22 = { data := 0, cls := none, syndrome := 0 } := by decide
    have read := decodeWord_encodeWord_xor w 0#22
    rw [BitVec.xor_zero, clean] at read
    exact read.trans (by rw [show w ^^^ (0 : Word) = w from BitVec.xor_zero])
  · rw [decodeWord_encodeWord_xor, decodeWord_oneBit i hi]
    simp only [show w ^^^ (0 : Word) = w from BitVec.xor_zero]
  · rw [BitVec.xor_assoc, decodeWord_encodeWord_xor]
    exact decodeWord_twoBits j hj i hij

/-! ## The error log (R31) -/

/-- R31's table: what the log takes. -/
theorem logTakes_iff (log : Option LogRecord) (cls : ErrorClass) :
    logTakes log cls = true ↔
      log = none ∨ ∃ y, log = some y ∧ y.cls = .corrected ∧ cls = .uncorrectable := by
  rcases log with _ | y <;> cases cls <;> simp [logTakes]

/-- Settles O15: by R31's table. -/
theorem errorLogTakesOffersByClass : Obligations.ErrorLogTakesOffersByClass := by
  intro s client a x
  refine ⟨fun clean => by simp only [State.offer, clean], fun cls offered => ⟨fun takes => ?_, fun y held turns => ?_⟩⟩
  · simp only [State.offer, offered, (logTakes_iff s.store.log cls).mpr takes, if_true]
    rfl
  · have turned : ¬ logTakes s.store.log cls = true := by
      rw [logTakes_iff, held]
      rintro (empty | ⟨z, same, corrected, rfl⟩)
      · cases empty
      · cases same
        rcases turns with worst | less
        · rw [corrected] at worst; cases worst
        · cases less
    simp only [State.offer, offered, turned, if_false, Bool.false_eq_true]

/-! ## The state after a reset -/

theorem reset_queuesWf : State.reset.queuesWf := by
  unfold State.queuesWf; decide +kernel

/-- Nothing is in use after a reset, every entry is FREE and no block of the part has a route. -/
theorem reset_pageBooks : State.reset.PageBooks := by
  refine ⟨?_, fun r => ?_, ?_, ?_⟩
  · unfold State.entryBooked State.writes; decide +kernel
  · have idle : State.reset.route r = Route.idleRecord := by revert r; decide +kernel
    rw [idle]
    exact ⟨fun _ => ⟨rfl, rfl, rfl⟩, nofun, nofun, nofun⟩
  · exact ⟨nofun, nofun, nofun, nofun, nofun, nofun, nofun, fun h => absurd rfl h, fun h => absurd rfl h, nofun, nofun,
      nofun⟩
  · unfold State.bootBooked; decide +kernel

theorem reset_poolBooks : State.reset.PoolBooks := by
  refine ⟨fun h => absurd h (by decide +kernel), by decide +kernel, fun h => absurd rfl h, nofun, by decide +kernel,
    nofun, by decide +kernel, rfl, fun _ => by decide +kernel, nofun, nofun, fun _ => ⟨?_, rfl, rfl⟩, nofun⟩
  unfold State.freeFrom; decide +kernel

theorem reset_bindBooks : State.reset.BindBooks := by
  refine ⟨?_, ?_, ?_, ?_, ?_, ?_, ?_, by decide +kernel, ?_, ?_, nofun, nofun, nofun, nofun, by decide +kernel, nofun⟩
  iterate 7 · unfold State.claimBooked; decide +kernel
  all_goals unfold State.motorBooked; decide +kernel

/-- Settles O2. -/
theorem resetStateMeetsInvariant : Obligations.ResetStateMeetsInvariant :=
  ⟨⟨reset_dramWf, afterReset_lite ..⟩, reset_queuesWf, reset_pageBooks, reset_poolBooks, reset_bindBooks⟩

end Sys2Proof.Machine
end

section
/-! PROOF. The phases of a strobe plan (R100), the Report Queue (R182, R152) and the Coder's bits (R44 to R49). -/

namespace Sys2Proof.Machine

/-! ## The phases of a plan (R100) -/

/-- The phases formed so far, in order. -/
def Forming.phases (f : Forming) : List Phase := f.closed.reverse ++ f.opened.toList

theorem Forming.reverse_eq_phases (f : Forming) : (f.opened.toList ++ f.closed).reverse = f.phases := by
  cases opened : f.opened <;> simp [Forming.phases, opened]

/-- What R100 says of one phase, where group `g` has `black g` black dots and `hist g` history dots. -/
structure Phase.Formed (budget : Nat) (black hist : Nat → Nat) (p : Phase) : Prop where
  nonempty : p.groups ≠ []
  dots_eq : p.dots = (p.groups.map black).sum
  hist_eq : p.hist = (p.groups.map hist).sum
  one_le : 1 ≤ p.dots
  within : if p.overBudget then p.groups.length = 1 ∧ budget < p.dots else p.dots ≤ budget

/-- A phase that is not over-budget is followed by one whose first group would pass the budget in it. -/
def Phase.EndsBefore (budget : Nat) (black : Nat → Nat) (p q : Phase) : Prop :=
  p.overBudget = false → ∀ g ∈ q.groups.head?, budget < p.dots + black g

/-- The forming of phases after the groups of a list (R100). -/
structure Forming.Holds (budget : Nat) (black hist : Nat → Nat) (gs : List Nat) (f : Forming) : Prop where
  groups_eq : f.phases.flatMap Phase.groups = gs.filter fun g => decide (0 < black g)
  formed : ∀ p ∈ f.phases, p.Formed budget black hist
  chain : f.phases.IsChain (Phase.EndsBefore budget black)
  last_over : ∀ p ∈ f.phases.getLast?, p.overBudget = f.opened.isNone

section
variable {budget : Nat} {black hist : Nat → Nat}

theorem Phase.alone_formed {g : Nat} {lone : Bool} (some_black : black g ≠ 0)
    (within : if lone then budget < black g else black g ≤ budget) :
    (Phase.alone g (black g) (hist g) lone).Formed budget black hist where
  nonempty := by simp [Phase.alone]
  dots_eq := by simp [Phase.alone]
  hist_eq := by simp [Phase.alone]
  one_le := Nat.pos_of_ne_zero some_black
  within := by cases lone <;> simpa [Phase.alone] using within

/-- A phase closes behind those formed where every open phase would be passed by its group. -/
theorem Forming.chain_concat {f : Forming} {p : Phase}
    (chain : f.phases.IsChain (Phase.EndsBefore budget black))
    (ends : ∀ x ∈ f.phases.getLast?, Phase.EndsBefore budget black x p) :
    (f.phases ++ [p]).IsChain (Phase.EndsBefore budget black) := by
  refine List.isChain_append.2 ⟨chain, .singleton p, fun x last y first => ?_⟩
  obtain rfl : p = y := by simpa using first
  exact ends x last

/-- A group that the open phase has room for joins it (R100). -/
theorem Phase.join_formed {p : Phase} {g : Nat} (formed : p.Formed budget black hist) (normal : p.overBudget = false)
    (fits : p.dots + black g ≤ budget) :
    ({ p with groups := p.groups ++ [g], dots := p.dots + black g, hist := p.hist + hist g } : Phase).Formed
      budget black hist where
  nonempty := by simp
  dots_eq := by simp [formed.dots_eq]
  hist_eq := by simp [formed.hist_eq]
  one_le := Nat.le_add_right_of_le formed.one_le
  within := by simpa [normal] using fits

/-- A group that closes what is open, or finds nothing open, stands behind every phase formed, alone (R100). -/
theorem Forming.Holds.add_alone {gs : List Nat} {f f' : Forming} {g : Nat} {lone : Bool}
    (holds : f.Holds budget black hist gs) (some_black : black g ≠ 0)
    (phases_eq : f'.phases = f.phases ++ [Phase.alone g (black g) (hist g) lone])
    (within : if lone then budget < black g else black g ≤ budget)
    (ends : ∀ x ∈ f.phases.getLast?, x.overBudget = false → budget < x.dots + black g)
    (opened : f'.opened.isNone = lone) : f'.Holds budget black hist (gs ++ [g]) where
  groups_eq := by
    rw [phases_eq, List.flatMap_append, holds.groups_eq]
    simp [Phase.alone, Nat.pos_of_ne_zero some_black]
  formed := by
    rw [phases_eq]
    intro p mem
    rcases List.mem_append.1 mem with old | new
    · exact holds.formed p old
    · rw [List.mem_singleton.1 new]; exact Phase.alone_formed some_black within
  chain := by
    rw [phases_eq]
    refine Forming.chain_concat holds.chain fun x last normal g' first => ?_
    obtain rfl : g = g' := by simpa [Phase.alone] using first
    exact ends x last normal
  last_over := by rw [phases_eq, opened]; simp [Phase.alone]

/-- A group with room in the open phase joins it (R100). -/
theorem Forming.Holds.join {gs : List Nat} {f : Forming} {p : Phase} {g : Nat}
    (holds : f.Holds budget black hist gs) (some_black : black g ≠ 0) (opened : f.opened = some p)
    (fits : p.dots + black g ≤ budget) :
    ({ f with
        opened := some { p with groups := p.groups ++ [g], dots := p.dots + black g, hist := p.hist + hist g } } :
          Forming).Holds budget black hist (gs ++ [g]) := by
  have phases_eq : f.phases = f.closed.reverse ++ [p] := by simp [Forming.phases, opened]
  have normal : p.overBudget = false := by simpa [opened] using holds.last_over p (by simp [phases_eq])
  obtain ⟨groups_eq, formed, chain, -⟩ := holds
  rw [phases_eq] at groups_eq formed chain
  have p_formed := formed p (by simp)
  refine ⟨?groups, ?formed, ?chain, by simp [Forming.phases, normal]⟩
  case groups =>
    simp [Nat.pos_of_ne_zero some_black, ← groups_eq, Forming.phases]
  case formed =>
    intro x mem
    rcases List.mem_append.1 mem with old | new
    · exact formed x (by simp_all)
    · obtain rfl := List.mem_singleton.1 new
      exact Phase.join_formed p_formed normal fits
  case chain =>
    obtain ⟨closed_chain, -, ends⟩ := List.isChain_append.1 chain
    refine List.isChain_append.2 ⟨closed_chain, .singleton _, fun x last y first normal g' head => ?_⟩
    obtain ⟨first', rest, groups⟩ := List.exists_cons_of_ne_nil p_formed.nonempty
    obtain rfl := Option.some.inj (Option.mem_def.1 first)
    exact ends x last p (by simp) normal g' (by simpa [groups] using head)

/-- One group taken keeps what R100 says of the phases. -/
theorem Forming.take_holds {gs : List Nat} {f : Forming} (g : Nat) (holds : f.Holds budget black hist gs) :
    (f.take budget g (black g) (hist g)).Holds budget black hist (gs ++ [g]) := by
  by_cases white : black g = 0
  · obtain ⟨groups_eq, formed, chain, last_over⟩ := holds
    rw [Forming.take, if_pos white]
    exact ⟨by simp [groups_eq, white], formed, chain, last_over⟩
  by_cases lone : budget < black g
  · rw [Forming.take, if_neg white, if_pos lone]
    exact holds.add_alone white (lone := true) (by simp [← Forming.reverse_eq_phases]) (by simpa using lone)
      (fun x _ _ => by omega) rfl
  rw [Forming.take, if_neg white, if_neg lone]
  cases opened : f.opened with
  | none =>
    refine holds.add_alone white (lone := false) (by simp [Forming.phases, opened]) (by simpa using lone)
      (fun x last normal => ?_) rfl
    simp [holds.last_over x last, opened] at normal
  | some p =>
    have phases_eq : f.phases = f.closed.reverse ++ [p] := by simp [Forming.phases, opened]
    by_cases fits : p.dots + black g ≤ budget
    · simpa only [if_pos fits] using holds.join white opened fits
    · simp only [if_neg fits]
      refine holds.add_alone white (lone := false) (by simp [Forming.phases, opened]) (by simpa using lone)
        (fun x last _ => ?_) rfl
      obtain rfl : p = x := by simpa [phases_eq] using last
      omega

/-- All groups taken, in order. -/
theorem Forming.foldl_holds (more : List Nat) {gs : List Nat} {f : Forming} (holds : f.Holds budget black hist gs) :
    (more.foldl (fun f g => f.take budget g (black g) (hist g)) f).Holds budget black hist (gs ++ more) := by
  induction more generalizing gs f with
  | nil => simpa using holds
  | cons g rest ih => simpa using ih (Forming.take_holds g holds)

end

/-- The phases of a line, widths not yet given, hold its eight groups as R100 says. -/
theorem exists_formPhases (budget : Nat) (dots old : Dots) :
    ∃ f : Forming, formPhases budget dots old = f.phases
      ∧ f.Holds budget (fun g => blackDots (dots[g]?.getD 0))
        (fun g => blackDots (dots[g]?.getD 0 &&& old[g]?.getD 0)) (List.range 8) := by
  refine ⟨_, Forming.reverse_eq_phases _, ?_⟩
  have start : ({ closed := [], opened := none } : Forming).Holds budget (fun g => blackDots (dots[g]?.getD 0))
      (fun g => blackDots (dots[g]?.getD 0 &&& old[g]?.getD 0)) [] := by
    constructor <;> simp [Forming.phases]
  simpa using Forming.foldl_holds (List.range 8) start

/-- A phase with its width given. -/
def Phase.sized (h : Heat) (base : Nat) (p : Phase) : Phase :=
  Phase.mk p.groups p.dots p.hist p.overBudget (phaseWidth h base p)

theorem planOf_phases (h : Heat) (theta volts : Byte) (dots old : Dots) :
    (planOf h theta volts dots old).phases
      = (formPhases h.budget dots old).map (Phase.sized h (baseWidth h theta volts)) := rfl

/-- Settles O20: the phases formed group by group keep what R100 says, and widths leave the rest of them. -/
theorem phasesHoldEveryBlackGroupOnce : Obligations.PhasesHoldEveryBlackGroupOnce := by
  unfold Obligations.PhasesHoldEveryBlackGroupOnce
  intro h theta volts dots old plan
  obtain ⟨f, formed_eq, groups_eq, formed, chain, -⟩ := exists_formPhases h.budget dots old
  have phases_eq : plan.phases = f.phases.map (Phase.sized h (baseWidth h theta volts)) := by
    rw [← formed_eq]; rfl
  refine ⟨?groups, ?each, ?ends, ?burn⟩
  case groups => rw [phases_eq, ← groups_eq, List.flatMap_map]; rfl
  case each =>
    rw [phases_eq]
    intro p mem
    obtain ⟨x, x_mem, rfl⟩ := List.mem_map.1 mem
    obtain ⟨-, dots_eq, hist_eq, one_le, within⟩ := formed x x_mem
    exact ⟨dots_eq, hist_eq, one_le, within, rfl⟩
  case ends =>
    intro front p q rest split normal
    rw [phases_eq] at split
    obtain ⟨front', tail, f_eq, -, split⟩ := List.map_eq_append_iff.1 split
    obtain ⟨p', tail, rfl, rfl, split'⟩ := List.map_eq_cons_iff.1 split
    obtain ⟨q', tail, rfl, rfl, -⟩ := List.map_eq_cons_iff.1 split'
    rw [f_eq] at chain
    exact (List.isChain_append_cons_cons.1 chain).2.1 normal
  case burn =>
    have burn_eq : plan.burn = if plan.phases.isEmpty then 0
        else h.load + (plan.phases.map fun p => p.width + h.gap).sum := rfl
    rw [burn_eq]
    cases plan.phases <;> rfl

/-! ## The Report Queue (R182, R152) -/

/-- The places of the Report Queue: the orders' refusals, the routes, the pages, the pool, the error log, the
motors and the cutter, the level, the sensors, the boot, the ANSWER and the MARK (R182). -/
def reportPlaces : List (Nat × Nat) :=
  (List.range 15).map (0x81, ·) ++ (List.range 4).map (0x82, ·) ++ (List.range 32).map (0x83, ·)
    ++ [(0x84, 0), (0x85, 0)] ++ (List.range 3).map (0x86, ·) ++ [(0x87, 0)] ++ (List.range 4).map (0x88, ·)
    ++ [(0x89, 0), (0x8B, 0), (0x8C, 0)]

theorem OrderKind.code_lt (k : OrderKind) : k.code < 15 := by cases k <;> decide

theorem Sensor.ctorIdx_lt (x : Sensor) : x.ctorIdx < 4 := by cases x <;> decide

theorem MotorSubject.ctorIdx_lt (x : MotorSubject) : x.ctorIdx < 3 := by cases x <;> decide

theorem place_mem_reportPlaces (x : Report) : x.place ∈ reportPlaces := by
  cases x with
  | refused k => simp [Report.place, Report.key, Report.kindCode, Report.subject, reportPlaces, k.code_lt]
  | sensor x => simp [Report.place, Report.key, Report.kindCode, Report.subject, reportPlaces, x.ctorIdx_lt]
  | moved m =>
    simp [Report.place, Report.key, Report.kindCode, Report.subject, reportPlaces, MotorSubject.ctorIdx_lt]
  | _ => simp [Report.place, Report.key, Report.kindCode, Report.subject, reportPlaces, OrderKind.code_lt]

/-- One entry a place makes at most 64 entries (R182). -/
theorem queueWf_length {q : List QueueEntry} (wf : queueWf q) : q.length ≤ 64 := by
  have places : (q.map fun e => e.report.place) ⊆ reportPlaces := by
    intro place mem
    obtain ⟨e, -, rfl⟩ := List.mem_map.1 mem
    exact place_mem_reportPlaces e.report
  simpa [reportPlaces] using (wf.1.subperm places).length_le

/-- A report joins the back where no entry has its key (R182). -/
theorem enqueue_new {x : Report} (withheld : Bool) {q : List QueueEntry}
    (new : x.key = none ∨ ∀ y ∈ q, y.report.key ≠ x.key) :
    enqueue x withheld q = q ++ [{ report := x, count := 1, withheld := withheld }] := by
  induction q with
  | nil => rfl
  | cons e rest ih =>
    have differs : ¬(x.key.isSome && e.report.key == x.key) = true := by
      rcases new with keyless | other
      · simp [keyless]
      · simp [other e List.mem_cons_self]
    rw [enqueue, if_neg differs, ih (new.imp_right fun other y mem => other y (List.mem_cons_of_mem e mem))]
    rfl

/-- A report takes the place of the entry of its key (R182). -/
theorem enqueue_merge {x : Report} (withheld : Bool) {e : QueueEntry} {back : List QueueEntry} (front : List QueueEntry)
    (keyed : x.key ≠ none) (same : e.report.key = x.key) (first : ∀ y ∈ front, y.report.key ≠ x.key) :
    enqueue x withheld (front ++ e :: back) = front
      ++ { report := x, count := min (e.count + 1) 255, withheld := e.withheld && withheld } :: back := by
  induction front with
  | nil => simp [enqueue, same, Option.isSome_iff_ne_none.2 keyed]
  | cons f front ih =>
    have differs : ¬(x.key.isSome && f.report.key == x.key) = true := by simp [first f List.mem_cons_self]
    rw [List.cons_append, enqueue, if_neg differs, ih fun y mem => first y (List.mem_cons_of_mem f mem)]
    rfl

theorem dozing_iff (s : State) : s.dozing = true ↔ s.power.level = some .enteringDoze
    ∨ s.power.level = some .doze ∨ s.power.level = some .dozeRx := by
  simp [State.dozing, or_assoc]

/-- The error reports (R152). -/
theorem isError_iff (x : Report) : x.isError = true ↔
    (∃ r n, x = .overrun r n) ∨ (∃ r bad run, x = .badLines r bad run) ∨ x = .poolOut
      ∨ ∃ r k o c u p l b, x = .ended r k o (some c) u p l b
        ∧ (c = .carrier ∨ c = .poolOut ∨ c = .noPage) := by
  cases x with
  | ended r k o c u p l b =>
    cases c with
    | none => simp [Report.isError]
    | some c => cases c <;> simp [Report.isError]
  | _ => simp [Report.isError]

/-- The reports of reception (R152). -/
theorem isReception_iff (s : State) (x : Report) : s.isReception x = true ↔
    (x.kindCode = 0x82 ∧ ∃ r : RouteNo, x.subject = r ∧ (s.route r).kind = some .lineReceive)
      ∨ (∃ p, x = .pageOpened p) ∨ (∃ p truncated, x = .pageClosed p truncated) ∨ x = .poolLow
      ∨ x = .poolOk := by
  have of_slot (r : RouteNo) : (s.route r).isKind .lineReceive = true
      ↔ ∃ r' : RouteNo, (r : Nat) = r' ∧ (s.route r').kind = some .lineReceive := by
    simp [Route.isKind, ← Fin.ext_iff]
  cases x <;> simp [State.isReception, Report.kindCode, Report.subject, of_slot]

/-- Settles O21: `queueReport` by its branches, `enqueue` by induction on the queue, and at most one entry for each of
the 64 places. -/
theorem reportsOfOneKeyCoalesce : Obligations.ReportsOfOneKeyCoalesce := by
  unfold Obligations.ReportsOfOneKeyCoalesce
  refine ⟨fun s x => ⟨fun _ => rfl, fun entering doze rx => ?awake, fun dozing => ?dozing, isError_iff x,
    isReception_iff s x⟩, fun x withheld q => ⟨?merge, enqueue_new withheld⟩, fun q => queueWf_length⟩
  case awake =>
    have awake : s.dozing = false := by simp [State.dozing, entering, doze, rx]
    simp [State.queueReport, awake]
  case dozing =>
    have dozing := (dozing_iff s).2 dozing
    exact ⟨fun error => ⟨fun loud => by simp [State.queueReport, dozing, error, loud],
        fun quiet => by simp [State.queueReport, dozing, error, quiet]⟩,
      fun noError => ⟨fun reception => by simp [State.queueReport, dozing, noError, reception],
        fun other => by simp [State.queueReport, dozing, noError, other]⟩⟩
  case merge =>
    rintro front e back rfl keyed same first
    exact enqueue_merge withheld front keyed same first

/-! ## The Coder's bits (R44 to R49) -/

theorem natOfBits_concat (bs : Bits) (b : Bool) : natOfBits (bs ++ [b]) = 2 * natOfBits bs + b.toNat := by
  simp [natOfBits]

theorem natOfBits_lt (bs : Bits) : natOfBits bs < 2 ^ bs.length := by
  induction bs using List.reverseRecOn with
  | nil => simp [natOfBits]
  | append_singleton bs b ih =>
    have := Bool.toNat_le b
    rw [natOfBits_concat, List.length_append, List.length_singleton, Nat.pow_succ]
    omega

theorem bitsOfNat_succ (n v : Nat) (b : Bool) : bitsOfNat (n + 1) (2 * v + b.toNat) = bitsOfNat n v ++ [b] := by
  have last : (2 * v + b.toNat).testBit 0 = b := by cases b <;> simp [Nat.testBit_zero]
  have halved : (2 * v + b.toNat) / 2 = v := by have := Bool.toNat_le b; omega
  simp only [bitsOfNat, List.range_succ, List.map_append, List.map_cons, List.map_nil]
  congr 1
  · refine List.map_congr_left fun i mem => ?_
    have := List.mem_range.1 mem
    rw [show n + 1 - 1 - i = (n - 1 - i) + 1 by omega, Nat.testBit_succ, halved]
  · simpa using last

/-- Bits read back from the number they make. -/
theorem bitsOfNat_natOfBits (bs : Bits) : bitsOfNat bs.length (natOfBits bs) = bs := by
  induction bs using List.reverseRecOn with
  | nil => rfl
  | append_singleton bs b ih => rw [natOfBits_concat, List.length_append, List.length_singleton, bitsOfNat_succ, ih]

theorem bitsOfWord_wordOfBits {bs : Bits} (length : bs.length = 16) : bitsOfWord (wordOfBits bs) = bs := by
  have bound := natOfBits_lt bs
  rw [length] at bound
  rw [bitsOfWord, wordOfBits, BitVec.toNat_ofNat, Nat.mod_eq_of_lt bound, ← length, bitsOfNat_natOfBits]

/-- Cutting words off bits loses none. -/
theorem cutWords_bits (fuel : Nat) (bs : Bits) :
    (cutWords fuel bs).1.flatMap bitsOfWord ++ (cutWords fuel bs).2 = bs := by
  induction fuel generalizing bs with
  | zero => rfl
  | succ fuel ih =>
    rw [cutWords]
    split
    · rfl
    · have word : bitsOfWord (wordOfBits (bs.take 16)) = bs.take 16 :=
        bitsOfWord_wordOfBits (by rw [List.length_take]; omega)
      simp only [List.flatMap_cons, word, List.append_assoc, ih, List.take_append_drop]

theorem dropBits_flatten (n : Nat) (codes : List Bits) : (dropBits n codes).flatten = codes.flatten.drop n := by
  induction codes generalizing n with
  | nil => simp [dropBits]
  | cons code rest ih =>
    rw [dropBits]
    split
    case isTrue whole => rw [ih, List.flatten_cons, List.drop_append, List.drop_of_length_le whole, List.nil_append]
    case isFalse part =>
      rw [List.flatten_cons, List.flatten_cons, List.drop_append_of_le_length (Nat.le_of_not_le part)]

namespace Coder

/-- The bits that the Coder has taken in and not written: its word queue's, then its accumulator's (R46). -/
def held (c : Coder) : Bits := c.queue.flatMap bitsOfWord ++ c.acc

/-- The bits of a line still to be appended: the codes in hand, then those of the runs left (R44). -/
def toCome (c : Coder) (table : List Byte) : Bits :=
  c.codes.flatten ++ (runsCodes table (!c.black) c.runs).flatten

theorem append_held (c : Coder) (bs : Bits) : (c.append bs).held = c.held ++ bs := by
  have cut := cutWords_bits Config.wordQueueCap (c.acc ++ bs)
  simp only [held, append, List.flatMap_append, List.append_assoc, cut]

/-- What a line's coding keeps: its bits in order, its dots and its bit positions (R47). -/
structure Conserves (table : List Byte) (c u : Coder) : Prop where
  bits : u.held ++ u.toCome table = c.held ++ c.toCome table
  dots : u.dot + u.runs.sum = c.dot + c.runs.sum
  pos : u.bitPos + (u.toCome table).length = c.bitPos + (c.toCome table).length

theorem Conserves.trans {table : List Byte} {c u v : Coder} (h : Conserves table c u) (k : Conserves table u v) :
    Conserves table c v :=
  ⟨k.bits.trans h.bits, k.dots.trans h.dots, k.pos.trans h.pos⟩

/-- Appending from the front of the codes in hand only moves their bits. -/
theorem appendSome_conserves (table : List Byte) (c : Coder) {codes : List Bits}
    (front : codes.flatten <+: c.codes.flatten) : Conserves table c (c.appendSome codes) := by
  obtain ⟨rest, split⟩ := (List.take_prefix c.space codes.flatten).trans front
  have codes_left : (c.appendSome codes).codes.flatten = rest := by
    rw [appendSome, dropBits_flatten, ← split, List.drop_left]
  have held_eq : (c.appendSome codes).held = c.held ++ codes.flatten.take c.space := append_held c _
  have pos_eq : (c.appendSome codes).bitPos = c.bitPos + (codes.flatten.take c.space).length := rfl
  have runs_eq : (c.appendSome codes).toCome table = rest ++ (runsCodes table (!c.black) c.runs).flatten := by
    rw [toCome, codes_left]; rfl
  refine ⟨?_, rfl, ?_⟩
  · rw [held_eq, runs_eq, toCome, ← split]; simp only [List.append_assoc]
  · rw [pos_eq, runs_eq, toCome, ← split]; simp only [List.length_append]; omega

/-- The next run in hand, with every code of the one before appended. -/
theorem nextRun_conserves (table : List Byte) (c : Coder) {n : Nat} {rest : List Nat} (runs : c.runs = n :: rest)
    (done : c.codes = []) : Conserves table c (c.nextRun table n rest) := by
  have same : (c.nextRun table n rest).toCome table = c.toCome table := by
    simp [toCome, nextRun, runs, done, runsCodes]
  refine ⟨by rw [same]; rfl, ?_, by rw [same]; rfl⟩
  simp [nextRun, runs, Nat.add_assoc]

theorem codeRuns_conserves (table : List Byte) (runs : List Nat) (c : Coder) (current : c.runs = runs) :
    Conserves table c (codeRuns table runs c) := by
  induction runs generalizing c with
  | nil =>
    refine appendSome_conserves table c ?_
    obtain ⟨last, split⟩ := List.dropLast_prefix c.codes
    exact ⟨last.flatten, by rw [← List.flatten_append, split]⟩
  | cons n rest ih =>
    have appended := appendSome_conserves table c (List.prefix_refl c.codes.flatten)
    rw [codeRuns]
    split
    case isTrue done =>
      exact (appended.trans (nextRun_conserves table _ current (List.isEmpty_iff.1 done))).trans (ih _ rfl)
    case isFalse => exact appended

theorem takeLine_codes (c : Coder) (table : List Byte) (d : Dots) :
    (c.takeLine table d).codes ++ runsCodes table true (c.takeLine table d).runs = lineCodes table d
      ∧ (c.takeLine table d).dot + (c.takeLine table d).runs.sum = 1728 := by
  have sum := sum_runsOfDots d
  cases runs : runsOfDots d with
  | nil => simp [runs] at sum
  | cons first rest =>
    rw [runs] at sum
    simpa [takeLine, lineCodes, runs, runsCodes] using sum

end Coder

theorem drained_iff (c : Scanner) :
    c.drained = true ↔ c.ready = [] ∧ c.capturing = false ∧ c.coding = false := by
  simp [Scanner.drained, and_assoc]

section
variable (s : State) {r : RouteNo} {p : PageNo}

/-- A waiting Coder takes no line under FINISH, STALLED or with none ready (R47, R67). -/
theorem coderTake_of_none (h : s.scanner.ready = [] ∨ (s.route r).halt = .finish ∨ (s.route r).state = .stalled) :
    s.coderTake r = s := by
  unfold State.coderTake
  cases ready : s.scanner.ready with
  | nil => rfl
  | cons d rest => exact if_neg fun ⟨_, running, moving⟩ => by simp_all

/-- The Coder closes its page once its last word is written and the places are free, and not before (R5, R49). -/
theorem coderClose_of_page (page : (s.route r).page = some p) :
    s.coderClose r
      = if s.coder.state = .ending ∧ s.coder.codes = [] ∧ s.coder.padding = false ∧ s.coder.acc = []
            ∧ s.coder.queue = [] ∧ s.imageNeed p ≤ s.dirPlaces then
          { s.closePage r p
            { truncated := s.coder.cutShort, bitLength := s.coder.bitPos
              lineCount := some (s.route r).linesDone, badLines := 0 } with
            coder := Coder.waitingFor r }
        else s := by
  simp only [State.coderClose, page, List.isEmpty_iff]

/-- The Coder enters ENDING at the marked line, and under FINISH (R49, R92, R93). -/
theorem coderEnd_of_page (page : (s.route r).page = some p) :
    s.coderEnd r
      = if (s.route r).halt = .finish ∨ s.scanner.mark ≠ .none ∧ s.scanner.drained then
          let table := s.storage (s.route r).code
          let short := decide (s.scanner.mark ≠ .none ∧ s.scanner.drained) && s.scanner.mark == .cutShort
          { s with coder :=
            { s.coder with
              state := .ending, padding := true, cutShort := short
              codes := if short then [] else List.replicate (endCount table) (syncBits table) } }
        else s := by
  simp only [State.coderEnd, page, Option.isSome_some, true_and]

end

/-- Settles O18: every move of the Coder only shifts bits from the codes in hand to its accumulator and queue; the
rest is the Coder's moves by their cases. -/
theorem coderKeepsEveryBit : Obligations.CoderKeepsEveryBit := by
  unfold Obligations.CoderKeepsEveryBit
  refine ⟨fun s r p page => ?moves, fun s r slot => ?pass,
    fun c bs acc queue fits => ?append, fun c table d => ?take, fun c table coding acc queue => ?pump,
    fun s r last slot coding codes runs live fits => ?complete⟩
  case moves =>
    intro x table whole written ending
    have whole_iff : s.scanner.mark ≠ .none ∧ s.scanner.drained = true ↔ whole := by
      rw [drained_iff]
    have end_eq := coderEnd_of_page s page
    refine ⟨fun d rest ready going moving => ?_, coderTake_of_none s, fun open_ going => ?_, fun all mark => ?_,
      fun all mark => ?_, fun open_ finish => ?_, fun done places => ?_, fun waits => ?_⟩
    · simp only [State.coderTake, ready]
      exact if_pos ⟨by simp [page], going, moving⟩
    · rw [end_eq, if_neg (by rw [whole_iff]; tauto)]
    · rw [end_eq, if_pos (.inr (whole_iff.2 all))]
      simp [ending, table, x, mark, (whole_iff.2 all).2]
    · rw [end_eq, if_pos (.inr (whole_iff.2 all))]
      simp [ending, table, x, mark]
    · rw [end_eq, if_pos (.inl finish)]
      simp [ending, table, x, whole_iff, open_]
    · obtain ⟨state, codes, padding, acc, queue⟩ := done
      rw [coderClose_of_page s page, if_pos ⟨state, codes, padding, acc, queue, places⟩]
      rfl
    · rw [coderClose_of_page s page, if_neg]
      rintro ⟨state, codes, padding, acc, queue, places⟩
      exact waits.elim (fun open_ => open_ ⟨state, codes, padding, acc, queue⟩) (fun few => by omega)
  case pass =>
    intro t u
    exact ⟨fun live => by simp [State.coderPass, slot, live, t, u],
      fun dead => by simp [State.coderPass, slot, dead]⟩
  case append =>
    obtain ⟨queue_fits, acc_fits⟩ := Coder.append_caps c bs queue acc fits
    exact ⟨Coder.append_held c bs, acc_fits, queue_fits, rfl⟩
  case take =>
    obtain ⟨codes, dots⟩ := Coder.takeLine_codes c table d
    exact ⟨codes, dots, rfl, rfl, rfl⟩
  case pump =>
    have pump_eq : c.pump table = Coder.codeRuns table c.runs c := by simp only [Coder.pump, coding]
    obtain ⟨bits, dots, pos⟩ := Coder.codeRuns_conserves table c.runs c rfl
    rw [← pump_eq] at bits dots pos
    refine ⟨by simpa [Coder.held, Coder.toCome] using bits, dots, ?_⟩
    simpa only [Coder.toCome, List.length_append, ← Nat.add_assoc] using pos
  case complete =>
    simp only [exec, execCoderLineComplete, slot, coding, codes]
    rw [if_pos ⟨runs, live, fits⟩]
    rfl

end Sys2Proof.Machine
end

section
/-! PROOF. The orders that the parser takes at the start of a record: TABLE LOAD and TABLE DROP (R170 to R174). -/

namespace Sys2Proof.Machine

/-! ## The parser takes a byte (R176, R178) -/

theorem pump_of_empty (n : Nat) {s : State} (empty : s.port.inFifo = []) : State.pump n s = s := by
  cases n with
  | zero => rfl
  | succ n => simp [State.pump, empty]

/-- The parser takes the one byte in the FIFO. -/
theorem pump_taken (n : Nat) {s t : State} {b : Byte} (fifo : s.port.inFifo = [b])
    (taken : { s with port := { s.port with inFifo := [] } }.takeByte b = some t) (empty : t.port.inFifo = []) :
    State.pump (n + 1) s = t := by
  simp only [State.pump, fifo, taken]
  exact pump_of_empty n empty

theorem resume_run (s : State) : s.resume (some .run) = s := if_neg (by simp [wakes])

/-- A byte that the parser takes at RUN, with nothing in the FIFO before it (R178). -/
theorem inbound_of_taken {s t : State} {b : Byte} (ready : s.boot.state = .ready) (run : s.power.level = some .run)
    (fifo : s.port.inFifo = []) (taken : s.takeByte b = some t) (empty : t.port.inFifo = []) :
    s.inbound b = t.react := by
  have accepts : s.inboundReady = true := by simp [State.inboundReady, ready, run, fifo, Config.streamFifoCap]
  have port_eq : ({ s.port with inFifo := [] } : Port) = s.port := by rw [← fifo]
  have pumped : State.pump Config.streamFifoCap { s with port := { s.port with inFifo := s.port.inFifo ++ [b] } }
      = t :=
    pump_taken 63 (b := b) (by simp [fifo]) (by simp only [port_eq, taken]) empty
  simp only [State.inbound, accepts, pumped, empty]
  simp [run, resume_run]

/-! ## TABLE LOAD and TABLE DROP (R170 to R174) -/

theorem zip_drop_one_map_range {α : Type} (f : Nat → α) (n : Nat) :
    ((List.range n).map f).zip (((List.range n).map f).drop 1)
      = (List.range (n - 1)).map fun i => (f i, f (i + 1)) := by
  refine List.ext_getElem (by simp) fun i _ _ => ?_
  simp

/-- The form tests over the fields of R169 (R172). -/
theorem formTests_eq (d : List Byte) :
    let byte (i : Nat) : Nat := (d.getD i 0).toNat
    let word (i : Nat) : Nat := byte i + 256 * byte (i + 1)
    let n := byte 0
    formTests .code d
        = [decide (d.length = 550),
          (List.range 182).all fun i => decide (1 ≤ byte (3 * i) ∧ byte (3 * i) ≤ 16),
          decide (12 ≤ byte 546 ∧ byte 546 ≤ 16), decide (2 ≤ byte 549 ∧ byte 549 ≤ 8)]
    ∧ formTests .heat d
        = [decide (d.length = 59), (List.range 16).all fun i => decide (word (2 * i) ≤ 4000),
          decide (32 ≤ word 48 ∧ word 48 ≤ 1728), decide (word 51 ≤ 8000 ∧ word 53 ≤ 8000),
          decide (word 51 ≤ word 53), decide (word 56 ≤ 2000), decide (1 ≤ byte 58 ∧ byte 58 ≤ 16)]
    ∧ formTests .ramp d
        = [decide (6 ≤ d.length), decide (2 ≤ n ∧ n ≤ 128), decide (d.length = 6 + 2 * n),
          decide (byte 1 < n), [2, 3, 4].all fun i => decide (1 ≤ byte i ∧ byte i ≤ 16),
          (List.range n).all fun i => decide (100 ≤ word (6 + 2 * i)),
          (List.range (n - 1)).all fun i => decide (word (8 + 2 * i) ≤ word (6 + 2 * i))]
    ∧ formTests .shade d = [decide (d.length = 29)] := by
  intro byte word n
  have beq (a b : Nat) : (a == b) = decide (a = b) := rfl
  refine ⟨?_, ?_, ?_, ?_⟩
  · simp only [formTests, endCount, List.all_map, Bool.decide_and, beq]; rfl
  · simp only [formTests, heatOf, field16, List.all_map, Bool.decide_and, beq]; rfl
  · have next (i : Nat) : 6 + 2 * (i + 1) = 8 + 2 * i := by omega
    simp only [formTests, rampOf, field16, zip_drop_one_map_range, List.all_map, Function.comp_def, next,
      Bool.decide_and, beq]
    rfl
  · rfl

theorem le_lowByte_highByte (w : Word) : le (lowByte w) (highByte w) = w := by
  apply BitVec.eq_of_toNat_eq
  simp only [le, wordOfBytes, lowByte, highByte, BitVec.toNat_ofNat]
  omega

theorem tableKindOf_some {kind : Byte} {k : TableKind} (named : tableKindOf kind = some k) : kind.toNat ≤ 3 := by
  by_contra above
  rw [tableKindOf, List.getElem?_eq_none (by simp; omega)] at named
  cases named

theorem tableKindOf_isSome {kind : Byte} (named : kind.toNat ≤ 3) : (tableKindOf kind).isSome = true := by
  rw [tableKindOf, List.getElem?_eq_getElem (by simp; omega)]
  rfl

theorem asFin_eq_none {n v : Nat} (above : n ≤ v) : asFin n v = none := dif_neg (by omega)

theorem asFin_eq_some {n v : Nat} {i : Fin n} (named : asFin n v = some i) : i.val = v := by
  unfold asFin at named
  split at named <;> cases named
  rfl

/-- The refusals of a TABLE LOAD (R170). -/
theorem loadRefusal_badField (s : State) (slot kind : Byte) (n : Nat)
    (bad : 15 < slot.toNat ∨ 3 < kind.toNat ∨ 1024 < n) : s.loadRefusal slot kind n = some .badField := by
  by_cases named : 15 < slot.toNat
  · simp [State.loadRefusal, asFin_eq_none (Nat.succ_le_of_lt named)]
  obtain ⟨t, slot_eq⟩ : ∃ t, asFin 16 slot.toNat = some t := ⟨⟨slot.toNat, by omega⟩, dif_pos (by omega)⟩
  have tests : (tableKindOf kind).isNone || decide (1024 < n) := by
    rcases bad with above | unknown | long
    · exact absurd above named
    · simp [tableKindOf, Nat.succ_le_of_lt unknown]
    · simp [long]
  simp [State.loadRefusal, slot_eq, firstRefusal, tests]

theorem loadRefusal_tests {slot kind : Byte} {n : Nat} {t : TableNo} (s : State)
    (slot_eq : asFin 16 slot.toNat = some t) (named : kind.toNat ≤ 3) (fits : n ≤ 1024) :
    s.loadRefusal slot kind n = if 0 < (s.table t).binds then some .tableBound else none := by
  have known : (tableKindOf kind).isNone = false := by simp [tableKindOf_isSome named]
  simp only [State.loadRefusal, slot_eq, firstRefusal, known, decide_eq_false (Nat.not_lt.2 fits)]
  split <;> rename_i bound <;> simp [bound]

/-- The state at a TABLE LOAD's fourth body byte. -/
def State.loadBody (s : State) (n : Nat) : State :=
  { s with parser := { Parser.start with source := .port, state := .body, kind := 0x02, length := n + 4 } }

theorem loadOrder_eq (s : State) (slot kind : Byte) (check : Word) (n : Nat) :
    s.loadOrder slot kind check n
      = let x := (s.loadBody n).takeLoad slot kind n false
        x.1.bytesFollow ((x.2.map fun t => BodyUse.load t check).getD .skip) n := by
  simp [State.loadOrder, State.fourthByte, State.fourthUse, State.loadBody, le_lowByte_highByte, Parser.start]
  rfl

theorem execTableLoad_atHead (s : State) (slot kind : Byte) (check : Word) (n : Nat) (head : s.atHead = true)
    (fits : n ≤ 1036) : exec (.tableLoad slot kind check n) s = .next (s.loadOrder slot kind check n) := by
  simp only [exec, execTableLoad, if_pos fits, order_atHead _ _ _ _ _ head]

/-- A load of no bytes fails its first form test, whatever its kind (R171, R172). -/
theorem loadFailure_nil (k : TableKind) (check : Word) :
    loadFailure k [] check.toNat = some (if check = 0 then .form 0 else .check) := by
  have sum : byteSum [] = 0 := rfl
  by_cases zero : check = 0
  · subst zero; cases k <;> rfl
  · have differs : byteSum [] ≠ check.toNat := fun same => zero (BitVec.eq_of_toNat_eq same.symm)
    rw [loadFailure, if_pos differs, if_neg zero]

/-- An accepted TABLE LOAD opens its slot (R170). -/
theorem takeLoad_accepted {s : State} {slot kind : Byte} {n : Nat} {t : TableNo} {k : TableKind}
    (slot_eq : asFin 16 slot.toNat = some t) (kind_eq : tableKindOf kind = some k) (free : (s.table t).binds = 0)
    (fits : n ≤ 1024) :
    s.takeLoad slot kind n false
      = (s.setTable t { kind := some k, state := .loading, length := 0, check := 0, binds := 0, storage := []
                        failure := none }, some t) := by
  have taken : s.loadRefusal slot kind n = none := by
    simp [loadRefusal_tests s slot_eq (tableKindOf_some kind_eq) fits, free]
  simp only [State.takeLoad, taken, slot_eq, kind_eq]
  simp [State.noteLoaded, TableSlot.startLoad, free]

/-- The end of a load, its last byte stored (R171, R176). -/
theorem endLoad_parserHead {s : State} {t : TableNo} {x : TableSlot} {k : TableKind} (check : Word)
    (run : s.power.level = some .run) (source : s.parser.source = .port) (kind : x.kind = some k) :
    (s.setTable t x).parserHead.endLoad t check
      = { s with
          tables := s.tables.set t (x.endLoad k check.toNat)
          parser := { Parser.start with source := .port } }.putReport
        (loadReport t k x.storage check.toNat) false := by
  have slot_eq : (s.setTable t x).parserHead.table t = x := table_setTable_same s t x
  rw [State.endLoad, slot_eq, kind, Option.getD_some, queueReport_run _ _ (by exact run)]
  simp [State.setTable, State.parserHead, source]

/-- A refused TABLE LOAD: its REFUSED report, and its data bytes skipped (R170, R177). -/
theorem takeLoad_refused {s : State} {slot kind : Byte} {n : Nat} {c : Refused} (run : s.power.level = some .run)
    (refused : s.loadRefusal slot kind n = some c) :
    s.takeLoad slot kind n false = (s.putReport (.refused .tableLoad c (number slot.toNat)) false, none) := by
  simp only [State.takeLoad, refused]
  rw [State.refuse, queueReport_run _ _ run]

theorem takeByte_skip {s : State} (b : Byte) (run : s.power.level = some .run) (body : s.parser.state = .body)
    (skip : s.parser.use = .skip) (source : s.parser.source = .port) :
    s.takeByte b = some { s with
      parser :=
        if s.parser.length ≤ s.parser.taken + 1 then { Parser.start with source := .port }
        else { s.parser with taken := s.parser.taken + 1 } } := by
  simp only [State.takeByte, run, body, State.bodyByte, skip, State.parserHead, source]
  by_cases last : s.parser.length ≤ s.parser.taken + 1 <;> simp [last]

theorem takeTableDrop_eq (s : State) (slot : Byte) :
    (∀ t, asFin 16 slot.toNat = some t → (s.table t).binds = 0 →
      s.takeTableDrop slot = s.setTable t TableSlot.emptySlot)
    ∧ (∀ t, asFin 16 slot.toNat = some t → 0 < (s.table t).binds →
      s.takeTableDrop slot = s.refuse .tableDrop .tableBound (number slot.toNat))
    ∧ (15 < slot.toNat → s.takeTableDrop slot = s.refuse .tableDrop .badField (number slot.toNat)) := by
  refine ⟨fun t slot_eq free => ?_, fun t slot_eq bound => ?_, fun above => ?_⟩
  · simp [State.takeTableDrop, State.dropTableRefusal, slot_eq, firstRefusal, free]
  · simp [State.takeTableDrop, State.dropTableRefusal, slot_eq, firstRefusal, bound]
  · simp [State.takeTableDrop, State.dropTableRefusal, asFin_eq_none (Nat.succ_le_of_lt above)]

/-- The first form test that fails is the outcome of a load whose sum agrees (R171). -/
theorem loadFailure_form {kind : TableKind} {d : List Byte} {check i : Nat} (sum : byteSum d = check)
    (fails : (formTests kind d)[i]? = some false) (before : ∀ j < i, (formTests kind d)[j]? = some true) :
    loadFailure kind d check = some (.form i) := by
  have first : firstFailure kind d = some i := by
    obtain ⟨inside, fails⟩ := List.getElem?_eq_some_iff.1 fails
    refine List.findIdx?_eq_some_iff_getElem.2 ⟨inside, by simp [fails], fun j earlier => ?_⟩
    obtain ⟨_, holds⟩ := List.getElem?_eq_some_iff.1 (before j earlier)
    simp [holds]
  simp [loadFailure, sum, first]

theorem bytesFollow_of_some (s : State) (use : BodyUse) {n : Nat} (some_bytes : n ≠ 0) :
    s.bytesFollow use n = { s with parser := { s.parser with body := [], taken := 4, use := use } } := by
  unfold State.bytesFollow
  exact if_neg some_bytes

theorem bytesFollow_load_none (s : State) (t : TableNo) (check : Word) :
    s.bytesFollow (.load t check) 0 = s.parserHead.endLoad t check := rfl

/-- Settles O23: TABLE LOAD and TABLE DROP by their refusals, and the outcome of a load by its form tests. -/
theorem tableLoadsEndByTheirTests : Obligations.TableLoadsEndByTheirTests := by
  unfold Obligations.TableLoadsEndByTheirTests
  refine ⟨formTests_eq,
    fun kind d check => ⟨fun differs => if_pos differs, fun sum all => ?ready, fun sum i => ?form⟩,
    fun slot kind check n s t k head slot_eq kind_eq free => ?accepted,
    fun data s t k check ready run source body use fifo some_data all_data kind => ?ends,
    fun slot kind n s => ⟨loadRefusal_badField s slot kind n, fun t slot_eq known fits bound => ?bound,
      fun check c head fits refused => ?refused⟩,
    fun b s ready run source body skip fifo => ?skip, fun slot s head => ?drop⟩
  case ready =>
    have none_fails : firstFailure kind d = none := List.findIdx?_eq_none_iff.2 fun ok mem => by simp [all ok mem]
    simp [loadFailure, sum, none_fails]
  case form => exact loadFailure_form sum
  case accepted =>
    have run : s.power.level = some .run := ((atHead_iff s).1 head).2.1
    refine ⟨fun some_bytes fits => ?_, fun no_bytes => ?_⟩
    · rw [execTableLoad_atHead s _ _ _ _ head (by omega), loadOrder_eq]
      simp only [takeLoad_accepted (s := s.loadBody n) slot_eq kind_eq free fits]
      exact congrArg _ (bytesFollow_of_some _ _ (by omega))
    · subst no_bytes
      rw [execTableLoad_atHead s _ _ _ _ head (by omega), loadOrder_eq]
      simp only [takeLoad_accepted (s := s.loadBody 0) slot_eq kind_eq free (Nat.zero_le _)]
      refine congrArg _ ?_
      rw [Option.map_some, Option.getD_some, bytesFollow_load_none,
        endLoad_parserHead (s := s.loadBody 0) (k := k) check run rfl rfl]
      simp only [TableSlot.endLoad, loadReport, loadFailure_nil]
      split <;> rfl
  case ends =>
    intro all failure
    have ending : s.loadEnding data.length = some (t, check) := by
      simp [State.loadEnding, use, ready, run, source, body, fifo, some_data, all_data]
    simp only [exec, execTableLoadEnd, ending]
    rw [State.storeBytes, endLoad_parserHead (k := k) check run source (by exact kind)]
    simp only [TableSlot.endLoad, loadReport, Option.isNone_iff_eq_none]
    rfl
  case bound => simp [loadRefusal_tests s slot_eq known fits, bound]
  case refused =>
    have run : s.power.level = some .run := ((atHead_iff s).1 head).2.1
    rw [execTableLoad_atHead s _ _ _ _ head fits, loadOrder_eq]
    simp only [takeLoad_refused (s := s.loadBody n) run refused, State.bytesFollow]
    split <;> rfl
  case skip =>
    simp only [exec, execInboundByte, inbound_of_taken ready run fifo (takeByte_skip b run body skip source) fifo]
  case drop =>
    obtain ⟨empties, bound, badField⟩ := takeTableDrop_eq s slot
    simp only [exec, execTableDrop, order_atHead _ _ _ _ _ head]
    refine ⟨fun t slot_eq free => by rw [empties t slot_eq free]; rfl, fun t slot_eq held => ?_, fun above => ?_⟩
    · rw [bound t slot_eq held, refuse_atHead _ _ _ _ head]
    · rw [badField above, refuse_atHead _ _ _ _ head]

/-! ## Tests made in order (R177) -/

@[simp] theorem firstRefusal_nil : firstRefusal [] = none := rfl

@[simp] theorem firstRefusal_cons (c : Refused) (holds : Bool) (rest : List (Refused × Bool)) :
    firstRefusal ((c, holds) :: rest) = if holds then some c else firstRefusal rest := by
  cases holds <;> rfl

/-! ## SETUP (R167, R179) -/

theorem setupInRange_iff (b : SetupBody) : setupInRange b = true ↔
    b.geometry.toNat ∈ [1024, 2048, 4096] ∧ 8 ≤ b.refresh.toNat ∧ b.refresh.toNat ≤ 60
      ∧ b.lowMark.toNat ≤ 1023 ∧ 10 ≤ b.cutter.toNat ∧ 1 ≤ b.watermark.toNat ∧ b.watermark.toNat ≤ 3 := by
  simp only [setupInRange, Bool.and_eq_true, List.contains_iff_mem, decide_eq_true_eq, and_assoc]

/-- A page that is not FREE is in the directory. -/
theorem any_not_free_iff (s : State) :
    (s.pages.toList.any fun e => e.state != .free) = true ↔ ∃ p, (s.page p).state ≠ .free := by
  simp only [List.any_eq_true, bne_iff_ne, Vector.mem_toList_iff, Vector.mem_iff_getElem]
  constructor
  · rintro ⟨e, ⟨i, small, rfl⟩, taken⟩
    exact ⟨⟨i, small⟩, taken⟩
  · rintro ⟨p, taken⟩
    exact ⟨s.page p, ⟨p.val, p.isLt, rfl⟩, taken⟩

/-- SETUP's tests in order (R167, R179). -/
theorem setupRefusal_eq (s : State) (b : SetupBody) (rom : Bool) : s.setupRefusal b rom =
    if setupInRange b = false then some .badField
    else if rom = true then none
    else if b.refresh.toNat ≠ s.setup.refresh then some .bootOnly
    else if b.geometry.toNat = s.store.geometry then none
    else if s.pool.state ≠ .inService then some .busy
    else if s.routesInUse ≠ [] then some .slotBusy
    else if ∃ p, (s.page p).state ≠ .free then some .pagesPresent
    else none := by
  simp only [State.setupRefusal, firstRefusal_cons, firstRefusal_nil, ← any_not_free_iff]
  cases setupInRange b <;> cases rom <;> simp
  grind

theorem setScrub_eq (s : State) (interval : Nat) : s.setScrub interval = { s with
    setup := { s.setup with scrub := interval }
    store :=
      { s.store with
        scrubTimer := if interval = 0 then none
          else if s.setup.scrub = 0 ∧ s.scrubbing = true then some (s.now + 1000 * interval)
          else s.store.scrubTimer
        scrubWaiting := if interval = 0 then false else s.store.scrubWaiting } } := by
  unfold State.setScrub
  by_cases off : interval = 0
  · simp [off]
  · have some_interval : 0 < interval := by omega
    simp only [off, if_false]
    split <;> rename_i starts
    · have starts' : s.setup.scrub = 0 ∧ s.scrubbing = true := starts
      simp [State.startScrub, some_interval, starts']
    · have starts' : ¬(s.setup.scrub = 0 ∧ s.scrubbing = true) := starts
      simp [starts']

/-- What follows a fall of availability: LOW at most (R17). -/
theorem availChange_fall {s : State} {before : Nat} (fall : s.available ≤ before) :
    s.availChange before
      = if s.available < before ∧ s.setup.lowMark ≤ before ∧ s.available < s.setup.lowMark
            ∧ s.pool.alert = .none then
          { s with pool := { s.pool with alert := .low } }.queueReport .poolLow
        else s := by
  have no_rise : ¬before < s.available := by omega
  have no_return : ¬(before = 0 ∧ 0 < s.available) := by omega
  unfold State.availChange
  dsimp only
  rw [if_neg no_return]
  split
  · rfl
  · exact if_neg fun h => no_rise h.1

/-- A geometry clear begins, and LOW is queued where availability falls below the low mark by it (R17, R167). -/
theorem changeGeometry_run {s : State} (geometry : Nat) (run : s.power.level = some .run) :
    s.changeGeometry geometry =
      let now := s.pool.freeCount - s.remainders
      let low := now < s.available ∧ s.setup.lowMark ≤ s.available ∧ now < s.setup.lowMark ∧ s.pool.alert = .none
      { s with
        reports := if low then enqueue .poolLow false s.reports else s.reports
        pool :=
          { s.pool with
            state := .clearing, stranded := s.pool.stranded + s.pool.spare.length, spare := []
            alert := if low then .low else s.pool.alert }
        store := { s.store with geometry := geometry, scrubTimer := none, scrubWaiting := false }
        boot := { s.boot with task := .geometryWait } }.react := by
  extract_lets now low
  have falls : now ≤ s.available := by simp only [now, State.available]; omega
  unfold State.changeGeometry
  dsimp only
  rw [availChange_fall (by exact falls)]
  by_cases h : low
  · rw [if_pos (by exact h), if_pos h, if_pos h, queueReport_run _ _ (by exact run)]; rfl
  · rw [if_neg (by exact h), if_neg h, if_neg h]

/-- An accepted SETUP from the port (R179). -/
theorem takeSetup_accepted {s : State} {b : SetupBody} (taken : s.setupRefusal b false = none) :
    s.takeSetup b false =
      let t := { s.setScrub b.scrub.toNat with setup := setupValues b }
      if b.geometry.toNat = s.store.geometry then t else t.changeGeometry b.geometry.toNat := by
  simp only [State.takeSetup, taken]
  by_cases same : b.geometry.toNat = s.store.geometry <;> simp [same]

/-- Settles O24: the tests in order, and the two effects of an accepted SETUP. -/
theorem setupSetsItsValues : Obligations.SetupSetsItsValues := by
  unfold Obligations.SetupSetsItsValues
  refine ⟨fun b s head inRange refresh => ?accepted, setupInRange_iff, fun b s => ?refused⟩
  case refused =>
    refine ⟨fun rom bad => by rw [setupRefusal_eq, if_pos bad], fun inRange => ?_⟩
    have ok : ¬setupInRange b = false := by simp [inRange]
    refine ⟨by rw [setupRefusal_eq, if_neg ok]; rfl, ?_⟩
    rw [setupRefusal_eq, if_neg ok, if_neg (by simp)]
    refine ⟨fun other => if_pos other, fun refresh => ?_⟩
    rw [if_neg (by simp [refresh])]
    refine ⟨fun same => if_pos same, fun other => ?_⟩
    rw [if_neg other]
    refine ⟨fun out => if_pos out, fun service => ?_⟩
    rw [if_neg (by simp [service])]
    refine ⟨fun used => if_pos used, fun unused => ?_⟩
    rw [if_neg (by simp [unused])]
    exact ⟨fun taken => if_pos taken, fun free => if_neg (by simp [free])⟩
  case accepted =>
    intro values
    have run : s.power.level = some .run := ((atHead_iff s).1 head).2.1
    have exec_eq : exec (.setup b) s = .next (s.takeSetup b false) := by
      simp only [exec, execSetup, order_atHead _ _ _ _ _ head]
    rw [exec_eq]
    refine ⟨fun same => ?_, fun other service unused free => ?_⟩
    · rw [takeSetup_accepted (by simp [setupRefusal_eq, inRange, refresh, same])]
      simp only [if_pos same, setScrub_eq]
      rfl
    · rw [takeSetup_accepted (by simp [setupRefusal_eq, inRange, refresh, service, unused, free])]
      simp only [if_neg other, setScrub_eq]
      exact congrArg _ (changeGeometry_run _ (by exact run))

/-! ## PAGE DROP (R9 to R12) -/

/-- The link word that joins a chain to a free list that holds blocks (R12). -/
def State.joinLink (s : State) (head : Nat) : List DirItem :=
  if 0 < s.pool.freeCount then s.pool.freeTail.toList.map fun t => .link t (BitVec.ofNat 16 head) else []

/-- The image write of an entry, unless one waits unbegun (R2). -/
def State.imageItem (s : State) (p : PageNo) : List DirItem :=
  if s.pool.dirQueue.any (DirItem.isFreshImage p) then [] else [.image p none false]

/-- A chain joins the free list's tail in service (R12). -/
theorem splice_inService {s : State} (p : PageNo) (c : Chain) (service : s.pool.state = .inService) :
    s.splice p c = { s with pool :=
      { s.pool with
        freeHead := some (s.pool.freeHead.getD c.head), freeTail := some c.tail
        freeCount := s.pool.freeCount + c.count, dirQueue := s.pool.dirQueue ++ s.joinLink c.head } } := by
  have head : (s.pool.freeHead <|> some c.head) = some (s.pool.freeHead.getD c.head) := by
    cases s.pool.freeHead <;> rfl
  unfold State.splice
  rw [if_neg (by simp [service])]
  by_cases blocks : 0 < s.pool.freeCount
  · cases tail : s.pool.freeTail <;>
      simp [State.joinLink, State.spliceNeed, State.queueLink, service, blocks, tail, head]
  · cases s.pool.freeTail <;> simp [State.joinLink, State.spliceNeed, service, blocks, head]

theorem queueImage_eq (s : State) (p : PageNo) :
    s.queueImage p = { s with pool := { s.pool with dirQueue := s.pool.dirQueue ++ s.imageItem p } } := by
  rw [queueImage_changes]
  by_cases waits : s.pool.dirQueue.any (DirItem.isFreshImage p) <;>
    simp [State.imageItem, State.imageNeed, waits]

/-- A link word that waits is no image write. -/
theorem any_isFreshImage_joinLink (s : State) (p : PageNo) (head : Nat) :
    (s.joinLink head).any (DirItem.isFreshImage p) = false := by
  unfold State.joinLink
  split
  · cases s.pool.freeTail <;> rfl
  · rfl

/-- A page is freed at RUN in service (R2, R11, R12). -/
theorem freePage_run {s : State} (p : PageNo) (run : s.power.level = some .run) (service : s.pool.state = .inService) :
    s.freePage p = { s with
      pages := s.pages.set p PageEntry.freeEntry
      store := { s.store with burst := s.store.burst.map (Burst.forget p) }
      pool :=
        { s.pool with
          freeHead := some (s.pool.freeHead.getD (s.page p).head), freeTail := some (s.page p).tail
          freeCount := s.pool.freeCount + (s.page p).blockCount
          dirQueue := s.pool.dirQueue ++ s.joinLink (s.page p).head ++ s.imageItem p
          damage := s.pool.damage.filter fun x => x.1 != p }
      reports := enqueue (.pageFreed p) false s.reports }.availChange s.available := by
  unfold State.freePage
  simp only [splice_inService p _ service, queueImage_eq]
  rw [queueReport_run _ _ (by exact run)]
  simp only [State.imageItem, State.clearDamage, State.setPage, State.putReport, List.any_append,
    any_isFreshImage_joinLink, Bool.or_false]

/-- A page with readers is dropped at RUN (R9). -/
theorem dropPage_run {s : State} (p : PageNo) (run : s.power.level = some .run) :
    s.dropPage p = { s with
      pages := s.pages.set p { s.page p with state := .dropping }
      pool := { s.pool with dirQueue := s.pool.dirQueue ++ s.imageItem p }
      reports := enqueue (.pageDropping p) false s.reports } := by
  rw [State.dropPage, queueImage_eq, queueReport_run _ _ (by exact run)]
  rfl

/-- PAGE DROP's tests in order (R9). -/
theorem dropPageRefusal_eq {page : Byte} {p : PageNo} (s : State) (named : asFin 32 page.toNat = some p) :
    s.dropPageRefusal page = if s.pool.state ≠ .inService then some .busy
      else if (s.page p).state ≠ .closed then some .pageState else none := by
  simp [State.dropPageRefusal, named]

/-- Settles O25: PAGE DROP by its tests, then by the page's readers. -/
theorem pageDropFreesOrMarksItsPage : Obligations.PageDropFreesOrMarksItsPage := by
  unfold Obligations.PageDropFreesOrMarksItsPage
  intro page s head
  have run : s.power.level = some .run := ((atHead_iff s).1 head).2.1
  have exec_of {t : State} (taken : s.takePageDrop page = some t) : exec (.pageDrop page) s = .next t := by
    simp only [exec, execPageDrop, taken, order_atHead _ _ _ _ _ head]
  refine ⟨fun p named service closed unread places => ?free,
    fun p named service closed readers places => ?drop, fun c refused => ?refused, fun above => ?badField,
    fun p named => ⟨fun out => ?busy, fun service state => ?pageState⟩⟩
  case free =>
    have taken : s.takePageDrop page = some (s.freePage p).react := by
      simp [State.takePageDrop, dropPageRefusal_eq s named, named, service, closed, State.pageDropped, unread, places]
    rw [exec_of taken, freePage_run p run service]
    rfl
  case drop =>
    have some_read : (s.page p).readers ≠ 0 := by omega
    have taken : s.takePageDrop page = some (s.dropPage p) := by
      simp [State.takePageDrop, dropPageRefusal_eq s named, named, service, closed, State.pageDropped, some_read,
        places]
    rw [exec_of taken, dropPage_run p run]
    rfl
  case refused =>
    have taken : s.takePageDrop page = some (s.refuse .pageDrop c (number page.toNat)) := by
      simp only [State.takePageDrop, refused]
    rw [exec_of taken, refuse_atHead _ _ _ _ head]
  case badField => simp [State.dropPageRefusal, asFin_eq_none (Nat.succ_le_of_lt above)]
  case busy => simp [dropPageRefusal_eq s named, out]
  case pageState => simp [dropPageRefusal_eq s named, service, state]

end Sys2Proof.Machine
end

section
/-! PROOF. ROUTE START: its tests, its record, its blocks and its event (R60 to R66). -/

namespace Sys2Proof.Machine

/-! ## Binding (R173) -/

theorem nodup_eraseDups {α : Type} [DecidableEq α] (l : List α) : l.eraseDups.Nodup := by
  induction h : l.length using Nat.strong_induction_on generalizing l with
  | _ n ih =>
    cases l with
    | nil => simp
    | cons a rest =>
      have shorter := List.length_filter_le (fun b => !b == a) rest
      rw [List.eraseDups_cons, List.nodup_cons]
      refine ⟨by simp [List.mem_eraseDups], ih _ ?_ _ rfl⟩
      simp only [List.length_cons] at h
      omega

theorem nodup_boundSlots (x : Route) : x.boundSlots.Nodup := nodup_eraseDups _

@[simp] theorem table_bind (s : State) (t u : TableNo) :
    (s.bind t).table u = { s.table u with binds := (s.table u).binds + if t = u then 1 else 0 } := by
  by_cases same : t = u
  · subst same; simp [State.bind]
  · simp [State.bind, table_setTable_other _ _ (Ne.symm same), same]

/-- Slots bound one after another change the tables alone. -/
theorem foldl_bind (slots : List TableNo) (s : State) :
    ∃ tables, slots.foldl State.bind s = { s with tables := tables } := by
  induction slots generalizing s with
  | nil => exact ⟨s.tables, rfl⟩
  | cons t rest ih =>
    obtain ⟨tables, rest_eq⟩ := ih (s.bind t)
    exact ⟨tables, rest_eq⟩

theorem table_foldl_bind {slots : List TableNo} (s : State) (t : TableNo) (nodup : slots.Nodup) :
    (slots.foldl State.bind s).table t
      = { s.table t with binds := (s.table t).binds + if t ∈ slots then 1 else 0 } := by
  induction slots generalizing s with
  | nil => rfl
  | cons u rest ih =>
    obtain ⟨new, nodup⟩ := List.nodup_cons.1 nodup
    rw [List.foldl_cons, ih _ nodup, table_bind]
    by_cases same : u = t
    · subst same; simp [new]
    · simp [same, Ne.symm same]

/-! ## The tests of a start (R62, R64, R65) -/

/-- An option that the kind does not accept (R62). -/
theorem options_refused_iff (k : RouteKind) (options : Byte) :
    ((options.toNat &&& k.optionMask) != options.toNat) = true ↔
      (options.getLsbD 0 = true ∧ k ≠ .scanStore ∧ k ≠ .lineReceive)
      ∨ (options.getLsbD 1 = true ∧ k ≠ .printPage ∧ k ≠ .lineSend ∧ k ≠ .pageHost)
      ∨ (options.getLsbD 2 = true ∧ k ≠ .copy ∧ k ≠ .printPage) ∨ 7 < options.toNat := by
  revert options
  cases k <;> decide +kernel

theorem startBadField_iff (b : StartBody) (k : RouteKind) : startBadField b k = true ↔
    3 < b.slot.toNat ∨ (∃ x ∈ startBindings b k, 15 < x.1)
    ∨ (k = .hostStore ∧ 15 < b.code.toNat) ∨ (k.isReader = true ∧ 31 < b.page.toNat)
    ∨ (k ≠ .printPage ∧ (b.pitch.toNat < 1 ∨ 3 < b.pitch.toNat))
    ∨ ((k.usesScanner = true ∨ k.usesPrinter = true) ∧ 127 < b.top.toNat)
    ∨ (k = .lineReceive ∧ (1008 < b.reservation.toNat ∨ b.carrier = 0))
    ∨ (k = .lineSend ∧ 4800 < b.minBits.toNat)
    ∨ (b.options.getLsbD 0 = true ∧ k ≠ .scanStore ∧ k ≠ .lineReceive)
    ∨ (b.options.getLsbD 1 = true ∧ k ≠ .printPage ∧ k ≠ .lineSend ∧ k ≠ .pageHost)
    ∨ (b.options.getLsbD 2 = true ∧ k ≠ .copy ∧ k ≠ .printPage) ∨ 7 < b.options.toNat := by
  rw [startBadField, Bool.or_eq_true, options_refused_iff]
  simp only [Bool.or_eq_true, Bool.and_eq_true, decide_eq_true_eq, List.any_eq_true, beq_iff_eq, bne_iff_ne, or_assoc]

/-- R64's tests in order, past those of the fields. -/
theorem startRefusal_eq {b : StartBody} {k : RouteKind} {r : RouteNo} (s : State) (kind : routeKindOf b.kind = some k)
    (slot : asFin 4 b.slot.toNat = some r) : s.startRefusal b =
    if startBadField b k = true then some .badField
    else if s.pool.state = .clearing then some .busy
    else if (s.route r).inUse = true then some .slotBusy
    else if (s.engines.busy k || s.claimBusy k) = true then some .engineBusy
    else if (k.usesScanner = true ∧ s.engines.scannerFault = true)
        ∨ (k.usesPrinter = true ∧ s.engines.printerFault = true) then some .engineFault
    else if k.usesPrinter = true ∧ s.pins.paperOut = true then some .noPaper
    else if ∃ x ∈ startBindings b k, (s.slotAt x.1).state ≠ .ready then some .tableNotReady
    else if ∃ x ∈ startBindings b k, (s.slotAt x.1).kind ≠ some x.2 then some .tableKind
    else if k.isReader = true ∧ ∀ p, asFin 32 b.page.toNat = some p → (s.page p).state ≠ .closed then some .pageState
    else if k = .lineReceive ∧ s.available < b.reservation.toNat then some .noRoom
    else none := by
  simp only [State.startRefusal, kind, slot, firstRefusal_cons, firstRefusal_nil, Bool.or_eq_true, Bool.and_eq_true,
    beq_iff_eq, bne_iff_ne, List.any_eq_true, decide_eq_true_eq]
  cases asFin 32 b.page.toNat <;> simp

/-! ## An accepted start (R66) -/

theorem sum_set (l : List Nat) {i : Nat} (x : Nat) (inside : i < l.length) :
    (l.set i x).sum + l[i] = l.sum + x := by
  induction l generalizing i with
  | nil => simp at inside
  | cons a rest ih =>
    cases i with
    | zero => simp; omega
    | succ i =>
      have rest_eq := ih (i := i) (by simpa using inside)
      simp only [List.set_cons_succ, List.sum_cons, List.getElem_cons_succ]
      omega

/-- The sum of the remainders with one record set (R15). -/
theorem remainders_setRoute (s : State) (r : RouteNo) (x : Route) :
    (s.setRoute r x).remainders + (s.route r).remainder = s.remainders + x.remainder := by
  have inside : (r : Nat) < (s.routes.toList.map Route.remainder).length := by simp
  have set_eq := sum_set _ x.remainder inside
  simpa [State.remainders, State.setRoute, State.route, Vector.toList_set, List.map_set] using set_eq

theorem unstarve_route {s : State} {r : RouteNo} (slot : Option RouteNo) (starved : Bool)
    (going : (s.route r).state ≠ .stalled) : (s.unstarve slot starved).route r = s.route r := by
  unfold State.unstarve
  split
  · rename_i r'
    split
    · rename_i stalled
      have other : r ≠ r' := by rintro rfl; simp [going] at stalled
      obtain ⟨q, to_eq⟩ := routeTo_changes s r' .running
      rw [to_eq]
      exact route_setRoute_other s _ other
    · rfl
  · rfl

/-- A change of availability leaves the record of a route that is not STALLED (R16). -/
theorem availChange_route {s : State} {r : RouteNo} (before : Nat) (going : (s.route r).state ≠ .stalled) :
    (s.availChange before).route r = s.route r := by
  unfold State.availChange
  extract_lets now pool t t1 t2
  have alert : t.route r = s.route r := by
    simp only [t]
    split
    · obtain ⟨q, eq⟩ := queueReport_plain { s with pool := { s.pool with alert := .low } } .poolLow rfl
      rw [eq]; rfl
    · split
      · obtain ⟨q, eq⟩ := queueReport_plain { s with pool := { s.pool with alert := .none } } .poolOk rfl
        rw [eq]; rfl
      · rfl
  split
  · have coder : t1.route r = s.route r := (unstarve_route _ _ (alert ▸ going)).trans alert
    exact (unstarve_route _ _ (coder ▸ going)).trans coder
  · exact alert

/-- What follows a fall of availability at RUN (R17). -/
theorem availChange_fall_run {s : State} {before : Nat} (run : s.power.level = some .run)
    (fall : s.available ≤ before) :
    s.availChange before =
      let low := s.available < before ∧ s.setup.lowMark ≤ before ∧ s.available < s.setup.lowMark
        ∧ s.pool.alert = .none
      { s with
        pool := { s.pool with alert := if low then .low else s.pool.alert }
        reports := if low then enqueue .poolLow false s.reports else s.reports } := by
  rw [availChange_fall fall]
  split <;> rename_i h
  · rw [queueReport_run _ _ (by exact run)]; simp only [if_pos h]; rfl
  · simp only [if_neg h]

/-- The record, the bindings and the claims of a start. -/
def State.startClaims (s : State) (r : RouteNo) (b : StartBody) (k : RouteKind) : State :=
  { (s.startRecord b k).boundSlots.foldl State.bind (s.setRoute r (s.startRecord b k)) with
    engines := s.engines.claim k r }

/-- A start up to its blocks: availability has followed the reservation, and a page has its reader. -/
def State.startReady (s : State) (r : RouteNo) (b : StartBody) (k : RouteKind) : State :=
  let t := ((s.startClaims r b k).availChange s.available).addReader (s.startRecord b k).page
  { t with head := t.head.disown r }

theorem startBlocks_keeps (s : State) (r : RouteNo) (k : RouteKind) :
    (s.startBlocks r k).routes = s.routes ∧ (s.startBlocks r k).tables = s.tables
      ∧ (s.startBlocks r k).pages = s.pages ∧ (s.startBlocks r k).engines = s.engines
      ∧ (s.startBlocks r k).store = s.store := by
  cases k <;> exact ⟨rfl, rfl, rfl, rfl, rfl⟩

theorem startClaims_eq (s : State) (r : RouteNo) (b : StartBody) (k : RouteKind) :
    ∃ tables, s.startClaims r b k
      = { s with
          routes := s.routes.set r (s.startRecord b k), tables := tables, engines := s.engines.claim k r } := by
  obtain ⟨tables, eq⟩ := foldl_bind (s.startRecord b k).boundSlots (s.setRoute r (s.startRecord b k))
  exact ⟨tables, by rw [State.startClaims, eq]; rfl⟩

theorem startClaims_route (s : State) (r : RouteNo) (b : StartBody) (k : RouteKind) :
    (s.startClaims r b k).route r = s.startRecord b k := by
  obtain ⟨tables, eq⟩ := startClaims_eq s r b k
  rw [eq]
  exact route_setRoute_same s r _

theorem startClaims_table (s : State) (r : RouteNo) (b : StartBody) (k : RouteKind) (t : TableNo) :
    (s.startClaims r b k).table t = { s.table t with
      binds := (s.table t).binds + if t ∈ (s.startRecord b k).boundSlots then 1 else 0 } :=
  table_foldl_bind _ t (nodup_boundSlots _)

theorem startRecord_state (s : State) (b : StartBody) (k : RouteKind) : (s.startRecord b k).state = .idle := rfl

theorem page_addReader (s : State) (page : Option PageNo) (p : PageNo) :
    (s.addReader page).page p
      = { s.page p with readers := (s.page p).readers + if page = some p then 1 else 0 } := by
  cases page with
  | none => rfl
  | some q =>
    by_cases same : q = p
    · subst same; simp [State.addReader]
    · simp [State.addReader, page_setPage_other _ _ (Ne.symm same), same]

theorem addReader_eq (s : State) (page : Option PageNo) :
    ∃ pages, s.addReader page = { s with pages := pages } := by
  cases page <;> exact ⟨_, rfl⟩

/-- What a start has done before its blocks begin. -/
theorem startReady_spec (s : State) (r : RouteNo) (b : StartBody) (k : RouteKind) :
    (s.startReady r b k).route r = s.startRecord b k
    ∧ (s.startReady r b k).engines = s.engines.claim k r
    ∧ (∀ t, (s.startReady r b k).table t = { s.table t with
        binds := (s.table t).binds + if t ∈ (s.startRecord b k).boundSlots then 1 else 0 })
    ∧ (∀ p, (s.startReady r b k).page p = { s.page p with
        readers := (s.page p).readers + if (s.startRecord b k).page = some p then 1 else 0 })
    ∧ (s.startReady r b k).store = s.store := by
  have record := startClaims_route s r b k
  have route := availChange_route (r := r) s.available (by rw [record, startRecord_state]; decide)
  rw [record] at route
  have table := startClaims_table s r b k
  obtain ⟨tables, claims⟩ := startClaims_eq s r b k
  obtain ⟨q, rs, al, starved, starved', change, -⟩ := availChange_changes (s.startClaims r b k) s.available
  obtain ⟨pages, reader⟩ :=
    addReader_eq ((s.startClaims r b k).availChange s.available) (s.startRecord b k).page
  have page := page_addReader ((s.startClaims r b k).availChange s.available) (s.startRecord b k).page
  refine ⟨?_, ?_, fun t => ?_, fun p => (page p).trans ?_, ?_⟩
  · rw [State.startReady, reader]; exact route
  · rw [State.startReady, reader, change, claims]
  · rw [← table t, State.startReady, reader, change]; rfl
  · rw [change, claims]; rfl
  · rw [State.startReady, reader, change, claims]

theorem startRecord_remainder (s : State) (b : StartBody) (k : RouteKind) :
    (s.startRecord b k).remainder = if k = .lineReceive then b.reservation.toNat else 0 := by
  cases k <;> rfl

/-- A start of a route whose record holds no reservation lowers availability by its own (R15, R17). -/
theorem startReady_of_idle {s : State} {r : RouteNo} (b : StartBody) (k : RouteKind)
    (run : s.power.level = some .run) (idle : (s.route r).remainder = 0) :
    let now := s.available - if k = .lineReceive then b.reservation.toNat else 0
    let low := now < s.available ∧ s.setup.lowMark ≤ s.available ∧ now < s.setup.lowMark ∧ s.pool.alert = .none
    ∃ tables pages, s.startReady r b k = { s with
      routes := s.routes.set r (s.startRecord b k), tables := tables, engines := s.engines.claim k r, pages := pages
      head := s.head.disown r, pool := { s.pool with alert := if low then .low else s.pool.alert }
      reports := if low then enqueue .poolLow false s.reports else s.reports } := by
  intro now low
  obtain ⟨tables, claims⟩ := startClaims_eq s r b k
  have available : (s.startClaims r b k).available = now := by
    have sum := remainders_setRoute s r (s.startRecord b k)
    rw [startRecord_remainder, idle] at sum
    have kept : (s.startClaims r b k).remainders = (s.setRoute r (s.startRecord b k)).remainders := by
      rw [claims]; rfl
    have pool : (s.startClaims r b k).pool = s.pool := by rw [claims]
    simp only [State.available, pool, kept, now]
    omega
  have fall : (s.startClaims r b k).available ≤ s.available := by rw [available]; exact Nat.sub_le _ _
  have change := availChange_fall_run (s := s.startClaims r b k) (by rw [claims]; exact run) fall
  rw [available] at change
  obtain ⟨pages, reader⟩ :=
    addReader_eq ((s.startClaims r b k).availChange s.available) (s.startRecord b k).page
  refine ⟨tables, pages, ?_⟩
  rw [State.startReady, reader, change, claims]

/-- A start is its claims, its availability, its reader, its blocks, its report and, of a HOST-STORE, its page's
ask. -/
theorem startRoute_eq (s : State) (r : RouteNo) (b : StartBody) (k : RouteKind) :
    s.startRoute r b k =
      let u := ((s.startReady r b k).startBlocks r k).routeTo r (if k.arms then .armed else .running)
      if k = .hostStore then (u.askOpen r k).react else u.react := by
  have record : ((s.startClaims r b k).availChange s.available).route r = s.startRecord b k := by
    rw [availChange_route _ (by rw [startClaims_route, startRecord_state]; decide), startClaims_route]
  have engines : (List.foldl State.bind (s.setRoute r (s.startRecord b k))
      (s.startRecord b k).boundSlots).engines = s.engines := by
    obtain ⟨tables, eq⟩ := foldl_bind (s.startRecord b k).boundSlots (s.setRoute r (s.startRecord b k))
    rw [eq]; rfl
  unfold State.startRoute
  simp only [route_setRoute_same, engines]
  rw [← State.startClaims]
  simp only [record]
  rw [← State.startReady]
  split <;> rfl

/-- Settles O26: the tests in order, the tables of the kinds, and the stages of a start with what each changes. -/
theorem routeStartPutsItsRouteInUse : Obligations.RouteStartPutsItsRouteInUse := by
  unfold Obligations.RouteStartPutsItsRouteInUse
  refine ⟨fun b s k r head kind slot accepted places => ?start, fun s r => ⟨rfl, rfl, rfl, rfl⟩,
    fun b s => ⟨rfl, rfl, rfl, rfl, rfl, rfl, rfl⟩, fun e r => ⟨rfl, rfl, rfl, rfl, rfl, rfl, rfl⟩,
    fun s r => ⟨rfl, rfl, rfl, rfl, rfl, fun p page => ?readers⟩,
    fun b => ⟨rfl, rfl, rfl, rfl, rfl, rfl, rfl, startBadField_iff b⟩,
    fun b s => ⟨fun unknown => ?unknown, fun k r kind slot => ?tests⟩⟩
  case start =>
    have run : s.power.level = some .run := ((atHead_iff s).1 head).2.1
    have taken : s.takeStart b = some (s.startRoute r b k) := by
      have not_held : ¬(routeKindOf b.kind = some .hostStore ∧ Config.dirCap < s.pool.dirQueue.length + 2) := by
        rintro ⟨host, full⟩
        rw [kind] at host
        exact absurd (places (Option.some.inj host)) (Nat.not_le.2 full)
      rw [State.takeStart, if_neg not_held]
      simp only [accepted, kind, slot]
    obtain ⟨record, engines, table, page, store⟩ := startReady_spec s r b k
    obtain ⟨routes_eq, tables_eq, pages_eq, engines_eq, store_eq⟩ := startBlocks_keeps (s.startReady r b k) r k
    have record' : ((s.startReady r b k).startBlocks r k).route r = s.startRecord b k := by
      rw [← record]; exact congrArg (·[r]) routes_eq
    obtain ⟨q, goes⟩ := routeTo_changes ((s.startReady r b k).startBlocks r k) r (if k.arms then .armed else .running)
    refine ⟨((s.startReady r b k).startBlocks r k).routeTo r (if k.arms then .armed else .running), ?_, ?_, ?_,
      fun t => ?_, fun p => ?_, fun host => ?_, ?_, fun idle => ?_⟩
    · simp only [exec, execRouteStart, taken, order_atHead _ _ _ _ _ head]
      rw [startRoute_eq]
      by_cases host : k = .hostStore
      · subst host; rfl
      · simp only [if_neg host]
    · rw [goes]
      exact (route_setRoute_same _ r _).trans (by rw [record'])
    · rw [goes, ← engines]; exact engines_eq
    · rw [goes, ← table t]; exact congrArg (·[t]) tables_eq
    · rw [goes, ← page p]; exact congrArg (·[p]) pages_eq
    · subst host; rw [goes]; rfl
    · rw [goes, ← store]; exact store_eq
    · obtain ⟨tables, pages, ready_eq⟩ := startReady_of_idle b k run idle
      refine ⟨s.startReady r b k, rfl, record, fun other ne => ?_, ?_, ?_, ?_, ?_⟩ <;> rw [ready_eq]
      · exact route_setRoute_other s _ ne
      · rfl
  case readers =>
    simp only [State.startBlocks, page]
    exact ⟨rfl, rfl⟩
  case unknown =>
    rcases unknown with kind | above
    · simp [State.startRefusal, kind]
    · cases kind : routeKindOf b.kind <;>
        simp [State.startRefusal, kind, asFin_eq_none (Nat.succ_le_of_lt above)]
  case tests =>
    rw [startRefusal_eq s kind slot]
    refine ⟨fun bad => if_pos bad, fun ok => ?_⟩
    rw [if_neg (by simp [ok])]
    refine ⟨fun clearing => if_pos clearing, fun open_ used => by rw [if_neg open_, if_pos used], fun open_ idle => ?_⟩
    rw [if_neg open_, if_neg (by simp [idle])]
    refine ⟨fun busy => if_pos busy, fun free => ?_⟩
    rw [if_neg (by simp [free])]
    refine ⟨fun fault => if_pos fault, fun scanner printer => ?_⟩
    rw [if_neg (by simp; grind)]
    refine ⟨fun prints out => if_pos ⟨prints, out⟩, fun paper => ?_⟩
    rw [if_neg (by simp; grind)]
    intro slots
    refine ⟨fun wanting => if_pos wanting, fun ready => ?_⟩
    rw [if_neg (by push Not; exact ready)]
    refine ⟨fun other => if_pos other, fun kinds => ?_⟩
    rw [if_neg (by push Not; exact kinds)]
    refine ⟨fun reads p named => ?_, fun receives => ?_, fun writes other => ?_⟩
    · have no_reservation : k ≠ .lineReceive := by rintro rfl; simp [RouteKind.isReader] at reads
      simp [reads, named, no_reservation]
    · subst receives; simp [RouteKind.isReader]
    · simp [writes, other]

end Sys2Proof.Machine
end

section
/-! PROOF. What a report, a wake and an entry into DOZE can change (R147 to R152). -/

namespace Sys2Proof.Machine

/-! ## The Report Queue keeps its entries (R182) -/

theorem mem_enqueue (x : Report) (withheld : Bool) (q : List QueueEntry) :
    ∃ e ∈ enqueue x withheld q, e.report = x := by
  induction q with
  | nil => exact ⟨_, List.mem_singleton.2 rfl, rfl⟩
  | cons e rest ih =>
    rw [enqueue]
    split
    · exact ⟨_, List.mem_cons_self, rfl⟩
    · obtain ⟨y, mem, report⟩ := ih
      exact ⟨y, List.mem_cons_of_mem e mem, report⟩

theorem mem_enqueue_of_key_ne {x : Report} (withheld : Bool) {q : List QueueEntry} {e : QueueEntry}
    (mem : e ∈ q) (differs : e.report.key ≠ x.key) : e ∈ enqueue x withheld q := by
  induction q with
  | nil => cases mem
  | cons f rest ih =>
    rw [enqueue]
    split
    · rename_i same
      rcases List.mem_cons.1 mem with rfl | mem
      · simp [differs] at same
      · exact List.mem_cons_of_mem _ mem
    · rcases List.mem_cons.1 mem with rfl | mem
      · exact List.mem_cons_self
      · exact List.mem_cons_of_mem _ (ih mem)

/-- A report waits in a queue. -/
def Waits (x : Report) (q : List QueueEntry) : Prop := ∃ e ∈ q, e.report = x

/-! ## Wakes (R148, R149) -/

/-- A state but for what a wake changes: the reports, the head's supply and converter, the controller's state,
request, burst mark and timer, and Power Control (R104, R105, R148, R149). -/
def State.unwoken (s : State) : State :=
  { s with
    reports := [], power := State.reset.power
    head := { s.head with supply := .off, settleTimer := none, thetaNext := false, sampleTimer := none }
    store := { s.store with state := .on, request := .none, burst := none, wakeTimer := none } }

/-- A burst, or one that is a final row no longer. -/
def BurstEased (b c : Option Burst) : Prop := c = b ∨ c = b.map Burst.notFinal

/-- What a wake changes; every report but LEVEL's stays (R148, R149, R152). -/
structure WakeChanges (s t : State) : Prop where
  same : t.unwoken = s.unwoken
  eased : BurstEased s.store.burst t.store.burst
  waits : ∀ x, Waits x s.reports → x.kindCode ≠ 0x87 → Waits x t.reports

theorem Burst.notFinal_notFinal (b : Burst) : b.notFinal.notFinal = b.notFinal := by
  unfold Burst.notFinal
  cases h : b.kind <;> simp [h]

theorem BurstEased.trans {a b c : Option Burst} (h : BurstEased a b) (k : BurstEased b c) : BurstEased a c := by
  rcases h with rfl | rfl <;> rcases k with rfl | rfl
  · exact .inl rfl
  · exact .inr rfl
  · exact .inr rfl
  · exact .inr (by cases a <;> simp [Burst.notFinal_notFinal])

theorem WakeChanges.refl (s : State) : WakeChanges s s := ⟨rfl, .inl rfl, fun _ waits _ => waits⟩

theorem WakeChanges.trans {s t u : State} (h : WakeChanges s t) (k : WakeChanges t u) : WakeChanges s u :=
  ⟨k.same.trans h.same, h.eased.trans k.eased, fun x waits other => k.waits x (h.waits x waits other) other⟩

/-- A change that leaves the reports and the burst. -/
theorem WakeChanges.quiet {s t : State} (same : t.unwoken = s.unwoken) (burst : t.store.burst = s.store.burst)
    (reports : t.reports = s.reports) : WakeChanges s t :=
  ⟨same, .inl burst, fun _ waits _ => reports ▸ waits⟩

theorem wakeChanges_supplyOn (s : State) : WakeChanges s s.supplyOn := by
  unfold State.supplyOn
  split
  · exact .refl s
  · split <;> exact .quiet rfl rfl rfl

theorem wakeChanges_converterOn (s : State) : WakeChanges s s.converterOn := by
  unfold State.converterOn
  split
  · exact .quiet rfl rfl rfl
  · exact .refl s

theorem waits_shown {x : Report} {q : List QueueEntry} (waits : Waits x q) : Waits x (q.map QueueEntry.shown) := by
  obtain ⟨e, mem, report⟩ := waits
  exact ⟨e.shown, List.mem_map_of_mem mem, report⟩

theorem waits_enqueue {x y : Report} {withheld : Bool} {q : List QueueEntry} (waits : Waits x q)
    (other : x.key ≠ y.key) : Waits x (enqueue y withheld q) := by
  obtain ⟨e, mem, rfl⟩ := waits
  exact ⟨e, mem_enqueue_of_key_ne withheld mem other, rfl⟩

/-- A report of another kind than LEVEL's does not have its key. -/
theorem key_ne_levelRun {x : Report} (other : x.kindCode ≠ 0x87) (first : Option WakeCause) (causes : List WakeCause)
    (abandoned : Bool) : x.key ≠ (Report.levelRun first causes abandoned).key := by
  cases x <;> simp_all [Report.key, Report.kindCode, Report.subject, OrderKind.code]

theorem wakeChanges_clearWithheld (s : State) : WakeChanges s s.clearWithheld :=
  ⟨rfl, .inl rfl, fun _ waits _ => waits_shown waits⟩

theorem wakeChanges_putLevelRun (s : State) (first : Option WakeCause) (causes : List WakeCause) (abandoned : Bool) :
    WakeChanges s (s.putReport (.levelRun first causes abandoned) false) :=
  ⟨rfl, .inl rfl, fun _ waits other => waits_enqueue waits (key_ne_levelRun other _ _ _)⟩

theorem wakeChanges_completeRun (s : State) : WakeChanges s s.completeRun := by
  unfold State.completeRun
  extract_lets supply report power t u
  have begun : WakeChanges s t := .quiet rfl rfl rfl
  have supplied : WakeChanges t u := by
    simp only [u]
    split
    · exact wakeChanges_supplyOn t
    · exact .refl t
  exact begun.trans <| supplied.trans <| (wakeChanges_clearWithheld u).trans <|
    (wakeChanges_converterOn _).trans (wakeChanges_putLevelRun _ _ _ _)

theorem wakeChanges_storeWithdraw (s : State) : WakeChanges s s.storeWithdraw := by
  unfold State.storeWithdraw
  split
  · exact ⟨rfl, .inr rfl, fun _ waits _ => waits⟩
  · exact .quiet rfl rfl rfl
  · exact .quiet rfl rfl rfl

theorem wakeChanges_withdrawOrdinary (s : State) : WakeChanges s s.withdrawOrdinary := by
  unfold State.withdrawOrdinary
  split
  · dsimp only
    split
    · exact (wakeChanges_storeWithdraw s).trans (.quiet rfl rfl rfl)
    · exact wakeChanges_storeWithdraw s
  · exact .refl s

theorem wakeChanges_fullWake (s : State) : WakeChanges s s.fullWake := by
  unfold State.fullWake
  extract_lets abandons power t u
  have begun : WakeChanges s t := .quiet rfl rfl rfl
  have withdrawn : WakeChanges s u := begun.trans (wakeChanges_withdrawOrdinary t)
  split
  · exact withdrawn.trans (wakeChanges_completeRun u)
  · exact withdrawn

theorem wakeChanges_takeWake (s : State) (c : WakeCause) : WakeChanges s (s.takeWake c) := by
  have recorded : WakeChanges s { s with power := s.power.record c } := .quiet rfl rfl rfl
  unfold State.takeWake
  split
  · exact recorded
  · exact recorded
  · exact recorded.trans (wakeChanges_fullWake _)
  · exact recorded.trans (wakeChanges_fullWake _)
  · exact recorded.trans (wakeChanges_fullWake _)
  · exact .refl s

/-- What a report queued changes: it waits, and the part may wake by it (R152, R182). -/
theorem queueReport_wakes (s : State) (x : Report) :
    ∃ withheld, WakeChanges (s.putReport x withheld) (s.queueReport x) := by
  unfold State.queueReport
  split
  · exact ⟨false, .refl _⟩
  · split
    · split
      · exact ⟨true, .refl _⟩
      · exact ⟨false, wakeChanges_takeWake _ _⟩
    · exact ⟨_, .refl _⟩

theorem queueReport_unwoken (s : State) (x : Report) : (s.queueReport x).unwoken = s.unwoken := by
  obtain ⟨withheld, changes⟩ := queueReport_wakes s x
  exact changes.same

/-! ## Entry into DOZE (R147) -/

/-- A state but for what an entry into DOZE changes: the head's supply, burn and converter, the motors' drives, the
controller and Power Control. -/
def State.undozed (s : State) : State :=
  { s with
    power := State.reset.power, pf := s.pf.driveOff, sf := s.sf.driveOff
    head :=
      { s.head with
        supply := .off, settleTimer := none, thetaNext := false, sampleTimer := none, burn := none, cutOff := [] }
    store :=
      { s.store with
        state := .on, request := .none, burst := none, backlog := 0, refreshTimer := none, scrubTimer := none } }

theorem placeRequest_undozed (s : State) : s.placeRequest.undozed = s.undozed := by
  unfold State.placeRequest
  dsimp only
  split <;> rfl

theorem enterSelfRefresh_undozed (s : State) : s.enterSelfRefresh.undozed = s.undozed := by
  unfold State.enterSelfRefresh
  dsimp only
  split <;> rfl

theorem entryAdvance_undozed (s : State) : s.entryAdvance.undozed = s.undozed := by
  unfold State.entryAdvance
  split
  · split
    · rfl
    · exact enterSelfRefresh_undozed s
  · rfl

theorem beginDoze_undozed (s : State) : s.beginDoze.undozed = s.undozed := by
  unfold State.beginDoze
  dsimp only
  split
  · rw [entryAdvance_undozed, placeRequest_undozed]; rfl
  · rfl

end Sys2Proof.Machine
end

section
/-! PROOF. The end of a route (R70, R71, R125): its page, its bindings, its claims, its blocks and its record. -/

namespace Sys2Proof.Machine

/-! ## What the steps of a route's end leave as it is -/

/-- A writer that asks again. -/
def Writer.fed (w : Writer) : Writer := { w with starved := false }

/-- A state but for what a route's page and a change of availability touch: the reports, the routes' records, the
pages, the pool, the burst's page, and that writers are starved. -/
def State.unpaged (s : State) : State :=
  { s with
    reports := [], routes := State.reset.routes, pages := State.reset.pages, pool := State.reset.pool
    store := { s.store with burst := none }
    coder := { s.coder with writer := s.coder.writer.fed }
    hostIn := { s.hostIn with writer := s.hostIn.writer.fed } }

theorem unpaged_queueReport {s : State} {x : Report} (plain : x.isError = false) :
    (s.queueReport x).unpaged = s.unpaged := by
  obtain ⟨q, eq⟩ := queueReport_plain s x plain
  rw [eq]; rfl

theorem unpaged_unstarve (s : State) (slot : Option RouteNo) (starved : Bool) :
    (s.unstarve slot starved).unpaged = s.unpaged := by
  obtain ⟨q, rs, eq, -⟩ := unstarve_changes s slot starved
  rw [eq]; rfl

theorem unpaged_availChange (s : State) (before : Nat) : (s.availChange before).unpaged = s.unpaged := by
  obtain ⟨q, rs, al, a, b, eq, -⟩ := availChange_changes s before
  rw [eq]; rfl

theorem unpaged_queueImage (s : State) (p : PageNo) : (s.queueImage p).unpaged = s.unpaged := by
  rw [queueImage_eq]; rfl

theorem unpaged_splice (s : State) (p : PageNo) (c : Chain) : (s.splice p c).unpaged = s.unpaged := by
  obtain ⟨pool, eq, -⟩ := splice_changes s p c
  rw [eq]; rfl

theorem unpaged_freePage (s : State) (p : PageNo) : (s.freePage p).unpaged = s.unpaged := by
  unfold State.freePage
  rw [unpaged_availChange, unpaged_queueReport rfl, unpaged_queueImage]
  exact unpaged_splice s p _

theorem unpaged_dropPage (s : State) (p : PageNo) : (s.dropPage p).unpaged = s.unpaged := by
  unfold State.dropPage
  rw [unpaged_queueReport rfl, unpaged_queueImage]
  rfl

theorem unpaged_leavePage (s : State) (p : PageNo) (done : Bool) : (s.leavePage p done).unpaged = s.unpaged := by
  unfold State.leavePage
  dsimp only
  split
  · rfl
  · exact unpaged_dropPage _ p
  · exact unpaged_freePage _ p

theorem unpaged_closePage (s : State) (r : RouteNo) (p : PageNo) (c : PageClose) :
    (s.closePage r p c).unpaged = s.unpaged := by
  unfold State.closePage
  rw [unpaged_queueReport rfl]
  exact unpaged_queueImage _ p

theorem unpaged_endPage (s : State) (r : RouteNo) (f : Fate) : (s.endPage r f).unpaged = s.unpaged := by
  unfold State.endPage
  dsimp only
  split
  · rfl
  · split
    · exact unpaged_leavePage s _ _
    · split
      · exact unpaged_closePage s r _ _
      · rfl

/-! ## A route's page at its end (R5, R6, R8, R10) -/

/-- The pages and the pool but for its alert and its waiting flags. -/
def State.directory (s : State) : Vector PageEntry 32 × Pool := (s.pages, { s.pool with alert := .none, damage := [] })

theorem directory_queueReport (s : State) (x : Report) : (s.queueReport x).directory = s.directory := by
  have same := congrArg State.directory (queueReport_unwoken s x)
  exact same

theorem directory_availChange (s : State) (before : Nat) : (s.availChange before).directory = s.directory := by
  obtain ⟨q, rs, al, a, b, eq, -⟩ := availChange_changes s before
  rw [eq]; rfl

/-- The link word that joins a chain to the free list in service (R12). -/
def State.spliceItem (s : State) (head : Nat) : List DirItem :=
  if s.pool.state = .inService ∧ 0 < s.pool.freeCount then
    s.pool.freeTail.toList.map fun t => .link t (BitVec.ofNat 16 head)
  else []

theorem splice_dirQueue (s : State) (p : PageNo) (c : Chain) :
    (s.splice p c).pool.dirQueue = s.pool.dirQueue ++ s.spliceItem c.head := by
  by_cases service : s.pool.state = .inService
  · rw [splice_inService p c service]
    simp [State.spliceItem, State.joinLink, service]
  · simp [State.splice, State.spliceItem, service]

theorem splice_counts (s : State) (p : PageNo) (c : Chain) :
    (s.pool.state = .inService → (s.splice p c).pool.freeCount = s.pool.freeCount + c.count)
    ∧ (s.pool.state ≠ .inService → (s.splice p c).pool.stranded = s.pool.stranded + c.count) :=
  ⟨fun service => by rw [splice_inService p c service], fun out => by simp [State.splice, out]⟩

/-- A freed page with its chain joined and its image write queued, before its report (R2, R11, R12). -/
def State.unlisted (s : State) (p : PageNo) : State :=
  let c : Chain := { head := (s.page p).head, tail := (s.page p).tail, count := (s.page p).blockCount }
  let t := (s.splice p c).clearDamage p
  let t := { t with store := { t.store with burst := t.store.burst.map (Burst.forget p) } }
  (t.setPage p PageEntry.freeEntry).queueImage p

theorem freePage_eq (s : State) (p : PageNo) :
    s.freePage p = ((s.unlisted p).queueReport (.pageFreed p)).availChange s.available := rfl

theorem freePage_directory (s : State) (p : PageNo) : (s.freePage p).directory = (s.unlisted p).directory := by
  rw [freePage_eq, directory_availChange, directory_queueReport]

theorem spliceItem_no_image (s : State) (p : PageNo) (head : Nat) :
    (s.spliceItem head).any (DirItem.isFreshImage p) = false := by
  unfold State.spliceItem
  split
  · cases s.pool.freeTail <;> rfl
  · rfl

/-- What a freed page leaves (R2, R11, R12, R20). -/
theorem unlisted_spec (s : State) (p : PageNo) :
    (s.unlisted p).pages = s.pages.set p PageEntry.freeEntry
    ∧ (s.unlisted p).pool.dirQueue = s.pool.dirQueue ++ s.spliceItem (s.page p).head ++ s.imageItem p
    ∧ (s.pool.state = .inService → (s.unlisted p).pool.freeCount = s.pool.freeCount + (s.page p).blockCount)
    ∧ (s.pool.state ≠ .inService → (s.unlisted p).pool.stranded = s.pool.stranded + (s.page p).blockCount) := by
  let c : Chain := { head := (s.page p).head, tail := (s.page p).tail, count := (s.page p).blockCount }
  have queue := splice_dirQueue s p c
  obtain ⟨free, stranded⟩ := splice_counts s p c
  obtain ⟨pool, splice, -⟩ := splice_changes s p c
  unfold State.unlisted
  dsimp only
  rw [queueImage_eq]
  refine ⟨?_, ?_, free, stranded⟩
  · change (s.splice p c).pages.set p PageEntry.freeEntry = _
    rw [splice]
  · change (s.splice p c).pool.dirQueue ++ (if (s.splice p c).pool.dirQueue.any (DirItem.isFreshImage p) then []
      else [.image p none false]) = _
    rw [queue, List.any_append, spliceItem_no_image, Bool.or_false]
    rfl

theorem directory_dropPage (s : State) (p : PageNo) :
    (s.dropPage p).directory = ((s.setPage p { s.page p with state := .dropping }).queueImage p).directory :=
  directory_queueReport _ _

theorem page_of_pages {s t : State} {p : PageNo} {e : PageEntry} (pages : t.pages = s.pages.set p e) :
    t.page p = e ∧ ∀ q, q ≠ p → t.page q = s.page q := by
  have eq (q : PageNo) : t.page q = (s.setPage p e).page q := by simp only [State.page, pages, State.setPage]
  exact ⟨(eq p).trans (page_setPage_same s p e), fun q ne => (eq q).trans (page_setPage_other s e ne)⟩

/-- The page of a reader that leaves it, by R10's table. -/
theorem leavePage_directory (s : State) (p : PageNo) (done : Bool) :
    let t := s.leavePage p done
    let e := s.page p
    (readerEnd e done = .leave →
      t.pages = s.pages.set p { e with readers := e.readers - 1 } ∧ t.directory.2 = s.directory.2)
    ∧ (readerEnd e done = .drop →
      t.pages = s.pages.set p { e with state := .dropping, readers := e.readers - 1 }
        ∧ t.pool.dirQueue = s.pool.dirQueue ++ s.imageItem p)
    ∧ (readerEnd e done = .free →
      t.pages = s.pages.set p PageEntry.freeEntry
        ∧ t.pool.dirQueue = s.pool.dirQueue ++ s.spliceItem e.head ++ s.imageItem p
        ∧ (s.pool.state = .inService → t.pool.freeCount = s.pool.freeCount + e.blockCount)
        ∧ (s.pool.state ≠ .inService → t.pool.stranded = s.pool.stranded + e.blockCount)) := by
  intro t e
  let left := s.setPage p { e with readers := e.readers - 1 }
  have t_eq : t = match readerEnd e done with
      | .leave => left
      | .drop => left.dropPage p
      | .free => left.freePage p := rfl
  have page : left.page p = { e with readers := e.readers - 1 } := page_setPage_same s p _
  have pages (x : PageEntry) : left.pages.set p x = s.pages.set p x := by simp [left, State.setPage]
  refine ⟨fun leave => ?_, fun drop => ?_, fun free => ?_⟩
  · rw [t_eq, leave]; exact ⟨rfl, rfl⟩
  · replace t_eq : t = left.dropPage p := by rw [t_eq, drop]
    have books := directory_dropPage left p
    rw [← t_eq, queueImage_eq, page] at books
    obtain ⟨pages_eq, pool_eq⟩ := Prod.mk.inj books
    exact ⟨pages_eq.trans (pages _), congrArg Pool.dirQueue pool_eq⟩
  · replace t_eq : t = left.freePage p := by rw [t_eq, free]
    have books := freePage_directory left p
    rw [← t_eq] at books
    obtain ⟨pages_eq, pool_eq⟩ := Prod.mk.inj books
    obtain ⟨pages_free, queue, counted, stranded⟩ := unlisted_spec left p
    rw [page] at queue counted stranded
    exact ⟨(pages_eq.trans pages_free).trans (pages _), (congrArg Pool.dirQueue pool_eq).trans queue,
      fun service => (congrArg Pool.freeCount pool_eq).trans (counted service),
      fun out => (congrArg Pool.stranded pool_eq).trans (stranded out)⟩

theorem readerEnd_free {e : PageEntry} {done : Bool} (last : e.readers ≤ 1)
    (ends : e.state = .dropping ∨ done = true) :
    readerEnd e done = .free := by
  have none_left : e.readers - 1 = 0 := by omega
  rcases ends with dropping | done
  · simp [readerEnd, dropping, none_left]
  · by_cases dropping : e.state = .dropping <;> simp [readerEnd, dropping, done, none_left]

theorem readerEnd_drop {e : PageEntry} {done : Bool} (others : 1 < e.readers) (kept : e.state ≠ .dropping)
    (ends : done = true) : readerEnd e done = .drop := by
  have some_left : e.readers - 1 ≠ 0 := by omega
  simp [readerEnd, kept, ends, some_left]

theorem readerEnd_leave {e : PageEntry} {done : Bool}
    (stays : (e.state = .dropping ∧ 1 < e.readers) ∨ (e.state ≠ .dropping ∧ done = false)) :
    readerEnd e done = .leave := by
  rcases stays with ⟨dropping, others⟩ | ⟨kept, going⟩
  · have some_left : e.readers - 1 ≠ 0 := by omega
    simp [readerEnd, dropping, some_left]
  · simp [readerEnd, kept, going]

/-- A writer's page closes (R5, R6). -/
theorem closePage_directory (s : State) (r : RouteNo) (p : PageNo) (c : PageClose) :
    (s.closePage r p c).pages = s.pages.set p { s.page p with
        state := .closed, bitLength := c.bitLength, lineCount := c.lineCount, badLines := c.badLines
        truncated := (s.page p).truncated || c.truncated, owner := none }
    ∧ (s.closePage r p c).pool.dirQueue = s.pool.dirQueue ++ s.imageItem p := by
  have books : (s.closePage r p c).directory = ((s.setPage p { s.page p with
      state := .closed, bitLength := c.bitLength, lineCount := c.lineCount, badLines := c.badLines
      truncated := (s.page p).truncated || c.truncated, owner := none }).queueImage p).directory :=
    directory_queueReport _ _
  rw [queueImage_eq] at books
  obtain ⟨pages_eq, pool_eq⟩ := Prod.mk.inj books
  exact ⟨pages_eq, congrArg Pool.dirQueue pool_eq⟩

/-! ## A route's record up to its end -/

/-- A record in some state: the others of its fields are kept. -/
def SameRecord (x y : Route) : Prop := ∃ state, y = { x with state := state }

theorem route_queueReport (s : State) (x : Report) (r : RouteNo) : (s.queueReport x).route r = s.route r := by
  have same := congrArg (fun u : State => u.route r) (queueReport_unwoken s x)
  exact same

theorem route_availChange (s : State) (before : Nat) (r : RouteNo) :
    SameRecord (s.route r) ((s.availChange before).route r) := by
  obtain ⟨q, rs, al, a, b, eq, states⟩ := availChange_changes s before
  obtain ⟨state, record⟩ := states r
  exact ⟨state, by rw [eq]; exact record⟩

theorem route_freePage (s : State) (p : PageNo) (r : RouteNo) :
    SameRecord (s.route r) ((s.freePage p).route r) := by
  have listed : (s.unlisted p).route r = s.route r := by
    obtain ⟨pool, splice, -⟩ :=
      splice_changes s p { head := (s.page p).head, tail := (s.page p).tail, count := (s.page p).blockCount }
    unfold State.unlisted
    dsimp only
    rw [splice, queueImage_eq]
    rfl
  have changed := route_availChange ((s.unlisted p).queueReport (.pageFreed p)) s.available r
  rwa [route_queueReport, listed] at changed

theorem route_leavePage (s : State) (p : PageNo) (done : Bool) (r : RouteNo) :
    SameRecord (s.route r) ((s.leavePage p done).route r) := by
  unfold State.leavePage
  dsimp only
  split
  · exact ⟨_, rfl⟩
  · refine ⟨(s.route r).state, ?_⟩
    rw [State.dropPage, route_queueReport, queueImage_eq]
    rfl
  · exact route_freePage _ p r

theorem route_closePage (s : State) (r : RouteNo) (p : PageNo) (c : PageClose) :
    (s.closePage r p c).route r = { s.route r with page := none, lastPage := some p } := by
  rw [State.closePage, route_queueReport, route_setRoute_same, queueImage_eq]
  rfl

/-- The last page of a route that ends (R71). -/
def Route.lastAtEnd (x : Route) (f : Fate) : Option PageNo :=
  if x.isReader = true ∨ f.close ≠ none then x.page <|> x.lastPage else x.lastPage

theorem route_endPage (s : State) (r : RouteNo) (f : Fate) :
    SameRecord { s.route r with page := none, lastPage := (s.route r).lastAtEnd f } ((s.endPage r f).route r) := by
  cases open_ : (s.route r).page with
  | none =>
    have last : (s.route r).lastAtEnd f = (s.route r).lastPage := by simp [Route.lastAtEnd, open_]
    refine ⟨(s.route r).state, ?_⟩
    simp only [State.endPage, open_, last]
    rw [← open_]
  | some p =>
    by_cases reads : (s.route r).isReader = true
    · obtain ⟨state, left⟩ := route_leavePage s p ((s.route r).drops f) r
      refine ⟨state, ?_⟩
      simp only [State.endPage, open_, if_pos reads, route_setRoute_same, left]
      simp [Route.lastAtEnd, reads, open_]
    · refine ⟨(s.route r).state, ?_⟩
      simp only [State.endPage, open_, if_neg reads]
      cases close : f.close with
      | none => simp [Route.lastAtEnd, reads, close]
      | some c => simp [route_closePage, Route.lastAtEnd, open_, close]

/-! ## The end of a route (R71) -/

/-- The steps of a route's end up to its blocks: its page, its motors' copies, its bindings. -/
def State.endSteps (s : State) (r : RouteNo) (f : Fate) : State :=
  let kind := (s.route r).kind
  let t := s.endPage r f
  let t := if (kind.map RouteKind.usesPrinter).getD false then t.takeCopy .pf else t
  let t := if (kind.map RouteKind.usesScanner).getD false then t.takeCopy .sf else t
  (s.route r).boundSlots.foldl State.unbind t

/-- The record of a route that has ended, its blocks at rest and its claims given up. -/
def State.endRecord (s : State) (r : RouteNo) (f : Fate) : State :=
  let t := (s.endSteps r f).releaseBlocks (s.route r).kind
  let t := { t with engines := t.engines.release r, cutter := t.cutter.disown r }.disownDamage r
  t.setRoute r ((t.route r).ended f)

/-- The report of a route that ends. -/
def State.endReport (s : State) (r : RouteNo) (f : Fate) : Report :=
  let x := s.route r
  let counts := x.lastCounts.getD (x.linesDone, x.badLines)
  .ended r x.kind f.outcome f.cause f.unterminated (x.lastAtEnd f) counts.1 counts.2

theorem takeCopy_eq (s : State) (m : MotorName) : ∃ pf sf, s.takeCopy m = { s with pf := pf, sf := sf } := by
  unfold State.takeCopy
  dsimp only
  split
  · cases m <;> exact ⟨_, _, rfl⟩
  · exact ⟨s.pf, s.sf, rfl⟩

@[simp] theorem table_unbind (s : State) (t u : TableNo) :
    (s.unbind t).table u = { s.table u with binds := (s.table u).binds - if t = u then 1 else 0 } := by
  by_cases same : t = u
  · subst same; simp [State.unbind]
  · simp [State.unbind, table_setTable_other _ _ (Ne.symm same), same]

theorem foldl_unbind (slots : List TableNo) (s : State) :
    ∃ tables, slots.foldl State.unbind s = { s with tables := tables } := by
  induction slots generalizing s with
  | nil => exact ⟨s.tables, rfl⟩
  | cons t rest ih =>
    obtain ⟨tables, rest_eq⟩ := ih (s.unbind t)
    exact ⟨tables, rest_eq⟩

theorem table_foldl_unbind {slots : List TableNo} (s : State) (t : TableNo) (nodup : slots.Nodup) :
    (slots.foldl State.unbind s).table t
      = { s.table t with binds := (s.table t).binds - if t ∈ slots then 1 else 0 } := by
  induction slots generalizing s with
  | nil => rfl
  | cons u rest ih =>
    obtain ⟨new, nodup⟩ := List.nodup_cons.1 nodup
    rw [List.foldl_cons, ih _ nodup, table_unbind]
    by_cases same : u = t
    · subst same; simp [new]
    · simp [same, Ne.symm same]

theorem takeCopyIf_eq (c : Bool) (s : State) (m : MotorName) :
    ∃ pf sf, (if c = true then s.takeCopy m else s) = { s with pf := pf, sf := sf } := by
  cases c with
  | true => exact takeCopy_eq s m
  | false => exact ⟨s.pf, s.sf, rfl⟩

/-- The motors' copies change the motors alone, and the bindings the tables. -/
theorem endSteps_eq (s : State) (r : RouteNo) (f : Fate) :
    ∃ pf sf tables, s.endSteps r f = { s.endPage r f with pf := pf, sf := sf, tables := tables } := by
  obtain ⟨pf, sf, first⟩ := takeCopyIf_eq (((s.route r).kind.map RouteKind.usesPrinter).getD false) (s.endPage r f) .pf
  obtain ⟨pf', sf', second⟩ := takeCopyIf_eq (((s.route r).kind.map RouteKind.usesScanner).getD false)
    { s.endPage r f with pf := pf, sf := sf } .sf
  obtain ⟨tables, bindings⟩ := foldl_unbind (s.route r).boundSlots { s.endPage r f with pf := pf', sf := sf' }
  refine ⟨pf', sf', tables, ?_⟩
  unfold State.endSteps
  dsimp only
  rw [first, second, bindings]

theorem endSteps_table (s : State) (r : RouteNo) (f : Fate) (t : TableNo) :
    (s.endSteps r f).table t
      = { s.table t with binds := (s.table t).binds - if t ∈ (s.route r).boundSlots then 1 else 0 } := by
  have page : (s.endPage r f).table t = s.table t := by
    have same := congrArg (fun u : State => u.table t) (unpaged_endPage s r f)
    exact same
  have copy (u : State) (m : MotorName) : (u.takeCopy m).table t = u.table t := by
    obtain ⟨pf, sf, eq⟩ := takeCopy_eq u m
    rw [eq]; rfl
  unfold State.endSteps
  dsimp only
  rw [table_foldl_unbind _ t (nodup_boundSlots _), apply_ite (fun u : State => u.table t), copy,
    apply_ite (fun u : State => u.table t), copy, ite_self, ite_self, page]

theorem releaseBlocks_keeps (s : State) (kind : Option RouteKind) :
    let t := s.releaseBlocks kind
    t.routes = s.routes ∧ t.directory = s.directory ∧ t.tables = s.tables ∧ t.engines = s.engines
      ∧ t.pool = s.pool := by
  cases kind with
  | none => exact ⟨rfl, rfl, rfl, rfl, rfl⟩
  | some k => cases k <;> exact ⟨rfl, rfl, rfl, rfl, rfl⟩

theorem endRecord_route (s : State) (r : RouteNo) (f : Fate) :
    (s.endRecord r f).route r
      = ({ s.route r with lastPage := (s.route r).lastAtEnd f } : Route).ended f := by
  obtain ⟨state, record⟩ := route_endPage s r f
  obtain ⟨pf, sf, tables, steps⟩ := endSteps_eq s r f
  obtain ⟨routes, -⟩ := releaseBlocks_keeps (s.endSteps r f) (s.route r).kind
  have kept : ((s.endSteps r f).releaseBlocks (s.route r).kind).route r = (s.endPage r f).route r := by
    exact (congrArg (fun v : Vector Route 4 => v[r]) routes).trans (by rw [steps]; rfl)
  unfold State.endRecord
  rw [route_setRoute_same]
  change Route.ended (((s.endSteps r f).releaseBlocks (s.route r).kind).route r) f = _
  rw [kept, record]
  rfl

/-- A route's end is its record, then availability, its report and, at DOZE-RX, the return to DOZE. -/
theorem finishRoute_eq (s : State) (r : RouteNo) (f : Fate) :
    ∃ before, s.finishRoute r f
      = (((s.endRecord r f).availChange before).queueReport (s.endReport r f)).returnToDoze (s.route r).kind := by
  have idle : ((s.endRecord r f).route r).state ≠ .stalled := by
    rw [endRecord_route]
    exact nofun
  let claims : State := { (s.endSteps r f).releaseBlocks (s.route r).kind with
    engines := ((s.endSteps r f).releaseBlocks (s.route r).kind).engines.release r
    cutter := ((s.endSteps r f).releaseBlocks (s.route r).kind).cutter.disown r }
  let last := (s.endRecord r f).availChange (claims.disownDamage r).available
  have steps : s.finishRoute r f = (last.queueReport (.ended r (s.route r).kind f.outcome f.cause f.unterminated
      (last.route r).lastPage (last.route r).pageCounts.1 (last.route r).pageCounts.2)).returnToDoze
        (s.route r).kind := rfl
  have record : last.route r = _ := (availChange_route _ idle).trans (endRecord_route s r f)
  refine ⟨(claims.disownDamage r).available, ?_⟩
  rw [steps, record]
  rfl

/-! ## What a route's end leaves and changes -/

theorem returnToDoze_undozed (s : State) (kind : Option RouteKind) : (s.returnToDoze kind).undozed = s.undozed := by
  unfold State.returnToDoze
  split
  · exact beginDoze_undozed s
  · rfl

theorem returnToDoze_of_ne (s : State) {kind : Option RouteKind} (other : kind ≠ some .lineReceive) :
    s.returnToDoze kind = s := if_neg fun h => other h.2

/-- A part that availability, a report and an entry into DOZE leave is the ended record's. -/
theorem finishRoute_keeps {α : Type} (g : State → α) (s : State) (r : RouteNo) (f : Fate)
    (avail : ∀ before, g ((s.endRecord r f).availChange before) = g (s.endRecord r f))
    (woken : ∀ t : State, g t.unwoken = g t)
    (dozed : (∀ t : State, g t.undozed = g t) ∨ (s.route r).kind ≠ some .lineReceive) :
    g (s.finishRoute r f) = g (s.endRecord r f) := by
  obtain ⟨before, eq⟩ := finishRoute_eq s r f
  rw [eq]
  let reported := ((s.endRecord r f).availChange before).queueReport (s.endReport r f)
  have same : g (reported.returnToDoze (s.route r).kind) = g reported := by
    rcases dozed with dozed | other
    · rw [← dozed, returnToDoze_undozed, dozed]
    · rw [returnToDoze_of_ne _ other]
  have report : g reported = g ((s.endRecord r f).availChange before) := by
    rw [← woken, queueReport_unwoken, woken]
  exact same.trans (report.trans (avail before))

/-- A part that a change of availability leaves, read through the state without its pages. -/
theorem availChange_keeps {α : Type} {g : State → α} (unpaged : ∀ t : State, g t.unpaged = g t) (s : State)
    (before : Nat) : g (s.availChange before) = g s := by
  rw [← unpaged, unpaged_availChange, unpaged]

/-- The reports after a route's end hold its ENDED (R71). -/
theorem finishRoute_reports (s : State) (r : RouteNo) (f : Fate) :
    Waits (s.endReport r f) (s.finishRoute r f).reports := by
  obtain ⟨before, eq⟩ := finishRoute_eq s r f
  obtain ⟨withheld, wakes⟩ := queueReport_wakes ((s.endRecord r f).availChange before) (s.endReport r f)
  have waits := wakes.waits (s.endReport r f) (mem_enqueue _ _ _) nofun
  have kept := congrArg State.reports (returnToDoze_undozed
    (((s.endRecord r f).availChange before).queueReport (s.endReport r f)) (s.route r).kind)
  rw [eq]
  exact kept ▸ waits

/-- The Coder, its writer not starved. -/
def Coder.fed (c : Coder) : Coder := { c with writer := c.writer.fed }

/-- HOST-IN, its writer not starved. -/
def HostIn.fed (h : HostIn) : HostIn := { h with writer := h.writer.fed }

/-- The writers' blocks after a change of availability: as they were, or not starved any longer (R16). -/
theorem availChange_writers (s : State) (before : Nat) :
    ((s.availChange before).coder = s.coder
      ∨ (s.availChange before).coder = s.coder.fed)
    ∧ ((s.availChange before).hostIn = s.hostIn
      ∨ (s.availChange before).hostIn = s.hostIn.fed) := by
  have unstarve (t : State) (slot : Option RouteNo) (starved : Bool) :
      (t.unstarve slot starved).coder = t.coder ∧ (t.unstarve slot starved).hostIn = t.hostIn := by
    obtain ⟨q, rs, eq, -⟩ := unstarve_changes t slot starved
    rw [eq]; exact ⟨rfl, rfl⟩
  unfold State.availChange
  extract_lets now pool t t1 t2
  have alert : t.coder = s.coder ∧ t.hostIn = s.hostIn := by
    simp only [t]
    split
    · obtain ⟨q, eq⟩ := queueReport_plain { s with pool := { s.pool with alert := .low } } .poolLow rfl
      rw [eq]; exact ⟨rfl, rfl⟩
    · split
      · obtain ⟨q, eq⟩ := queueReport_plain { s with pool := { s.pool with alert := .none } } .poolOk rfl
        rw [eq]; exact ⟨rfl, rfl⟩
      · exact ⟨rfl, rfl⟩
  split
  · have coder : t2.coder = s.coder := ((unstarve t1 _ _).1.trans (unstarve t _ _).1).trans alert.1
    have hostIn : t2.hostIn = s.hostIn := ((unstarve t1 _ _).2.trans (unstarve t _ _).2).trans alert.2
    exact ⟨.inr (by rw [← coder]; rfl), .inr (by rw [← hostIn]; rfl)⟩
  · exact ⟨.inl alert.1, .inl alert.2⟩

theorem Writer.fed_of_fed {w : Writer} (fed : w.starved = false) : w.fed = w := by rw [Writer.fed, ← fed]

/-- A Coder whose writer is not starved is not changed by availability (R16). -/
theorem availChange_coder {s : State} (before : Nat) (fed : s.coder.writer.starved = false) :
    (s.availChange before).coder = s.coder := by
  rcases (availChange_writers s before).1 with same | changed
  · exact same
  · rw [changed, Coder.fed, Writer.fed_of_fed fed]

theorem availChange_hostIn {s : State} (before : Nat) (fed : s.hostIn.writer.starved = false) :
    (s.availChange before).hostIn = s.hostIn := by
  rcases (availChange_writers s before).2 with same | changed
  · exact same
  · rw [changed, HostIn.fed, Writer.fed_of_fed fed]

theorem endSteps_blocks (s : State) (r : RouteNo) (f : Fate) :
    (s.endSteps r f).scanner = s.scanner ∧ (s.endSteps r f).head = s.head ∧ (s.endSteps r f).line = s.line
      ∧ (s.endSteps r f).engines = s.engines ∧ (s.endSteps r f).directory = (s.endPage r f).directory := by
  obtain ⟨pf, sf, tables, eq⟩ := endSteps_eq s r f
  have same := unpaged_endPage s r f
  rw [eq]
  exact ⟨(congrArg State.scanner same :), (congrArg State.head same :), (congrArg State.line same :),
    (congrArg State.engines same :), rfl⟩

theorem endRecord_engines (s : State) (r : RouteNo) (f : Fate) :
    (s.endRecord r f).engines = s.engines.release r := by
  obtain ⟨-, -, -, engines, -⟩ := releaseBlocks_keeps (s.endSteps r f) (s.route r).kind
  obtain ⟨-, -, -, engines', -⟩ := endSteps_blocks s r f
  exact congrArg (Engines.release · r) (engines.trans engines')

theorem endRecord_directory (s : State) (r : RouteNo) (f : Fate) :
    (s.endRecord r f).directory = (s.endPage r f).directory := by
  obtain ⟨-, directory, -⟩ := releaseBlocks_keeps (s.endSteps r f) (s.route r).kind
  obtain ⟨-, -, -, -, directory'⟩ := endSteps_blocks s r f
  exact directory.trans directory'

theorem endRecord_tables (s : State) (r : RouteNo) (f : Fate) :
    (s.endRecord r f).tables = (s.endSteps r f).tables := by
  obtain ⟨-, -, tables, -⟩ := releaseBlocks_keeps (s.endSteps r f) (s.route r).kind
  exact tables

/-- The claims of a slot given up (R71). -/
theorem release_eq (e : Engines) (r : RouteNo) :
    let free (x : Option RouteNo) : Option RouteNo := if x = some r then none else x
    e.release r
      = { e with
          scanner := free e.scanner, coder := free e.coder, printer := free e.printer
          decoder := free e.decoder, line := free e.line, hostIn := free e.hostIn
          hostOut := free e.hostOut } := by
  simp [Engines.release]

/-! ## Fixing an outcome (R70 to R72) -/

theorem runDown_eq (s : State) (m : MotorName) : ∃ pf sf, s.runDown m = { s with pf := pf, sf := sf } := by
  unfold State.runDown State.restMotor State.stepEvent
  dsimp only
  repeat' split
  all_goals cases m <;> exact ⟨_, _, rfl⟩

/-- A motor of a route whose outcome is fixed (R125). -/
theorem runDown_cases (s : State) (m : MotorName) :
    let mo := s.motor m
    let down := s.setMotor m { mo with motion := .runDown, stretched := false }
    (mo.state ≠ .moving →
      s.runDown m = s.setMotor m { mo with state := .idle, motion := .none, left := 0 })
    ∧ (mo.state = .moving → mo.stretched = false → s.runDown m = down)
    ∧ (mo.state = .moving → mo.stretched = true →
      (mo.index ≤ (s.rampInUse m).z → s.runDown m = down.restMotor m .idle .none)
      ∧ ((s.rampInUse m).z < mo.index → s.runDown m = down.stepEvent m 0)) := by
  intro mo down
  have rest : down.mayRest m = decide (mo.index ≤ (s.rampInUse m).z) := by cases m <;> rfl
  refine ⟨fun still => if_neg still, fun moving free => ?_, fun moving stretched => ⟨fun low => ?_, fun high => ?_⟩⟩
  · simp only [State.runDown]
    rw [if_pos (by exact moving), if_neg (by simpa [mo] using free)]
  · simp only [State.runDown]
    rw [if_pos (by exact moving), if_pos (by exact stretched), if_pos (by exact rest.trans (decide_eq_true low))]
  · simp only [State.runDown]
    rw [if_pos (by exact moving), if_pos (by exact stretched), if_neg]
    exact fun may => absurd (of_decide_eq_true (rest ▸ may)) (Nat.not_le.2 high)

theorem cut_eq (r : RouteNo) : OutRecord.cut r = fun y => { y with
    data := y.data.map fun d => { d with cutShort := d.cutShort || decide (d.slot = r) } } := by
  funext y
  simp only [OutRecord.cut]
  congr 2
  funext d
  by_cases own : d.slot = r <;> simp [own]

theorem stopFlows_route (s : State) (r q : RouteNo) : (s.stopFlows r).route q = s.route q := by
  have down (t : State) (m : MotorName) : (t.runDown m).route q = t.route q := by
    obtain ⟨pf, sf, eq⟩ := runDown_eq t m
    rw [eq]; rfl
  cases kind : (s.route r).kind with
  | none => simp only [State.stopFlows, Route.usesPrinter, Route.usesScanner, kind]; rfl
  | some k =>
    cases k <;> simp only [State.stopFlows, Route.usesPrinter, Route.usesScanner, kind]
    case scanStore => exact down _ _
    case copy => exact (down _ _).trans (down _ _)
    case printPage => exact down _ _
    all_goals rfl

theorem orphanBurst_eq (s : State) (kind : Option RouteKind) :
    ∃ burst, s.orphanBurst kind = { s with store := { s.store with burst := burst } } := by
  unfold State.orphanBurst
  split
  · split <;> exact ⟨_, rfl⟩
  · exact ⟨_, rfl⟩

/-- What each kind's flows stop (R97, R109, R125). -/
theorem stopFlows_cases (s : State) (r : RouteNo) :
    let x := s.route r
    let ring : Scanner :=
      { s.scanner with
        coding := false, ready := [], capturing := false, captureTimer := none, phase := .none }
    let head : Head :=
      { s.head with
        ready := [], capturing := false, nextSlot := 0, history := Dots.white, current := none
        burn := none, cutOff := s.head.cutOff ++ (s.head.burn.bind Burn.cutPhase).toList }
    (x.kind = some .scanStore →
      s.stopFlows r = { { s with scanner := ring }.runDown .sf with
        coder := { Coder.idleCoder with state := .waiting, slot := some r } })
    ∧ (x.kind = some .copy →
      s.stopFlows r = ({ { s with head := head }.runDown .pf with scanner := ring }).runDown .sf)
    ∧ (x.kind = some .printPage →
      s.stopFlows r = { { s with head := head }.runDown .pf with
        printDec := { PrintDecoder.idleDecoder with slot := some r } })
    ∧ (x.kind = some .lineReceive ∨ x.kind = some .lineSend →
      s.stopFlows r = { s with line := { LinePort.idlePort with slot := some r, txd := s.line.txd } })
    ∧ (x.kind = some .hostStore →
      s.stopFlows r = { s with hostIn := { HostIn.idleFlow with slot := some r } })
    ∧ (x.kind = some .pageHost →
      s.stopFlows r = { s with
        hostOut := { HostOut.idleFlow with slot := some r }
        port := { s.port with record := s.port.record.map fun y =>
          { y with data := y.data.map fun d =>
            { d with cutShort := d.cutShort || decide (d.slot = r) } } } })
    ∧ ∀ m,
      let mo := s.motor m
      let down := s.setMotor m { mo with motion := .runDown, stretched := false }
      (mo.state ≠ .moving →
        s.runDown m = s.setMotor m { mo with state := .idle, motion := .none, left := 0 })
      ∧ (mo.state = .moving → mo.stretched = false → s.runDown m = down)
      ∧ (mo.state = .moving → mo.stretched = true →
        (mo.index ≤ (s.rampInUse m).z → s.runDown m = down.restMotor m .idle .none)
        ∧ ((s.rampInUse m).z < mo.index → s.runDown m = down.stepEvent m 0)) := by
  intro x ring head
  refine ⟨fun kind => ?_, fun kind => ?_, fun kind => ?_, fun kind => ?_, fun kind => ?_, fun kind => ?_,
    runDown_cases s⟩
  · change (s.route r).kind = _ at kind
    simp only [State.stopFlows, Route.usesPrinter, Route.usesScanner, kind]; rfl
  · change (s.route r).kind = _ at kind
    obtain ⟨pf, sf, down⟩ := runDown_eq { s with head := head } .pf
    have down' : ({ s with head := s.head.clearRing } : State).runDown .pf = _ := down
    simp only [State.stopFlows, Route.usesPrinter, Route.usesScanner, kind, Option.map_some, Option.getD_some,
      RouteKind.usesPrinter, RouteKind.usesScanner, if_true, down', down]
    rfl
  · change (s.route r).kind = _ at kind
    simp only [State.stopFlows, Route.usesPrinter, Route.usesScanner, kind]; rfl
  · change (s.route r).kind = _ ∨ (s.route r).kind = _ at kind
    rcases kind with kind | kind <;>
      simp only [State.stopFlows, Route.usesPrinter, Route.usesScanner, kind] <;> rfl
  · change (s.route r).kind = _ at kind
    simp only [State.stopFlows, Route.usesPrinter, Route.usesScanner, kind]; rfl
  · change (s.route r).kind = _ at kind
    simp only [State.stopFlows, Route.usesPrinter, Route.usesScanner, kind, cut_eq]; rfl

/-- The burst in progress that is the route's of a kind (R71). -/
theorem ofKind_iff (b : BurstKind) (k : RouteKind) : b.ofKind k = true ↔
    (k = .scanStore ∧ ∃ a ws, b = .coderWrite a ws)
    ∨ (k = .lineReceive ∧ ∃ a ws n, b = .lineWrite a ws n)
    ∨ (k = .hostStore ∧ ∃ a ws, b = .hostWrite a ws)
    ∨ ∃ reader, ((∃ a n, b = .fetchWords reader a n) ∨ ∃ block, b = .fetchLink reader block)
      ∧ k = (match reader with
        | .print => .printPage
        | .line => .lineSend
        | .host => .pageHost) := by
  cases b with
  | fetchWords reader a n => cases reader <;> simp [BurstKind.ofKind]
  | fetchLink reader block => cases reader <;> simp [BurstKind.ofKind]
  | _ => simp [BurstKind.ofKind]

theorem setRoute_setRoute (s : State) (r : RouteNo) (x y : Route) :
    (s.setRoute r x).setRoute r y = s.setRoute r y := by
  simp [State.setRoute]

/-! ## What the end of a route leaves (R71) -/

theorem finishRoute_route (s : State) (r : RouteNo) (f : Fate) :
    (s.finishRoute r f).route r
      = ({ s.route r with lastPage := (s.route r).lastAtEnd f } : Route).ended f := by
  have idle : ((s.endRecord r f).route r).state ≠ .stalled := by
    rw [endRecord_route]
    exact nofun
  rw [← endRecord_route]
  exact finishRoute_keeps (fun t => t.route r) s r f (fun before => availChange_route before idle)
    (fun _ => rfl) (.inl fun _ => rfl)

theorem finishRoute_directory (s : State) (r : RouteNo) (f : Fate) :
    (s.finishRoute r f).directory = (s.endPage r f).directory := by
  rw [← endRecord_directory]
  exact finishRoute_keeps State.directory s r f (directory_availChange _) (fun _ => rfl) (.inl fun _ => rfl)

theorem finishRoute_pages {s : State} {r : RouteNo} {f : Fate} {t : State}
    (ended : t.directory = (s.endPage r f).directory) :
    (s.finishRoute r f).pages = t.pages ∧ (s.finishRoute r f).pool.dirQueue = t.pool.dirQueue
      ∧ (s.finishRoute r f).pool.freeCount = t.pool.freeCount
      ∧ (s.finishRoute r f).pool.stranded = t.pool.stranded := by
  obtain ⟨pages, pool⟩ := Prod.mk.inj ((finishRoute_directory s r f).trans ended.symm)
  exact ⟨pages, (congrArg Pool.dirQueue pool :), (congrArg Pool.freeCount pool :), (congrArg Pool.stranded pool :)⟩

theorem finishRoute_engines (s : State) (r : RouteNo) (f : Fate) :
    (s.finishRoute r f).engines = s.engines.release r := by
  rw [← endRecord_engines s r f]
  exact finishRoute_keeps State.engines s r f (availChange_keeps (fun _ => rfl) _) (fun _ => rfl) (.inl fun _ => rfl)

theorem finishRoute_table (s : State) (r : RouteNo) (f : Fate) (t : TableNo) :
    (s.finishRoute r f).table t
      = { s.table t with binds := (s.table t).binds - if t ∈ (s.route r).boundSlots then 1 else 0 } := by
  have kept := finishRoute_keeps State.tables s r f (availChange_keeps (fun _ => rfl) _) (fun _ => rfl)
    (.inl fun _ => rfl)
  have tables := kept.trans (endRecord_tables s r f)
  rw [← endSteps_table]
  exact congrArg (fun v : Vector TableSlot 16 => v[t]) tables

/-- A head but for its supply and its converter. -/
def Head.ring (h : Head) : Head :=
  { h with supply := .off, settleTimer := none, thetaNext := false, sampleTimer := none }

/-- The blocks after a route's end are those its kind leaves released. -/
theorem finishRoute_blocks (s : State) (r : RouteNo) (f : Fate) :
    let u := s.finishRoute r f
    let v := (s.endSteps r f).releaseBlocks (s.route r).kind
    u.scanner = v.scanner ∧ u.printDec = v.printDec ∧ u.line = v.line ∧ u.hostOut = v.hostOut
    ∧ ((s.route r).kind ≠ some .lineReceive → u.head.ring = v.head.ring)
    ∧ (v.coder.writer.starved = false → u.coder = v.coder)
    ∧ (v.hostIn.writer.starved = false → u.hostIn = v.hostIn) := by
  intro u v
  exact ⟨finishRoute_keeps State.scanner s r f (availChange_keeps (fun _ => rfl) _) (fun _ => rfl) (.inl fun _ => rfl),
    finishRoute_keeps State.printDec s r f (availChange_keeps (fun _ => rfl) _) (fun _ => rfl) (.inl fun _ => rfl),
    finishRoute_keeps State.line s r f (availChange_keeps (fun _ => rfl) _) (fun _ => rfl) (.inl fun _ => rfl),
    finishRoute_keeps State.hostOut s r f (availChange_keeps (fun _ => rfl) _) (fun _ => rfl) (.inl fun _ => rfl),
    fun other => finishRoute_keeps (fun t => t.head.ring) s r f
      (availChange_keeps (g := fun t => t.head.ring) (fun _ => rfl) _) (fun _ => rfl) (.inr other),
    fun fed => finishRoute_keeps State.coder s r f (fun _ => availChange_coder _ fed) (fun _ => rfl)
      (.inl fun _ => rfl),
    fun fed => finishRoute_keeps State.hostIn s r f (fun _ => availChange_hostIn _ fed) (fun _ => rfl)
      (.inl fun _ => rfl)⟩

theorem usesPrinter_iff (x : Route) :
    x.usesPrinter = true ↔ x.kind = some .copy ∨ x.kind = some .printPage := by
  cases kind : x.kind with
  | none => simp [Route.usesPrinter, kind]
  | some k => cases k <;> simp [Route.usesPrinter, RouteKind.usesPrinter, kind]

theorem usesScanner_of_kind {x : Route} (scans : x.kind = some .scanStore ∨ x.kind = some .copy) :
    x.usesScanner = true := by
  rcases scans with kind | kind <;> simp [Route.usesScanner, RouteKind.usesScanner, kind]

theorem releaseBlocks_scanner (s : State) {kind : Option RouteKind}
    (other : ¬(kind = some .scanStore ∨ kind = some .copy)) : (s.releaseBlocks kind).scanner = s.scanner := by
  unfold State.releaseBlocks
  split
  · exact absurd (.inl rfl) other
  · exact absurd (.inr rfl) other
  all_goals rfl

/-- The blocks of each kind after its route's end (R71, R97). -/
theorem finishRoute_released (s : State) (r : RouteNo) (f : Fate) :
    let u := s.finishRoute r f
    let x := s.route r
    let ring : Scanner :=
      { s.scanner with
        coding := false, ready := [], capturing := false, captureTimer := none, phase := .none
        lamp := .off, lampTimer := none }
    (x.kind = some .scanStore → u.scanner = ring ∧ u.coder = Coder.idleCoder)
    ∧ (x.kind = some .copy → u.scanner = { ring with nextSlot := 0 })
    ∧ (x.usesScanner = false → u.scanner = s.scanner)
    ∧ (x.usesPrinter = true → u.head.ring = s.head.emptyRing.ring)
    ∧ (x.kind = some .printPage → u.printDec = PrintDecoder.idleDecoder)
    ∧ (x.kind = some .lineReceive ∨ x.kind = some .lineSend →
      u.line = { LinePort.idlePort with txd := s.line.txd })
    ∧ (x.kind = some .hostStore → u.hostIn = HostIn.idleFlow)
    ∧ (x.kind = some .pageHost → u.hostOut = HostOut.idleFlow) := by
  intro u x ring
  obtain ⟨scanner, printDec, line, hostOut, head, coder, hostIn⟩ := finishRoute_blocks s r f
  obtain ⟨scanner', head', line', -⟩ := endSteps_blocks s r f
  have scanner_eq : u.scanner = ((s.endSteps r f).releaseBlocks x.kind).scanner := scanner
  refine ⟨fun kind => ?_, fun kind => ?_, fun still => ?_, fun prints => ?_, fun kind => ?_, fun kind => ?_,
    fun kind => ?_, fun kind => ?_⟩
  · change (s.route r).kind = _ at kind
    rw [kind] at scanner coder
    simp only [ring]
    rw [← scanner']
    exact ⟨scanner, coder rfl⟩
  · change (s.route r).kind = _ at kind
    rw [kind] at scanner
    simp only [ring]
    rw [← scanner']
    exact scanner
  · rw [scanner_eq, ← scanner']
    exact releaseBlocks_scanner _ (fun scans => Bool.false_ne_true (still.symm.trans (usesScanner_of_kind scans)))
  · change (s.route r).usesPrinter = true at prints
    rcases (usesPrinter_iff _).1 prints with kind | kind
    all_goals
      rw [kind] at head
      rw [head nofun, ← head']
      rfl
  · change (s.route r).kind = _ at kind
    rw [kind] at printDec
    exact printDec
  · change (s.route r).kind = _ ∨ (s.route r).kind = _ at kind
    rw [← line']
    rcases kind with kind | kind <;> (rw [kind] at line; exact line)
  · change (s.route r).kind = _ at kind
    rw [kind] at hostIn
    exact hostIn rfl
  · change (s.route r).kind = _ at kind
    rw [kind] at hostOut
    exact hostOut

/-- A writer's page after its route's end: closed as its outcome says, or left (R5, R6). -/
theorem finishRoute_written {s : State} {r : RouteNo} {f : Fate} {p : PageNo}
    (open_ : (s.route r).page = some p) (writes : (s.route r).isReader = false) :
    let u := s.finishRoute r f
    (∀ c, f.close = some c →
      u.pages = s.pages.set p { s.page p with
          state := .closed, bitLength := c.bitLength, lineCount := c.lineCount, badLines := c.badLines
          truncated := (s.page p).truncated || c.truncated, owner := none }
        ∧ u.pool.dirQueue = s.pool.dirQueue ++ s.imageItem p)
    ∧ (f.close = none → u.pages = s.pages ∧ u.pool.dirQueue = s.pool.dirQueue) := by
  intro u
  have not_reader : ¬(s.route r).isReader = true := by simp [writes]
  refine ⟨fun c close => ?_, fun close => ?_⟩
  · have ended : s.endPage r f = s.closePage r p c := by simp [State.endPage, open_, writes, close]
    obtain ⟨pages, queue, -⟩ := finishRoute_pages (congrArg State.directory ended).symm
    obtain ⟨pages', queue'⟩ := closePage_directory s r p c
    exact ⟨pages.trans pages', queue.trans queue'⟩
  · have ended : s.endPage r f = s.setRoute r { s.route r with page := none } := by
      simp [State.endPage, open_, writes, close]
    obtain ⟨pages, queue, -⟩ := finishRoute_pages (congrArg State.directory ended).symm
    exact ⟨pages, queue⟩

/-- A reader's page after its route's end, by R10's table. -/
theorem finishRoute_read {s : State} {r : RouteNo} {f : Fate} {p : PageNo}
    (open_ : (s.route r).page = some p) (reads : (s.route r).isReader = true) :
    let u := s.finishRoute r f
    let t := s.leavePage p ((s.route r).drops f)
    u.pages = t.pages ∧ u.pool.dirQueue = t.pool.dirQueue ∧ u.pool.freeCount = t.pool.freeCount
      ∧ u.pool.stranded = t.pool.stranded := by
  intro u t
  have ended : (s.endPage r f).directory = t.directory := by
    simp only [State.endPage, open_, if_pos reads]
    rfl
  exact finishRoute_pages ended.symm

theorem drops_iff (x : Route) (f : Fate) : x.drops f = true ↔ x.dropAfter = true ∧ f.outcome = .done := by
  simp [Route.drops]

/-- Settles O27: the end of a route is its page's, its bindings', its blocks' and its record's, then availability,
the ENDED report and the return to DOZE; fixing an outcome stops the flows first. -/
theorem routeEndsInOneEvent : Obligations.RouteEndsInOneEvent := by
  unfold Obligations.RouteEndsInOneEvent
  refine ⟨release_eq, fun s r f => ?fix, fun s r => ?outcomes, fun s r => ?flows, fun s kind => ?orphan,
    fun s r f => ?finish, fun s r f fate => ?deferred⟩
  case fix =>
    intro x stopped fixed held
    refine ⟨fun dead => ?_, fun live fits => ?_, fun live full => ?_, fun c close => ?_, fun close => ?_⟩
    · have not_live : ¬x.live = true := by simp [dead]
      exact if_neg not_live
    · exact (if_pos live).trans (if_pos fits)
    · refine (if_pos live).trans ((if_neg (Nat.not_le.2 full)).trans ?_)
      have state : (fixed.route r).state = x.state := by
        obtain ⟨burst, orphan⟩ := orphanBurst_eq (s.stopFlows r) x.kind
        have stopped_route : stopped.route r = x := by
          simp only [stopped, orphan]
          exact stopFlows_route s r r
        simp only [fixed, route_setRoute_same, stopped_route]
      by_cases halting : x.state = .halting
      · rw [if_pos halting, if_pos halting]
        simp only [held, ← halting, ← state]
        rfl
      · rw [if_neg halting, if_neg halting]
        simp only [held, fixed, State.routeTo, setRoute_setRoute, route_setRoute_same]
        rfl
    · simp [State.lastEnd, close, x]
    · simp [State.lastEnd, close, x]
  case outcomes =>
    refine ⟨fun cause => rfl, rfl, fun unterminated close going => if_neg going, fun none_open => ?_, fun p open_ => ?_⟩
    · simp [State.abruptClose, none_open]
    · simp only [State.abruptClose, open_]
      cases (s.route r).kind with
      | none => rfl
      | some k => cases k <;> rfl
  case flows =>
    exact stopFlows_cases s r
  case orphan =>
    refine ⟨fun b k burst kind => ⟨ofKind_iff b.kind k, ?_⟩, fun none_kept => ?_⟩
    · simp only [State.orphanBurst, burst, kind]
      by_cases own : b.kind.ofKind k = true
      · simp [own]
      · simp [own, ← burst]
    · unfold State.orphanBurst
      rcases none_kept with none_ | none_ <;> simp [none_]
  case finish =>
    intro u x last counts
    have released := finishRoute_released s r f
    obtain ⟨scan, copy, still, prints, decodes, lines, hosts, sends⟩ := released
    refine ⟨finishRoute_route s r f, ⟨scan, copy, still, fun uses => ?_, decodes, lines, hosts, sends⟩,
      finishRoute_reports s r f, fun none_open => ?_, fun p open_ => ?_, finishRoute_engines s r f, fun t => ?_,
      fun t => ?_⟩
    · have ring := prints uses
      exact ⟨(congrArg Head.ready ring :), (congrArg Head.capturing ring :), (congrArg Head.nextSlot ring :),
        (congrArg Head.history ring :), (congrArg Head.current ring :), (congrArg Head.burn ring :),
        (congrArg Head.capacity ring :), (congrArg Head.cutOff ring :)⟩
    · have ended : s.endPage r f = s := by
        change (s.route r).page = none at none_open
        simp only [State.endPage, none_open]
      obtain ⟨pages, queue, -⟩ := finishRoute_pages (congrArg State.directory ended).symm
      exact ⟨pages, queue⟩
    · intro e image link drops
      change (s.route r).page = some p at open_
      cases reads : (s.route r).isReader with
      | false =>
        obtain ⟨closes, stays⟩ := finishRoute_written (f := f) open_ reads
        refine ⟨fun q ne => ?_, fun _ => ⟨fun c close => ?_, fun close => ?_⟩, ?_⟩
        · cases close : f.close with
          | none => exact congrArg (fun v : Vector PageEntry 32 => v[q]) (stays close).1
          | some c => exact (page_of_pages (closes c close).1).2 q ne
        · exact ⟨(page_of_pages (closes c close).1).1, (closes c close).2⟩
        · exact ⟨congrArg (fun v : Vector PageEntry 32 => v[p]) (stays close).1, (stays close).2⟩
        · exact fun reads' => absurd reads' Bool.false_ne_true
      | true =>
        obtain ⟨pages, queue, free, stranded⟩ := finishRoute_read (f := f) open_ reads
        obtain ⟨leaves, drops', frees⟩ := leavePage_directory s p ((s.route r).drops f)
        refine ⟨fun q ne => ?_, fun writes => absurd writes.symm Bool.false_ne_true,
          fun _ => ⟨fun few ends => ?_, fun others kept ends => ?_, fun stays => ?_⟩⟩
        · cases act : readerEnd (s.page p) ((s.route r).drops f) with
          | leave => exact (page_of_pages (pages.trans (leaves act).1)).2 q ne
          | drop => exact (page_of_pages (pages.trans (drops' act).1)).2 q ne
          | free => exact (page_of_pages (pages.trans (frees act).1)).2 q ne
        · have act := readerEnd_free few (ends.imp_right (drops_iff _ f).2)
          obtain ⟨pages', queue', free', stranded'⟩ := frees act
          exact ⟨(page_of_pages (pages.trans pages')).1, queue.trans queue',
            fun service => free.trans (free' service), fun out => stranded.trans (stranded' out)⟩
        · have act := readerEnd_drop others kept ((drops_iff _ f).2 ends)
          obtain ⟨pages', queue'⟩ := drops' act
          exact ⟨(page_of_pages (pages.trans pages')).1, queue.trans queue'⟩
        · have act := readerEnd_leave (stays.imp_right (And.imp_right fun no =>
            Bool.eq_false_iff.2 fun done => no ((drops_iff _ f).1 done)))
          obtain ⟨pages', books⟩ := leaves act
          exact ⟨(page_of_pages (pages.trans pages')).1, queue.trans (congrArg Pool.dirQueue books :)⟩
    · rw [show u.table t = _ from finishRoute_table s r f t]
    · rw [show u.table t = _ from finishRoute_table s r f t]
  case deferred =>
    refine ⟨fun fits => ?_, fun full => ?_⟩
    · simp [exec, execRouteEndDeferred, fate, fits]
    · simp [exec, execRouteEndDeferred, fate, full]

end Sys2Proof.Machine
end

section
/-! PROOF. ROUTE HALT in both modes (R73 to R75). -/

namespace Sys2Proof.Machine

/-! ## ROUTE HALT is taken (R73) -/

theorem takeHalt_outside (s : State) {slot : Byte} (mode : Byte) (head : s.atHead = true) (outside : 3 < slot.toNat) :
    s.takeHalt slot mode = s.putReport (.refused .routeHalt .badField (number slot.toNat)) false := by
  have none_ : asFin 4 slot.toNat = none := asFin_eq_none outside
  simp only [State.takeHalt, none_]
  exact refuse_atHead s _ _ _ head

theorem takeHalt_idle {s : State} {slot mode : Byte} {r : RouteNo} (head : s.atHead = true)
    (named : asFin 4 slot.toNat = some r) (mode_ok : mode.toNat ≤ 1) (idle : (s.route r).state = .idle) :
    s.takeHalt slot mode = s.putReport (.refused .routeHalt .noRoute (number slot.toNat)) false := by
  have unused : (s.route r).inUse = false := by simp [Route.inUse, idle]
  simp only [State.takeHalt, named, if_neg (Nat.not_lt.2 mode_ok), if_pos unused]
  exact refuse_atHead s _ _ _ head

theorem takeHalt_inUse {s : State} {slot : Byte} {r : RouteNo} (named : asFin 4 slot.toNat = some r)
    (used : (s.route r).inUse = true) :
    s.takeHalt slot 0 = s.haltFinish r ∧ s.takeHalt slot 1 = s.haltNow r := by
  simp [State.takeHalt, named, used]

theorem inUse_iff (x : Route) : x.inUse = true ↔ x.state ≠ .idle := by simp [Route.inUse]

theorem exec_haltFinish {s : State} (slot : Byte) (head : s.atHead = true) :
    exec (.routeHaltFinish slot) s = .next (s.takeHalt slot 0) :=
  congrArg Host.Outcome.next (order_atHead s _ _ _ _ head)

theorem exec_haltNow {s : State} (slot : Byte) (head : s.atHead = true) :
    exec (.routeHaltNow slot) s = .next (s.takeHalt slot 1) :=
  congrArg Host.Outcome.next (order_atHead s _ _ _ _ head)

/-! ## FINISH (R74, R96) -/

/-- A route goes HALTING at RUN: its state and its report. -/
theorem routeTo_halting {s : State} (r : RouteNo) (x : Route) (run : s.power.level = some .run) :
    (s.setRoute r x).routeTo r .halting
      = (s.setRoute r { x with state := .halting }).putReport (.routeHalting r) false := by
  simp only [State.routeTo, route_setRoute_same, setRoute_setRoute]
  exact queueReport_run _ _ run

/-- ROUTE HALT FINISH by its slot's state (R73). -/
theorem haltFinish_taken {s : State} {slot : Byte} (head : s.atHead = true) {r : RouteNo}
    (named : asFin 4 slot.toNat = some r) :
    ((s.route r).state = .armed → exec (.routeHaltFinish slot) s = .next (s.haltRoute r).react)
    ∧ (((s.route r).state = .running ∨ (s.route r).state = .stalled) →
      exec (.routeHaltFinish slot) s = .next
        ((((s.setRoute r { s.route r with halt := .finish, state := .halting }).putReport
          (.routeHalting r) false).finishKind r).react))
    ∧ ((s.route r).state = .halting → exec (.routeHaltFinish slot) s = .next s)
    ∧ ((s.route r).state = .idle →
      exec (.routeHaltFinish slot) s = .next
        (s.putReport (.refused .routeHalt .noRoute (number slot.toNat)) false)) := by
  have run := ((atHead_iff s).1 head).2.1
  rw [exec_haltFinish slot head]
  have taken (used : (s.route r).state ≠ .idle) : s.takeHalt slot 0 = s.haltFinish r :=
    (takeHalt_inUse named ((inUse_iff _).2 used)).1
  have going := routeTo_halting r { s.route r with halt := .finish } run
  refine ⟨fun armed => ?_, fun live => ?_, fun halting => ?_, fun idle => ?_⟩
  · rw [taken (by simp [armed])]
    simp [State.haltFinish, armed]
  · rw [taken (by rcases live with live | live <;> simp [live])]
    rw [← going]
    rcases live with live | live <;> simp only [State.haltFinish, live]
  · rw [taken (by simp [halting])]
    simp [State.haltFinish, halting]
  · rw [takeHalt_idle head named (by decide) idle]

/-- FINISH on the feed, by its phase (R96). -/
theorem finishFeed_cases (s : State) (r : RouteNo) :
    (s.scanner.phase = .feedIn → s.finishFeed r = s.setMotor .sf { s.sf with left := 0 })
    ∧ (s.scanner.phase = .lead → s.sf.state = .moving →
      s.finishFeed r
        = { s with scanner := { s.scanner with phase := .eject, lastLine := true } }.setMotor .sf
            { s.sf with motion := .move .eject, left := (s.route r).eject, overrun := false })
    ∧ (s.scanner.phase = .lead ∨ s.scanner.phase = .capture ∨ s.scanner.phase = .trail →
      s.sf.state ≠ .moving → s.finishFeed r = s.beginEject r)
    ∧ (s.scanner.phase = .capture ∨ s.scanner.phase = .trail → s.sf.state = .moving →
      s.finishFeed r = s)
    ∧ (s.scanner.phase = .none ∨ s.scanner.phase = .eject → s.finishFeed r = s) := by
  refine ⟨fun feed => ?_, fun lead moving => ?_, fun phase still => ?_, fun phase moving => ?_, fun phase => ?_⟩
  · simp only [State.finishFeed, feed]
  · simp only [State.finishFeed, lead, if_pos moving]
    rfl
  · rcases phase with phase | phase | phase <;> simp only [State.finishFeed, phase, if_neg still]
  · rcases phase with phase | phase <;> simp only [State.finishFeed, phase, if_pos moving]
  · rcases phase with phase | phase <;> simp only [State.finishFeed, phase]

/-- FINISH on a route at work, by its kind (R74, R144). -/
theorem finishKind_cases (s : State) (r : RouteNo) :
    ((s.route r).kind = some .scanStore →
      s.finishKind r
        = { s with coder :=
            { s.coder with writer := { s.coder.writer with opening := false } } }.finishFeed r)
    ∧ ((s.route r).kind = some .copy → s.finishKind r = s.finishFeed r)
    ∧ ((s.route r).kind = some .printPage →
      s.finishKind r
        = { s with printDec := { s.printDec with fetch := Fetch.idle, held := none, told := true } })
    ∧ ((s.route r).kind = some .lineSend →
      (s.line.txFifo = [] → s.finishKind r = s.completeRoute r false none)
      ∧ (s.line.txFifo ≠ [] →
        s.finishKind r = { s with line := { s.line with fetch := Fetch.idle, tx := .sending } }))
    ∧ ((s.route r).kind = some .pageHost →
      (s.dataUnderWay r = none → s.finishKind r = s.completeRoute r false none)
      ∧ ∀ left, s.dataUnderWay r = some left → s.finishKind r = { s with hostOut := s.hostOut.finish left })
    ∧ ((s.route r).kind = some .lineReceive ∨ (s.route r).kind = some .hostStore →
      s.finishKind r = s) := by
  refine ⟨fun kind => ?_, fun kind => ?_, fun kind => ?_, fun kind => ⟨fun sent => ?_, fun unsent => ?_⟩,
    fun kind => ⟨fun idle => ?_, fun left under_way => ?_⟩, fun kind => ?_⟩
  · simp only [State.finishKind, kind]
  · simp only [State.finishKind, kind]
  · simp only [State.finishKind, kind]
  · simp [State.finishKind, kind, sent]
  · simp [State.finishKind, kind, unsent, State.setLine]
  · simp only [State.finishKind, kind, idle]
  · simp only [State.finishKind, kind, under_way]
  · rcases kind with kind | kind <;> simp only [State.finishKind, kind]

/-- Settles O28: ROUTE HALT FINISH by its slot's state, then FINISH by the route's kind and the feed's phase. -/
theorem haltFinishBringsARouteToItsEnd : Obligations.HaltFinishBringsARouteToItsEnd := by
  unfold Obligations.HaltFinishBringsARouteToItsEnd
  refine ⟨fun slot s head => ⟨fun r named => haltFinish_taken head named, fun outside => ?_⟩, fun s r => ?_⟩
  · rw [exec_haltFinish slot head, takeHalt_outside s 0 head outside]
  · obtain ⟨scan, copy, print, line_send, page_host, others⟩ := finishKind_cases s r
    obtain ⟨feed, lead, still, moving, past⟩ := finishFeed_cases s r
    exact ⟨scan, copy, print, line_send, page_host, others, feed, lead, still, moving, past,
      fun unterminated close finish => if_pos finish⟩

/-! ## NOW (R75, R127) -/

/-- A motor at rest: no motion, no step under way. -/
def Motor.Still (m : Motor) : Prop := m.state = .idle ∧ m.motion = .none ∧ m.timer = none

theorem haltMotor_eq (s : State) (m : MotorName) :
    ∃ mo, s.haltMotor m = s.setMotor m mo ∧ mo.Still := ⟨_, rfl, rfl, rfl, rfl⟩

/-- A motor that stands runs down to a rest. -/
theorem runDown_still {s : State} {m : MotorName} (still : (s.motor m).Still) :
    ∃ mo, s.runDown m = s.setMotor m mo ∧ mo.Still := by
  obtain ⟨idle, -, timer⟩ := still
  exact ⟨_, (runDown_cases s m).1 (by simp [idle]), rfl, rfl, timer⟩

theorem runDown_motor (s : State) (m : MotorName) : ∃ mo, s.runDown m = s.setMotor m mo := by
  unfold State.runDown State.restMotor State.stepEvent
  dsimp only
  repeat' split
  all_goals cases m <;> exact ⟨_, rfl⟩

/-- A printing route's motors, rings and decoder after its flows have stopped at once. -/
theorem stopNow_stopFlows {s : State} {r : RouteNo} (prints : (s.route r).usesPrinter = true) :
    ∃ pf sf scanner printDec,
      (s.stopNow r).stopFlows r
        = { s with head := s.head.clearRing, pf := pf, sf := sf, scanner := scanner, printDec := printDec }
      ∧ pf.Still
      ∧ ((s.route r).kind = some .printPage → printDec = { PrintDecoder.idleDecoder with slot := some r }) := by
  obtain ⟨pf, halted, still⟩ := haltMotor_eq s .pf
  rcases (usesPrinter_iff _).1 prints with kind | kind
  · obtain ⟨sf, halted_sf, -⟩ := haltMotor_eq (s.setMotor .pf pf) .sf
    have stopped : s.stopNow r = { s with pf := pf, sf := sf } := by
      simp only [State.stopNow, Route.usesPrinter, Route.usesScanner, kind, Option.map_some, Option.getD_some,
        RouteKind.usesPrinter, RouteKind.usesScanner, if_true, halted, halted_sf]
      rfl
    let ring : Scanner := { s.scanner.emptyRing with phase := .none }
    obtain ⟨pf', down, still'⟩ :=
      runDown_still (s := { s with head := s.head.clearRing, pf := pf, sf := sf }) (m := .pf) still
    obtain ⟨sf', down_sf⟩ :=
      runDown_motor { s with head := s.head.clearRing, pf := pf', sf := sf, scanner := ring } .sf
    refine ⟨pf', sf', ring, s.printDec, ?_, still', fun prints => ?_⟩
    · obtain ⟨-, copies, -⟩ := stopFlows_cases (s.stopNow r) r
      rw [copies (by rw [stopped]; exact kind), stopped]
      exact (congrArg (fun t : State => { t with scanner := ring }.runDown .sf) down).trans down_sf
    · exact absurd (kind.symm.trans prints) (by decide)
  · have stopped : s.stopNow r = { s with pf := pf } := by
      simp only [State.stopNow, Route.usesPrinter, Route.usesScanner, kind, Option.map_some, Option.getD_some,
        RouteKind.usesPrinter, RouteKind.usesScanner, if_true, halted, Bool.false_eq_true, if_false]
      rfl
    obtain ⟨pf', down, still'⟩ :=
      runDown_still (s := { s with head := s.head.clearRing, pf := pf }) (m := .pf) still
    refine ⟨pf', s.sf, s.scanner, { PrintDecoder.idleDecoder with slot := some r }, ?_, still', fun _ => rfl⟩
    obtain ⟨-, -, pages, -⟩ := stopFlows_cases (s.stopNow r) r
    rw [pages (by rw [stopped]; exact kind), stopped]
    exact congrArg (fun t : State => { t with printDec := { PrintDecoder.idleDecoder with slot := some r } }) down

/-- A printing route at work that is halted NOW while the cutter is under way waits on it (R75). -/
def State.waitOnCut (s : State) (r : RouteNo) : State :=
  let t := (s.stopNow r).stopFlows r
  let u := t.setRoute r { t.route r with halt := .nowWaiting }
  if (s.route r).state = .halting then u else u.routeTo r .halting

theorem stopNow_cutter (s : State) (r : RouteNo) : (s.stopNow r).cutter = s.cutter := by
  unfold State.stopNow
  dsimp only
  split <;> split <;> rfl

theorem haltNow_waits {s : State} {r : RouteNo} (live : (s.route r).live = true)
    (open_ : (s.route r).halt ≠ .nowWaiting)
    (going : (s.route r).state ≠ .armed) (prints : (s.route r).usesPrinter = true)
    (cutting : s.cutter.cutting = true) : s.haltNow r = (s.waitOnCut r).react := by
  have cutter := stopNow_cutter s r
  simp [State.haltNow, live, open_, going, prints, cutter, cutting]
  rfl

/-- What a route that waits on a cut leaves and stops (R72, R75, R97, R109, R127). -/
theorem waitOnCut_spec {s : State} {r : RouteNo} (run : s.power.level = some .run)
    (prints : (s.route r).usesPrinter = true) :
    let u := s.waitOnCut r
    u.route r = { s.route r with halt := .nowWaiting, state := .halting }
    ∧ u.cutter = s.cutter ∧ u.engines = s.engines ∧ u.pages = s.pages ∧ u.pool = s.pool
    ∧ u.store = s.store ∧ u.power = s.power
    ∧ ((s.route r).kind = some .printPage → u.printDec = { PrintDecoder.idleDecoder with slot := some r })
    ∧ u.head = s.head.clearRing ∧ (u.motor .pf).Still := by
  intro u
  obtain ⟨pf, sf, scanner, printDec, stopped, still, decoder⟩ := stopNow_stopFlows prints
  have u_eq : u = s.waitOnCut r := rfl
  unfold State.waitOnCut at u_eq
  rw [stopped] at u_eq
  dsimp only at u_eq
  split at u_eq
  · rename_i halting
    rw [u_eq]
    refine ⟨?_, rfl, rfl, rfl, rfl, rfl, rfl, decoder, rfl, still⟩
    rw [route_setRoute_same, ← halting]
    rfl
  · rw [routeTo_halting r _ (by exact run)] at u_eq
    rw [u_eq]
    exact ⟨route_setRoute_same _ _ _, rfl, rfl, rfl, rfl, rfl, rfl, decoder, rfl, still⟩

/-- ROUTE HALT NOW by its slot's state (R73, R75). -/
theorem haltNow_taken {s : State} {slot : Byte} {r : RouteNo} (head : s.atHead = true)
    (named : asFin 4 slot.toNat = some r) :
    let x := s.route r
    (x.live = true → x.halt ≠ .nowWaiting → x.state = .armed → s.takeHalt slot 1 = (s.haltRoute r).react)
    ∧ (x.live = true → x.halt ≠ .nowWaiting → x.state ≠ .armed →
      (x.usesPrinter && s.cutter.cutting) = false →
      s.takeHalt slot 1 = ((s.stopNow r).haltRoute r).react)
    ∧ (x.live = true → x.halt ≠ .nowWaiting → x.state ≠ .armed → x.usesPrinter = true →
      s.cutter.cutting = true →
      s.takeHalt slot 1 = (s.waitOnCut r).react)
    ∧ (x.halt = .nowWaiting → x.inUse = true → s.takeHalt slot 1 = s)
    ∧ (x.inUse = true → x.fate ≠ none → s.takeHalt slot 1 = s)
    ∧ (x.state = .idle →
      s.takeHalt slot 1 = s.putReport (.refused .routeHalt .noRoute (number slot.toNat)) false) := by
  intro x
  have taken (used : x.inUse = true) : s.takeHalt slot 1 = s.haltNow r := (takeHalt_inUse named used).2
  have used_of_live (live : x.live = true) : x.inUse = true := (Bool.and_eq_true_iff.1 live).1
  refine ⟨fun live open_ armed => ?_, fun live open_ going alone => ?_, fun live open_ going prints cutting => ?_,
    fun waits used => ?_, fun used fixed => ?_, fun idle => takeHalt_idle head named (by decide) idle⟩
  · rw [taken (used_of_live live)]
    simp [State.haltNow, show (s.route r).live = true from live, show (s.route r).halt ≠ .nowWaiting from open_,
      show (s.route r).state = .armed from armed]
  · rw [taken (used_of_live live)]
    have no_wait : ¬((s.route r).usesPrinter = true ∧ (s.stopNow r).cutter.cutting = true) := by
      rw [stopNow_cutter]
      simpa [x] using alone
    simp [State.haltNow, show (s.route r).live = true from live, show (s.route r).halt ≠ .nowWaiting from open_,
      show (s.route r).state ≠ .armed from going, no_wait]
  · rw [taken (used_of_live live)]
    exact haltNow_waits live open_ going prints cutting
  · rw [taken used]
    simp [State.haltNow, show (s.route r).halt = .nowWaiting from waits]
  · rw [taken used]
    have dead : (s.route r).live = false := by
      cases fate : (s.route r).fate with
      | none => exact absurd fate fixed
      | some f => simp [Route.live, fate]
    simp [State.haltNow, dead]

theorem stopFlows_engines (s : State) (r : RouteNo) : (s.stopFlows r).engines = s.engines := by
  have down (t : State) (m : MotorName) : (t.runDown m).engines = t.engines := by
    obtain ⟨pf, sf, eq⟩ := runDown_eq t m
    rw [eq]
  unfold State.stopFlows
  dsimp only
  split <;> split <;> split <;> simp only [down]

theorem inUse_setRoute {s : State} {r : RouteNo} {x : Route} (use : x.inUse = (s.route r).inUse) (i : RouteNo) :
    ((s.setRoute r x).route i).inUse = (s.route i).inUse := by
  by_cases same : i = r
  · rw [same, route_setRoute_same, use]
  · rw [route_setRoute_other s x same]

theorem dirPlaces_setRoute {s : State} {r : RouteNo} {x : Route} (use : x.inUse = (s.route r).inUse) :
    (s.setRoute r x).dirPlaces = s.dirPlaces := by
  have used : (s.setRoute r x).routesInUse = s.routesInUse := by
    simp only [State.routesInUse, inUse_setRoute use]
  have held : (s.setRoute r x).producersHeld = s.producersHeld := by
    unfold State.producersHeld
    rw [used]
    rfl
  unfold State.dirPlaces
  rw [held]
  rfl

/-- A route halted with the places at hand has ended HALTED (R71, R73). -/
theorem haltRoute_ends {s : State} {r : RouteNo} (live : (s.route r).live = true)
    (fits :
      let stopped := (s.stopFlows r).orphanBurst (s.route r).kind
      stopped.endNeed r { outcome := .halted, cause := none, unterminated := false, close := s.abruptClose r }
        ≤ stopped.dirPlaces) :
    ((s.haltRoute r).route r).state = .idle ∧ ((s.haltRoute r).route r).outcome = some .halted
      ∧ ((s.haltRoute r).route r).cause = none ∧ (s.haltRoute r).engines = s.engines.release r := by
  let f : Fate := { outcome := .halted, cause := none, unterminated := false, close := s.abruptClose r }
  let stopped := (s.stopFlows r).orphanBurst (s.route r).kind
  let fixed := stopped.setRoute r { stopped.route r with lastLineEnd := s.lastEnd r f }
  have need : fixed.endNeed r f = stopped.endNeed r f := by
    unfold State.endNeed
    simp only [fixed, route_setRoute_same]
    rfl
  have ended : s.haltRoute r = fixed.finishRoute r f := by
    have fits' : fixed.endNeed r f ≤ fixed.dirPlaces := by
      have places : fixed.dirPlaces = stopped.dirPlaces := dirPlaces_setRoute rfl
      rw [need, places]
      exact fits
    exact (if_pos live).trans (if_pos fits')
  have engines : fixed.engines = s.engines := by
    obtain ⟨burst, orphan⟩ := orphanBurst_eq (s.stopFlows r) (s.route r).kind
    simp only [fixed, stopped, orphan]
    exact stopFlows_engines s r
  rw [ended, finishRoute_route, finishRoute_engines, engines]
  exact ⟨rfl, rfl, rfl, rfl⟩

/-- Settles O29: ROUTE HALT NOW by its slot's state; a route at work on a print waits for a cut under way. -/
theorem haltNowEndsARouteAtOnce : Obligations.HaltNowEndsARouteAtOnce := by
  unfold Obligations.HaltNowEndsARouteAtOnce
  refine ⟨fun slot s r head named => ?_, fun slot s head outside => ?_,
    fun s r f live close outcome cause ended fits => ?_⟩
  · rw [exec_haltNow slot head]
    obtain ⟨armed, alone, waits, waiting, fixed, idle⟩ := haltNow_taken head named
    refine ⟨fun a b c => congrArg _ (armed a b c), fun a b c d => congrArg _ (alone a b c d),
      fun live open_ going prints cutting => ?_, fun a b => congrArg _ (waiting a b),
      fun a b => congrArg _ (fixed a b), fun a => congrArg _ (idle a)⟩
    have run := ((atHead_iff s).1 head).2.1
    obtain ⟨route, cutter, engines, pages, pool, store, power, decoder, ring, still⟩ := waitOnCut_spec run prints
    refine ⟨s.waitOnCut r, congrArg _ (waits live open_ going prints cutting), route, cutter, engines, pages, pool,
      store, power, fun claims level request => ?_, decoder, ?_, ?_, ?_, still⟩
    · simp [State.endStutter, State.printing, power, engines, claims, level, request, route]
    all_goals rw [ring]; rfl
  · rw [exec_haltNow slot head, takeHalt_outside s 1 head outside]
  · obtain ⟨_, _, _, _⟩ := f
    subst outcome cause ended close
    exact haltRoute_ends live fits

end Sys2Proof.Machine
end

section
/-! PROOF. DATA and the HOST-IN queue (R68, R74); MOVE and CUT (R124, R132). -/

namespace Sys2Proof.Machine

/-! ## Bytes into the HOST-IN queue (R68) -/

/-- The bytes of a word, its high one first. -/
def wordBytes (w : Word) : List Byte := [highByte w, lowByte w]

theorem wordBytes_wordOfBytes (high low : Byte) : wordBytes (wordOfBytes high low) = [high, low] := by
  have high_eq : highByte (wordOfBytes high low) = high := by
    apply BitVec.eq_of_toNat_eq
    simp [highByte, wordOfBytes]
    omega
  have low_eq : lowByte (wordOfBytes high low) = low := by
    apply BitVec.eq_of_toNat_eq
    simp [lowByte, wordOfBytes]
    omega
  rw [wordBytes, high_eq, low_eq]

/-- The bytes HOST-IN holds: those of its queue, then the half word that waits. -/
def HostIn.bytes (h : HostIn) : List Byte := h.queue.flatMap wordBytes ++ h.half.toList

/-- HOST-IN with one byte more, where its queue has room. -/
def HostIn.add (h : HostIn) (b : Byte) : HostIn :=
  match h.half with
  | none => { h with half := some b, taken := h.taken + 1 }
  | some high => { h with half := none, queue := h.queue ++ [wordOfBytes high b], taken := h.taken + 1 }

theorem HostIn.add_bytes (h : HostIn) (b : Byte) : (h.add b).bytes = h.bytes ++ [b] := by
  unfold HostIn.add HostIn.bytes
  cases half : h.half with
  | none => simp
  | some high => simp [wordBytes_wordOfBytes]

/-- Whole words and the half that a number of bytes comes to with a queue. -/
theorem HostIn.add_load (h : HostIn) (b : Byte) (n : Nat) :
    (h.add b).queue.length + ((h.add b).half.toList.length + n) / 2
      = h.queue.length + (h.half.toList.length + (n + 1)) / 2 := by
  unfold HostIn.add
  cases half : h.half with
  | none => simp; omega
  | some high => simp; omega

theorem HostIn.add_slot (h : HostIn) (b : Byte) : (h.add b).slot = h.slot := by
  unfold HostIn.add; split <;> rfl

/-- A byte with room joins HOST-IN (R68). -/
theorem placeByte_room {s : State} {r : RouteNo} (b : Byte) (slot : s.hostIn.slot = some r)
    (live : (s.route r).live = true) (room : s.hostIn.queue.length + (s.hostIn.half.toList.length + 1) / 2 ≤ 64) :
    s.placeByte r b = some { s with hostIn := s.hostIn.add b } := by
  have own : ¬(s.hostIn.slot ≠ some r ∨ (s.route r).live = false) := by simp [slot, live]
  unfold State.placeByte HostIn.add
  dsimp only
  rw [if_neg own]
  cases half : s.hostIn.half with
  | none => rfl
  | some high =>
    have below : s.hostIn.queue.length < Config.hostInCap := by
      simp [half] at room
      exact room
    exact if_pos below

/-- Bytes with room for all of them join HOST-IN in order (R68). -/
theorem placeBytes_room (bytes : List Byte) (s : State) {r : RouteNo} (slot : s.hostIn.slot = some r)
    (live : (s.route r).live = true)
    (room : s.hostIn.queue.length + (s.hostIn.half.toList.length + bytes.length) / 2 ≤ 64) :
    bytes.foldlM (fun (u : State) b => u.placeByte r b) s
      = some { s with hostIn := bytes.foldl HostIn.add s.hostIn } := by
  induction bytes generalizing s with
  | nil => rfl
  | cons b rest ih =>
    rw [List.length_cons] at room
    rw [List.foldlM_cons, placeByte_room b slot live (by omega), Option.bind_eq_bind, Option.bind_some]
    exact ih _ (s.hostIn.add_slot b ▸ slot) live (s.hostIn.add_load b _ ▸ room)

/-- What a run of bytes leaves of HOST-IN, and adds to it. -/
theorem HostIn.foldl_add (bytes : List Byte) (h : HostIn) :
    let h' := bytes.foldl HostIn.add h
    h'.bytes = h.bytes ++ bytes ∧ h'.taken = h.taken + bytes.length ∧ h'.slot = h.slot
      ∧ h'.finalTaken = h.finalTaken ∧ h'.finalPlaced = h.finalPlaced ∧ h'.lineCount = h.lineCount := by
  induction bytes generalizing h with
  | nil => simp
  | cons b rest ih =>
    obtain ⟨joined, taken, slot, final, placed, lines⟩ := ih (h.add b)
    have kept : (h.add b).taken = h.taken + 1 ∧ (h.add b).finalTaken = h.finalTaken
        ∧ (h.add b).finalPlaced = h.finalPlaced ∧ (h.add b).lineCount = h.lineCount := by
      unfold HostIn.add; split <;> exact ⟨rfl, rfl, rfl, rfl⟩
    obtain ⟨taken', final', placed', lines'⟩ := kept
    refine ⟨?_, ?_, slot.trans (h.add_slot b), final.trans final', placed.trans placed', lines.trans lines'⟩
    · rw [List.foldl_cons, joined, HostIn.add_bytes]; simp
    · rw [List.foldl_cons, taken, taken', List.length_cons]; omega

/-! ## DATA's tests and its bytes (R68) -/

theorem dataRefusal_eq (s : State) (slot flags : Byte) (n : Nat) {r : RouteNo} (named : asFin 4 slot.toNat = some r) :
    s.dataRefusal slot flags n =
      if n = 0 ∨ 1024 < n ∨ (flags.getLsbD 1 = true ∧ flags.getLsbD 0 = false) ∨ 3 < flags.toNat then
        some .badField
      else if (s.route r).kind ≠ some .hostStore ∨ (s.route r).fate ≠ none
          ∨ ((s.route r).state ≠ .running ∧ (s.route r).state ≠ .stalled) ∨ s.hostIn.finalTaken = true then
        some .noRoute
      else none := by
  have form : (n == 0 || decide (1024 < n) || (flags.getLsbD 1 && !flags.getLsbD 0) || decide (3 < flags.toNat)) = true
      ↔ n = 0 ∨ 1024 < n ∨ (flags.getLsbD 1 = true ∧ flags.getLsbD 0 = false) ∨ 3 < flags.toNat := by
    simp [or_assoc]
  have open_ : (!((s.route r).isKind .hostStore && (s.route r).fate.isNone
        && ((s.route r).state == .running || (s.route r).state == .stalled)) || s.hostIn.finalTaken) = true
      ↔ (s.route r).kind ≠ some .hostStore ∨ (s.route r).fate ≠ none
          ∨ ((s.route r).state ≠ .running ∧ (s.route r).state ≠ .stalled) ∨ s.hostIn.finalTaken = true := by
    simp only [Route.isKind, Bool.or_eq_true, Bool.not_eq_true', Bool.and_eq_false_iff, beq_eq_false_iff_ne,
      Option.isNone_eq_false_iff, Option.isSome_iff_ne_none, Bool.or_eq_false_iff, or_assoc]
  simp only [State.dataRefusal, named, firstRefusal_cons, firstRefusal_nil, form, open_]

/-- A route that DATA is accepted for is live (R68). -/
theorem live_of_dataRefusal {s : State} {slot flags : Byte} {n : Nat} {r : RouteNo}
    (named : asFin 4 slot.toNat = some r) (accepted : s.dataRefusal slot flags n = none) :
    (s.route r).live = true ∧ n ≤ 1024 := by
  rw [dataRefusal_eq s slot flags n named] at accepted
  split at accepted
  · cases accepted
  · rename_i form
    split at accepted
    · cases accepted
    · rename_i open_
      have fate : (s.route r).fate = none := by
        by_contra some_fate
        exact open_ (.inr (.inl some_fate))
      have used : (s.route r).state ≠ .idle := by
        intro idle
        exact open_ (.inr (.inr (.inl (by simp [idle]))))
      exact ⟨by simp [Route.live, Route.inUse, fate, used], by omega⟩

/-- HOST-IN once a DATA with its bytes is taken (R68). -/
def HostIn.dataTaken (h : HostIn) (flags : Byte) (lines : Word) (bytes : List Byte) : HostIn :=
  let final := flags.getLsbD 0
  let t := bytes.foldl HostIn.add
    { h with finalTaken := final, lineCount := if final && flags.getLsbD 1 then some lines.toNat else none }
  { t with
    finalPlaced := t.finalPlaced || final, writer := t.writer.addEnd { pos := 8 * t.taken, lines := 0, bad := 0 } }

theorem exec_data {s : State} {slot flags : Byte} {bytes : List Byte} {r : RouteNo} (lines : Word)
    (head : s.atHead = true) (named : asFin 4 slot.toNat = some r)
    (accepted : s.dataRefusal slot flags bytes.length = none) (own : s.hostIn.slot = some r)
    (room : s.hostIn.queue.length + (s.hostIn.half.toList.length + bytes.length) / 2 ≤ 64) :
    exec (.data slot flags lines bytes) s
      = .next ({ s with hostIn := s.hostIn.dataTaken flags lines bytes } : State).react := by
  obtain ⟨live, short⟩ := live_of_dataRefusal named accepted
  let final := flags.getLsbD 0
  let t : State := { s with hostIn :=
    { s.hostIn with
      finalTaken := final, lineCount := if final && flags.getLsbD 1 then some lines.toNat else none } }
  have taken : s.takeData slot flags lines bytes.length = (t, some r) := by
    simp only [State.takeData, accepted, named]
    rfl
  have placed := placeBytes_room bytes t own live room
  obtain ⟨-, -, slot', -⟩ := HostIn.foldl_add bytes t.hostIn
  have whole : s.dataWhole slot flags lines bytes
      = some (({ t with hostIn := bytes.foldl HostIn.add t.hostIn } : State).placedOrder r final).react := by
    simp only [State.dataWhole, taken, placed, Option.map_some, if_neg (show ¬1036 < bytes.length by omega)]
    rfl
  have ends : ({ t with hostIn := bytes.foldl HostIn.add t.hostIn } : State).placedOrder r final
      = { s with hostIn := s.hostIn.dataTaken flags lines bytes } := if_pos (slot'.trans own)
  change Host.Outcome.next (s.order _ _ _ (s.dataWhole slot flags lines bytes)) = _
  rw [whole, order_atHead s _ _ _ _ head, ends]

/-! ## The HOST-IN queue written out (R68, R74) -/

theorem hostFlushing_iff {s : State} {r : RouteNo} (own : s.hostIn.slot = some r) :
    s.hostFlushing = true ↔ s.hostIn.finalPlaced = true ∨ (s.route r).halt = .finish := by
  simp [State.hostFlushing, own]

/-- HOST-IN with its waiting half word padded, where its queue has room (R68). -/
def HostIn.padded (h : HostIn) : HostIn :=
  match h.half with
  | some high =>
    if h.queue.length < Config.hostInCap then { h with half := none, queue := h.queue ++ [wordOfBytes high 0] } else h
  | none => h

/-- HOST-IN's part of a reaction (R67, R68, R74). -/
theorem hostInPass_cases {s : State} {r : RouteNo} (own : s.hostIn.slot = some r) :
    let x := s.route r
    let h := s.hostIn
    let t := s.setRoute r { x with lastLineEnd := h.writer.covered.pos }
    (x.live = false → s.hostInPass = s)
    ∧ (x.live = true → s.hostFlushing = false → s.hostInPass = t)
    ∧ (x.live = true → s.hostFlushing = true →
      (∀ high, h.half = some high → h.queue.length < 64 →
        s.hostInPass = { t with hostIn :=
          { h with half := none, queue := h.queue ++ [wordOfBytes high 0] } })
      ∧ (h.half ≠ none → 64 ≤ h.queue.length → s.hostInPass = t)
      ∧ (h.half = none → h.queue = [] → x.page ≠ none →
        s.hostInPass = t.completeRoute r false
          (some { truncated := false, bitLength := 8 * h.taken, lineCount := h.lineCount, badLines := 0 }))
      ∧ (h.half = none → h.queue ≠ [] ∨ x.page = none → s.hostInPass = t)) := by
  intro x h t
  have flushing : (s.hostInEnds r).hostFlushing = s.hostFlushing := by
    have halt : ((s.hostInEnds r).route r).halt = (s.route r).halt := by simp [State.hostInEnds]
    simp only [State.hostFlushing, own, halt, show (s.hostInEnds r).hostIn = s.hostIn from rfl]
  refine ⟨fun dead => ?_, fun live waits => ?_, fun live flush =>
    ?_⟩
  · simp [State.hostInPass, own, show (s.route r).live = false from dead]
  · simp [State.hostInPass, own, show (s.route r).live = true from live, flushing, waits]
    rfl
  · have begun : s.hostInPass = (let h' := h.padded
        let u := { t with hostIn := h' }
        if h'.queue.isEmpty && h'.half.isNone && x.page.isSome then
          u.completeRoute r false
            (some { truncated := false, bitLength := 8 * h'.taken, lineCount := h'.lineCount, badLines := 0 })
        else u) := by
      simp [State.hostInPass, own, show (s.route r).live = true from live, flushing, flush]
      rfl
    rw [begun]
    refine ⟨fun high half room => ?_, fun half full => ?_, fun whole empty opened => ?_, fun whole unready => ?_⟩
    · have padded : h.padded = { h with half := none, queue := h.queue ++ [wordOfBytes high 0] } := by
        simp only [HostIn.padded, half]
        exact if_pos room
      simp [padded]
    · obtain ⟨high, half⟩ := Option.ne_none_iff_exists'.1 half
      have padded : h.padded = h := by
        simp only [HostIn.padded, half]
        exact if_neg (Nat.not_lt.2 full)
      simp [padded, half]
      rfl
    · obtain ⟨p, page⟩ := Option.ne_none_iff_exists'.1 opened
      have padded : h.padded = h := by simp only [HostIn.padded, whole]
      simp [padded, whole, empty, page]
      rfl
    · have padded : h.padded = h := by simp only [HostIn.padded, whole]
      have not_done : ¬(h.queue.isEmpty && h.half.isNone && x.page.isSome) = true := by
        rcases unready with some_left | unopened
        · simp [some_left]
        · simp [unopened]
      simp only [padded, if_neg not_done]
      rfl

/-- Settles O30: DATA's tests, its bytes joined one by one, and the queue written out. -/
theorem dataBytesJoinTheHostQueue : Obligations.DataBytesJoinTheHostQueue := by
  unfold Obligations.DataBytesJoinTheHostQueue
  refine ⟨fun s r own => ?_, fun slot flags lines bytes s r head named accepted own room => ?_,
    fun s slot flags n => ⟨fun outside => ?_, fun r named => ?_⟩⟩
  · obtain ⟨dead, waits, flush⟩ := hostInPass_cases own
    exact ⟨hostFlushing_iff own, dead, waits, flush⟩
  · obtain ⟨joined, taken, -, final, placed, counted⟩ := HostIn.foldl_add bytes
      { s.hostIn with
        finalTaken := flags.getLsbD 0
        lineCount := if flags.getLsbD 0 && flags.getLsbD 1 then some lines.toNat else none }
    exact ⟨_, exec_data lines head named accepted own room, joined, taken, final,
      congrArg (· || flags.getLsbD 0) placed, counted, rfl⟩
  · simp [State.dataRefusal, asFin_eq_none (show 4 ≤ slot.toNat from outside)]
  · rw [dataRefusal_eq s slot flags n named]
    refine ⟨fun bad => if_pos bad, fun bytes_ few flag few_flags => ?_⟩
    have form :
        ¬(n = 0 ∨ 1024 < n ∨ (flags.getLsbD 1 = true ∧ flags.getLsbD 0 = false) ∨ 3 < flags.toNat) := by
      rintro (none_ | many | ⟨counts, not_final⟩ | other)
      · omega
      · omega
      · exact Bool.false_ne_true (not_final.symm.trans (flag counts))
      · omega
    rw [if_neg form]
    refine ⟨fun bad => if_pos bad, fun kind fate state untaken => if_neg ?_⟩
    rintro (other | fixed | ⟨not_running, not_stalled⟩ | final)
    · exact other kind
    · exact fixed fate
    · exact state.elim not_running not_stalled
    · exact Bool.false_ne_true (untaken.symm.trans final)

/-! ## MOVE and CUT (R124, R130, R132) -/

theorem exec_move {s : State} (b : MoveBody) (head : s.atHead = true) : exec (.move b) s = .next (s.takeMove b) :=
  congrArg Host.Outcome.next (order_atHead s _ _ _ _ head)

theorem exec_cut {s : State} (head : s.atHead = true) : exec .cut s = .next s.takeCut :=
  congrArg Host.Outcome.next (order_atHead s _ _ _ _ head)

theorem setMotor_setMotor (s : State) (m : MotorName) (x y : Motor) :
    (s.setMotor m x).setMotor m y = s.setMotor m y := by
  cases m <;> rfl

theorem motor_bind (s : State) (t : TableNo) (m : MotorName) : (s.bind t).motor m = s.motor m := by
  cases m <;> rfl

/-- A MOVE's motor steps by its slot's ramp (R113). -/
theorem rampInUse_of_slot {s : State} {m : MotorName} {t : TableNo} (own : (s.motor m).copy = none)
    (slot : (s.motor m).slot = some t) : s.rampInUse m = rampOf (s.table t).storage := by
  simp only [State.rampInUse, own, slot]

/-- An accepted MOVE starts its motor from rest (R116, R123, R124). -/
theorem startMove_eq {s : State} {m : MotorName} (t : TableNo) (b : MoveBody) (own : (s.motor m).copy = none) :
    s.startMove m t b
      = { s with tables := s.tables.set t { s.table t with binds := (s.table t).binds + 1 } }.setMotor m
        { s.motor m with
          state := .moving, index := 0
          phase := if b.direction = 1 then ((s.motor m).phase + 7) % 8 else ((s.motor m).phase + 1) % 8
          motion := .move .order, left := b.steps.toNat - 1, taken := 1, back := b.direction == 1
          overrun := false, stretched := false
          timer := some (s.now + (rampOf (s.table t).storage).periods.getD 0 0)
          hold := .driven, holdTimer := none, claim := some .move, slot := some t
          top := b.top.toNat } := by
  let mo : Motor :=
    { s.motor m with claim := some .move, slot := some t, top := b.top.toNat, back := b.direction == 1 }
  let u := (s.bind t).setMotor m mo
  have motor : u.motor m = mo := motor_setMotor_same _ m mo
  have ramp : u.rampInUse m = rampOf (s.table t).storage := by
    have table : u.table t = { s.table t with binds := (s.table t).binds + 1 } := by
      exact (setMotor_table _ m mo t).trans (by simp)
    rw [rampInUse_of_slot (t := t) (by rw [motor]; exact own) (by rw [motor]), table]
  have now : u.now = s.now := by cases m <;> rfl
  have step : s.startMove m t b = u.restart m (.move .order) (b.steps.toNat - 1) := by
    simp only [State.startMove, motor_bind]
    rfl
  rw [step, State.restart, ramp, motor, now, setMotor_setMotor]
  simp [mo, Motor.nextPhase, stepsTaken]
  rfl

theorem motorOf_bounds (b : Byte) : (motorOf b = none ↔ 1 < b.toNat) := by
  simp [motorOf]

/-- MOVE's tests in their order (R124). -/
theorem moveRefusal_eq (s : State) (b : MoveBody) {m : MotorName} {t : TableNo} (motor : motorOf b.motor = some m)
    (steps : b.steps ≠ 0) (direction : b.direction.toNat ≤ 1) (slot : asFin 16 b.slot.toNat = some t)
    (top : b.top.toNat ≤ 127) :
    s.moveRefusal b =
      if s.motorRoute m ≠ none ∨ (s.motor m).claim ≠ none then some .engineBusy
      else if s.pins.coverOpen = true then some .engineFault
      else if (s.table t).state ≠ .ready then some .tableNotReady
      else if (s.table t).kind ≠ some .ramp then some .tableKind else none := by
  have inside : b.slot.toNat ≤ 15 := by
    have := asFin_eq_some slot
    omega
  have table : s.slotAt b.slot.toNat = s.table t := by simp only [State.slotAt, slot]
  have form : (b.steps == 0 || decide (1 < b.direction.toNat) || decide (15 < b.slot.toNat)
      || decide (127 < b.top.toNat)) = false := by
    simp [show b.steps ≠ 0#16 from steps, direction, inside, top]
  simp only [State.moveRefusal, motor, firstRefusal_cons, firstRefusal_nil, form, table, Bool.false_eq_true, if_false,
    Bool.or_eq_true, Option.isSome_iff_ne_none, bne_iff_ne]

theorem moveRefusal_badField (s : State) {b : MoveBody}
    (bad : 1 < b.motor.toNat ∨ b.steps = 0 ∨ 1 < b.direction.toNat ∨ 15 < b.slot.toNat ∨ 127 < b.top.toNat) :
    s.moveRefusal b = some .badField := by
  cases motor : motorOf b.motor with
  | none => simp only [State.moveRefusal, motor]
  | some m =>
    have named : ¬1 < b.motor.toNat := by simp [← motorOf_bounds, motor]
    have form : (b.steps == 0 || decide (1 < b.direction.toNat) || decide (15 < b.slot.toNat)
        || decide (127 < b.top.toNat)) = true := by
      simpa [named, or_assoc] using bad
    simp only [State.moveRefusal, motor, firstRefusal_cons, form, if_true]

/-- CUT's tests in their order (R132). -/
theorem cutRefusal_eq (s : State) :
    s.cutRefusal =
      if s.engines.printer ≠ none ∨ s.cutter.owner = some .order then some .engineBusy
      else if s.pins.coverOpen = true ∨ s.cutter.state = .fault then some .engineFault else none := by
  have claim : s.cutter.claim.isSome = true ↔ s.cutter.owner = some .order := by
    by_cases own : s.cutter.owner = some .order <;> simp [Cutter.claim, own]
  simp only [State.cutRefusal, firstRefusal_cons, firstRefusal_nil, Bool.or_eq_true, claim, Option.isSome_iff_ne_none,
    beq_iff_eq]

/-- Settles O31: MOVE's restart and tests, and CUT by the cutter's state. -/
theorem movesAndCutsStartTheirMotions : Obligations.MovesAndCutsStartTheirMotions := by
  unfold Obligations.MovesAndCutsStartTheirMotions
  refine ⟨fun b s m t head motor slot accepted own => ?_, fun b s => ⟨moveRefusal_badField s, ?_⟩, fun s head => ?_⟩
  · rw [exec_move b head]
    simp only [State.takeMove, accepted, motor, slot]
    exact congrArg _ (startMove_eq t b own)
  · intro m t motor steps direction slot top
    rw [moveRefusal_eq s b motor steps direction slot top]
    refine ⟨fun busy => if_pos busy, fun route claim => ?_⟩
    rw [if_neg (by simp [route, claim])]
    refine ⟨fun open_ => if_pos open_, fun closed => ?_⟩
    rw [if_neg (by simp [closed])]
    refine ⟨fun unready => if_pos unready, fun ready => ?_⟩
    rw [if_neg (by simp [ready])]
    by_cases kind : (s.table t).kind = some .ramp <;> simp [kind]
  · rw [exec_cut head]
    simp only [State.takeCut, cutRefusal_eq]
    refine ⟨fun free other closed => ⟨fun idle => ?_, fun cutting unowned => ?_⟩, fun busy => ?_,
      fun free other faulty => ?_⟩
    · simp [free, other, closed, idle, State.startCut]
    · have state : s.cutter.state = .out ∨ s.cutter.state = .back := by simpa [Cutter.cutting] using cutting
      rcases state with state | state <;> simp [free, closed, state, cutting, unowned, State.startCut]
    · rw [if_pos busy]
      exact congrArg _ (refuse_atHead s _ _ _ head)
    · rw [if_neg (by simp [free, other]), if_pos faulty]
      exact congrArg _ (refuse_atHead s _ _ _ head)

end Sys2Proof.Machine
end

section
/-! PROOF. LEVEL and the print stutter (R146, R147, R153, R154). -/

namespace Sys2Proof.Machine

/-! ## The stutter's conditions (R153, R154) -/

theorem printing_iff (s : State) :
    s.printing = true ↔ ∃ r, s.engines.printer = some r ∧ (s.route r).fate = none
      ∧ ((s.route r).state = .running ∨ ((s.route r).state = .halting ∧ (s.route r).halt = .finish)) := by
  cases printer : s.engines.printer with
  | none => simp [State.printing, printer]
  | some r => simp [State.printing, printer]

theorem inputFull_iff (s : State) :
    s.inputFull = true ↔ ∃ r, s.engines.printer = some r
      ∧ ((s.route r).kind = some .copy ∨ 16 ≤ s.printDec.fetch.queue.length ∨ s.printDec.fetch.left = 0) := by
  cases printer : s.engines.printer with
  | none => simp [State.inputFull, printer]
  | some r =>
    simp only [State.inputFull, printer, Route.isKind, Bool.or_eq_true, beq_iff_eq, decide_eq_true_iff, or_assoc,
      Option.some.injEq, exists_eq_left']
    rfl

theorem mayStutter_iff (s : State) :
    s.mayStutter = true ↔ s.power.level = some .run ∧ s.power.stutter = true ∧ s.power.request = .none
      ∧ s.store.state = .on ∧ s.store.burst = none ∧ s.requestWaits = false
      ∧ s.head.ready.length = s.head.capacity ∧ s.printing = true ∧ s.inputFull = true := by
  simp only [State.mayStutter, Head.full, Bool.and_eq_true, beq_iff_eq, Option.isNone_iff_eq_none, Bool.not_eq_true']
  tauto

theorem endStutter_iff (s : State) :
    s.endStutter = true ↔ s.power.level = some .run ∧ s.power.request = .ordinary
      ∧ (s.power.stutter = false ∨ s.printing = false) := by
  simp [State.endStutter, and_assoc]

/-! ## Power Control's part of a reaction -/

theorem enterSelfRefresh_run {s : State} (run : s.power.level = some .run) :
    s.enterSelfRefresh.power.level = some .run := by
  simp only [State.enterSelfRefresh, run]

/-- At RUN an advance of an entry leaves the level. -/
theorem entryAdvance_run {s : State} (run : s.power.level = some .run) : s.entryAdvance.power.level = some .run := by
  unfold State.entryAdvance
  split
  · split
    · exact run
    · exact enterSelfRefresh_run run
  · exact run

/-- At RUN Power Control's part ends in the entry's advance. -/
theorem powerPass_run {s : State} (stays : ¬(s.store.state = .selfRefresh ∧ s.store.request ≠ .retain
    ∧ s.urgentWaits = true)) (run : s.power.level = some .run) :
    s.powerPass =
      (let s := if s.endStutter then s.withdrawOrdinary else s
       if s.mayStutter then s.placeRequest else s).entryAdvance := by
  have withdrawn (t : State) : t.withdrawOrdinary.power.level = t.power.level := by
    unfold State.withdrawOrdinary State.storeWithdraw State.startExit
    split
    · dsimp only
      split <;> split <;> rfl
    · rfl
  have placed (t : State) : t.placeRequest.power.level = t.power.level := by
    unfold State.placeRequest
    dsimp only
    split <;> rfl
  unfold State.powerPass
  rw [if_neg stays]
  dsimp only
  rw [if_neg]
  rw [entryAdvance_run]
  · simp
  · split <;> split <;> simp [withdrawn, placed, run]

theorem storeWithdraw_entering {s : State} (entering : s.store.state = .entering) :
    s.storeWithdraw = { s with store :=
      { s.store with state := .on, request := .none, burst := s.store.burst.map Burst.notFinal } } := by
  simp only [State.storeWithdraw, entering]

theorem storeWithdraw_refresh {s : State} (asleep : s.store.state = .selfRefresh) :
    s.storeWithdraw = s.startExit := by
  simp only [State.storeWithdraw, asleep]

/-- A stutter request is placed (R153). -/
theorem powerPass_places {s : State} (may : s.mayStutter = true) :
    s.powerPass = { s with
      power := { s.power with request := .ordinary }
      store := { s.store with state := .entering, request := .ordinary } }.entryAdvance := by
  obtain ⟨run, -, request, on, -⟩ := (mayStutter_iff s).1 may
  have not_ending : s.endStutter = false := by simp [State.endStutter, request]
  rw [powerPass_run (by simp [on]) run, not_ending]
  simp [may, State.placeRequest, on]

theorem withdrawOrdinary_frame (s : State) :
    s.withdrawOrdinary.power.stutter = s.power.stutter ∧ s.withdrawOrdinary.printing = s.printing := by
  unfold State.withdrawOrdinary State.storeWithdraw State.startExit
  split
  · dsimp only
    split <;> split <;> exact ⟨rfl, rfl⟩
  · exact ⟨rfl, rfl⟩

/-- A stutter request is withdrawn (R154). -/
theorem powerPass_withdraws {s : State} (ends : s.endStutter = true)
    (calm : s.store.state ≠ .selfRefresh ∨ s.urgentWaits = false) :
    s.powerPass = s.withdrawOrdinary.entryAdvance := by
  obtain ⟨run, -, ended⟩ := (endStutter_iff s).1 ends
  obtain ⟨stutter, printing⟩ := withdrawOrdinary_frame s
  have none_placed : s.withdrawOrdinary.mayStutter = false := by
    simp only [State.mayStutter, stutter, printing]
    rcases ended with disabled | still
    · simp [disabled]
    · simp [still]
  have stays : ¬(s.store.state = .selfRefresh ∧ s.store.request ≠ .retain ∧ s.urgentWaits = true) := by
    rintro ⟨asleep, -, urgent⟩
    rcases calm with awake | quiet
    · exact awake asleep
    · exact Bool.false_ne_true (quiet.symm.trans urgent)
  rw [powerPass_run stays run]
  simp [ends, none_placed]

/-- An urgent request in SELF-REFRESH starts its exit (R39). -/
theorem powerPass_exits {s : State} (asleep : s.store.state = .selfRefresh) (ordinary : s.store.request ≠ .retain)
    (urgent : s.urgentWaits = true) :
    s.powerPass = { s with store :=
      { s.store with state := .waking, request := .none, wakeTimer := some (s.now + 200) } } := by
  have withdrawn : s.startExit.withdrawOrdinary = s.startExit := if_neg fun h => nomatch h.2
  have none_placed : s.startExit.mayStutter = false := by simp [State.mayStutter, State.startExit]
  have still : s.startExit.entryAdvance = s.startExit := if_neg fun h => nomatch h.1
  have begun : s.powerPass = s.startExit := by
    have first : (if s.store.state = .selfRefresh ∧ s.store.request ≠ .retain ∧ s.urgentWaits = true then
        s.startExit else s) = s.startExit := if_pos ⟨asleep, ordinary, urgent⟩
    unfold State.powerPass
    dsimp only
    rw [first, withdrawn, ite_self, none_placed]
    simp only [Bool.false_eq_true, if_false, still]
    exact if_neg fun h => nomatch h.2.2
  exact begun

/-! ## LEVEL's tests (R146) -/

/-- No route is in use but one ARMED LINE-RECEIVE alone. -/
def State.Lone (s : State) : Prop :=
  s.routesInUse.length ≤ 1
    ∧ ∀ r ∈ s.routesInUse, (s.route r).kind = some .lineReceive ∧ (s.route r).state = .armed

/-- A motor not IDLE, a motion claim on one, or a cut under way. -/
def State.Moves (s : State) : Prop :=
  s.pf.state ≠ .idle ∨ s.sf.state ≠ .idle ∨ s.pf.claim ≠ none ∨ s.sf.claim ≠ none ∨ s.cutter.cutting = true

theorem lone_iff (s : State) :
    (match s.routesInUse with
      | [] => true
      | [r] => (s.route r).isKind .lineReceive && (s.route r).state == .armed
      | _ => false) = true ↔ s.Lone := by
  unfold State.Lone
  match s.routesInUse with
  | [] => simp
  | [r] => simp [Route.isKind]
  | _ :: _ :: _ => simp

theorem moves_iff (s : State) :
    (s.pf.state != .idle || s.sf.state != .idle || s.pf.claim.isSome || s.sf.claim.isSome
      || s.cutter.cutting) = true ↔ s.Moves := by
  simp [State.Moves, Option.isSome_iff_ne_none, or_assoc]

/-- LEVEL's field test: another level, or an option that is not the level's. -/
def levelBad (level options : Byte) : Bool :=
  decide (1 < level.toNat) || (level == 1 && options.getLsbD 2)
    || (!(level == 1) && (options.getLsbD 0 || options.getLsbD 1)) || decide (7 < options.toNat)

/-- LEVEL's tests in their order. -/
theorem levelRefusal_eq (s : State) (level options : Byte) [Decidable s.Lone] [Decidable s.Moves] :
    s.levelRefusal level options =
      if levelBad level options = true then some .badField
      else if level = 1 ∧ ¬s.Lone then some .level
      else if level = 1 ∧ s.pool.state ≠ .inService then some .busy
      else if level = 1 ∧ s.Moves then some .motion else none := by
  simp only [State.levelRefusal, firstRefusal_cons, firstRefusal_nil, Bool.and_eq_true, moves_iff, Bool.not_eq_true',
    beq_iff_eq, bne_iff_ne, ← lone_iff, Bool.not_eq_true]
  rfl

theorem levelBad_of {level options : Byte}
    (bad : 1 < level.toNat ∨ 7 < options.toNat ∨ (level = 1 ∧ options.getLsbD 2 = true)
      ∨ (level = 0 ∧ (options.getLsbD 0 = true ∨ options.getLsbD 1 = true))) : levelBad level options = true := by
  simp only [levelBad, Bool.or_eq_true, decide_eq_true_iff, Bool.and_eq_true, beq_iff_eq]
  rcases bad with high | many | one | ⟨zero, option⟩
  · exact .inl (.inl (.inl high))
  · exact .inr many
  · exact .inl (.inl (.inr one))
  · exact .inl (.inr ⟨by simp [zero], option⟩)

theorem levelBad_zero {options : Byte} (doze : options.getLsbD 0 = false) (errors : options.getLsbD 1 = false)
    (few : options.toNat ≤ 7) : levelBad 0 options = false := by
  simp only [levelBad, doze, errors, decide_eq_false (Nat.not_lt.2 few)]
  rfl

theorem levelBad_one {options : Byte} (few : options.toNat ≤ 3) : levelBad 1 options = false := by
  have stutter : options.getLsbD 2 = false := Nat.testBit_lt_two_pow (i := 2) (by omega)
  simp only [levelBad, stutter, decide_eq_false (show ¬7 < options.toNat by omega)]
  rfl

/-- LEVEL's tests (R146). -/
theorem levelRefusal_cases (s : State) (options : Byte) (few : options.toNat ≤ 3) :
    (¬s.Lone → s.levelRefusal 1 options = some .level)
    ∧ (s.Lone → s.pool.state ≠ .inService → s.levelRefusal 1 options = some .busy)
    ∧ (s.Lone → s.pool.state = .inService → s.Moves → s.levelRefusal 1 options = some .motion)
    ∧ (s.Lone → s.pool.state = .inService → ¬s.Moves → s.levelRefusal 1 options = none) := by
  classical
  rw [levelRefusal_eq, levelBad_one few]
  refine ⟨fun many => ?_, fun lone out => ?_, fun lone service moves => ?_, fun lone service still => ?_⟩
  · simp [many]
  · simp [lone, out]
  · simp [lone, service, moves]
  · simp [lone, service, still]

/-! ## LEVEL RUN and LEVEL DOZE (R146, R147, R154) -/

theorem exec_levelRun {s : State} (options : Byte) (head : s.atHead = true) :
    exec (.levelRun options) s = .next (s.takeLevel 0 options) :=
  congrArg Host.Outcome.next (order_atHead s _ _ _ _ head)

theorem exec_levelDoze {s : State} (options : Byte) (head : s.atHead = true) :
    exec (.levelDoze options) s = .next (s.takeLevel 1 options) :=
  congrArg Host.Outcome.next (order_atHead s _ _ _ _ head)

/-- LEVEL RUN without the stutter withdraws a standing request (R146, R154). -/
theorem takeLevel_noStutter (s : State) :
    s.takeLevel 0 0 = { s with power := { s.power with stutter := false } }.withdrawOrdinary := by
  have taken : s.levelRefusal 0 0 = none := by
    classical
    rw [levelRefusal_eq, levelBad_zero (by decide) (by decide) (by decide)]
    rfl
  simp only [State.takeLevel, taken]
  rfl

theorem takeLevel_stutter (s : State) :
    s.takeLevel 0 4 = { s with power := { s.power with stutter := true } }.powerPass := by
  have taken : s.levelRefusal 0 4 = none := by
    classical
    rw [levelRefusal_eq, levelBad_zero (by decide) (by decide) (by decide)]
    rfl
  simp only [State.takeLevel, taken]
  rfl

/-- LEVEL DOZE with nothing present to wake the part begins the entry (R146, R147). -/
theorem takeLevel_doze {s : State} {options : Byte} (head : s.atHead = true) (few : options.toNat ≤ 3)
    (idle : s.routesInUse = []) (service : s.pool.state = .inService) (still : ¬s.Moves) (asleep : s.pins.wake = false)
    (request : s.power.request = .none) :
    s.takeLevel 1 options = { s with power :=
      { s.power with
        quietReceive := options.getLsbD 0, quietErrors := options.getLsbD 1, wakeFirst := none
        wakeSet := [], level := some .enteringDoze, step := .none, drivesOff := false } }.beginDoze := by
  have lone : s.Lone := by simp [State.Lone, idle]
  have accepted := (levelRefusal_cases s options few).2.2.2 lone service still
  obtain ⟨-, -, -, -, -, empty⟩ := (atHead_iff s).1 head
  have standing : s.withdrawOrdinary = s := if_neg (by simp [request])
  simp only [State.takeLevel, accepted, State.levelToDoze, standing, empty, asleep]
  rfl

/-- An entry into DOZE begun: the head's supply and the holds are off, the queue drains (R126, R147). -/
def State.dozeBegun (s : State) : State :=
  { s with
    head := { s.head with supply := .off, settleTimer := none, burn := none, cutOff := [] }
    pf := { s.pf with hold := .off, holdTimer := none }
    sf := { s.sf with hold := .off, holdTimer := none }
    power := { s.power with level := some .enteringDoze, step := .drain, drivesOff := true } }

theorem beginDoze_drains {s : State} (writes : s.pool.dirQueue ≠ []) : s.beginDoze = s.dozeBegun := by
  have waits : ¬s.pool.dirQueue.isEmpty = true := by simp [writes]
  exact if_neg waits

/-- With nothing left to do DOZE is entered in the event (R38, R147). -/
theorem beginDoze_enters {s : State} (drained : s.pool.dirQueue = []) (on : s.store.state = .on)
    (idle : s.store.burst = none) (rested : s.store.backlog = 0) (quiet : s.urgentWaits = false) :
    s.beginDoze = { s.dozeBegun with
      head := { s.dozeBegun.head with sampleTimer := none }
      store :=
        { s.store with
          state := .selfRefresh, request := .ordinary, backlog := 0, refreshTimer := none, scrubTimer := none }
      power :=
        { s.dozeBegun.power with level := some .doze, step := .none, request := .ordinary, asleep := true } } := by
  let t : State := { s.dozeBegun with power := { s.dozeBegun.power with step := .selfRefresh } }
  let u : State := { t with
    power := { t.power with request := .ordinary }
    store := { t.store with state := .entering, request := .ordinary } }
  have empty : s.pool.dirQueue.isEmpty = true := by simp [drained]
  have placed : t.placeRequest = u := by simp only [State.placeRequest, show t.store.state = .on from on]; rfl
  have entered : u.entryAdvance = u.enterSelfRefresh :=
    (if_pos ⟨rfl, by simp [u, t, State.dozeBegun, idle], .inr quiet⟩).trans
      (if_neg (show ¬0 < s.store.backlog by omega))
  have begun : s.beginDoze = t.placeRequest.entryAdvance := if_pos empty
  rw [begun, placed, entered]
  rfl

/-- Settles O32: the stutter's conditions and Power Control's part; LEVEL's tests; LEVEL RUN and LEVEL DOZE. -/
theorem levelOrdersRunAndDoze : Obligations.LevelOrdersRunAndDoze := by
  unfold Obligations.LevelOrdersRunAndDoze
  refine ⟨fun s => ⟨printing_iff s, ?_, endStutter_iff s, powerPass_places, powerPass_withdraws, powerPass_exits⟩,
    fun s head => ?run,
    fun s level options => ⟨fun bad => ?_, fun doze errors few => ?_, levelRefusal_cases s options⟩,
    fun options s head few idle service pf sf pf_claim sf_claim cutter asleep request => ?doze⟩
  case run =>
    rw [exec_levelRun 0 head, takeLevel_noStutter, exec_levelRun 4 head, takeLevel_stutter]
    refine ⟨fun none_ => ?_, fun power store entering => ?_, fun power store refresh => ?_, rfl, fun options bad => ?_⟩
    · exact congrArg _ (if_neg fun standing => none_.elim (· standing.1) (· standing.2))
    · have withdrawn : { s with power := { s.power with stutter := false } }.storeWithdraw = _ :=
        storeWithdraw_entering entering
      refine congrArg _ ((if_pos ⟨power, store⟩).trans ?_)
      rw [withdrawn]
      rfl
    · have withdrawn : { s with power := { s.power with stutter := false } }.storeWithdraw = _ :=
        storeWithdraw_refresh refresh
      refine congrArg _ ((if_pos ⟨power, store⟩).trans ?_)
      rw [withdrawn]
      rfl
    · rw [exec_levelRun options head]
      have refused : s.levelRefusal 0 options = some .badField := by
        classical
        rw [levelRefusal_eq, if_pos (levelBad_of _)]
        simp only [Bool.or_eq_true, decide_eq_true_iff] at bad
        rcases bad with (doze | errors) | many
        · exact .inr (.inr (.inr ⟨rfl, .inl doze⟩))
        · exact .inr (.inr (.inr ⟨rfl, .inr errors⟩))
        · exact .inr (.inl many)
      simp only [State.takeLevel, refused]
      exact congrArg _ (refuse_atHead s _ _ _ head)
  case doze =>
    have still : ¬s.Moves := by simp [State.Moves, pf, sf, pf_claim, sf_claim, cutter]
    rw [exec_levelDoze options head, takeLevel_doze head few idle service still asleep request]
    exact ⟨fun writes => congrArg _ (beginDoze_drains writes), fun drained on quiet rested urgent =>
      congrArg _ (beginDoze_enters drained on quiet rested urgent)⟩
  · rw [mayStutter_iff, inputFull_iff]
  · classical
    rw [levelRefusal_eq, if_pos (levelBad_of bad)]
  · classical
    rw [levelRefusal_eq, levelBad_zero doze errors few]
    rfl

end Sys2Proof.Machine
end

section
/-! PROOF. QUERY, MARK and CLEAR (R19, R80, R180, R181), and orders refused (R177). -/

namespace Sys2Proof.Machine

/-! ## The fields of the answers (R1, R22, R32, R60, R63, R133, R145, R168) -/

/-- A named value's byte is its place in its rule's list. -/
theorem namedByte_some {α : Type} [DecidableEq α] {listed : List α} {place : α → Nat}
    (order : ∀ v, listed.idxOf v = place v) (v : α) : namedByte listed (some v) = setByte (place v) := by
  rw [namedByte, order, setByte]

theorem namedByte_opt {α : Type} [DecidableEq α] {listed : List α} {place : α → Nat}
    (order : ∀ v, listed.idxOf v = place v) (x : Option α) : namedByte listed x = setByteOpt (x.map place) := by
  cases x with
  | none => rfl
  | some v => exact namedByte_some order v

theorem kind_byte (x : Option RouteKind) :
    namedByte [.scanStore, .copy, .printPage, .lineReceive, .lineSend, .hostStore, .pageHost] x
      = setByteOpt (x.map RouteKind.ctorIdx) := namedByte_opt (fun v => by cases v <;> rfl) x

theorem claim_byte (x : Option MotionClaim) : namedByte [.move, .cut, .runDown] x = claimByte x :=
  namedByte_opt (fun v => by cases v <;> rfl) x

theorem pageAnswer_eq (e : PageEntry) : e.answer = List.flatten
    [namedByte [.free, .opened, .closed, .dropping] (some e.state)
    , namedByte [.scan, .line, .host] (some e.origin), number e.pitch, number e.codeSlot
    , number e.head, number e.tail, number e.blockCount, position e.bitLength, numberOpt e.lineCount
    , number e.badLines, flagByte e.truncated, flagByte e.damaged, number e.readers
    , numberOpt (e.owner.map Fin.val)] := by
  have state := namedByte_some (listed := [PageState.free, .opened, .closed, .dropping]) (place := PageState.ctorIdx)
    (fun v => by cases v <;> rfl) e.state
  have origin := namedByte_some (listed := [Origin.scan, .line, .host]) (place := Origin.ctorIdx)
    (fun v => by cases v <;> rfl) e.origin
  simp only [state, origin, PageEntry.answer, slotOpt, List.flatten_cons, List.flatten_nil, List.append_nil,
    List.append_assoc]

theorem routeAnswer_eq (x : Route) : x.answer = List.flatten
    [namedByte [.scanStore, .copy, .printPage, .lineReceive, .lineSend, .hostStore, .pageHost] x.kind
    , namedByte [.idle, .armed, .running, .stalled, .halting] (some x.state)
    , numberOpt (x.page.map Fin.val), numberOpt (x.code.map Fin.val), numberOpt (x.heat.map Fin.val)
    , numberOpt (x.pfRamp.map Fin.val), numberOpt (x.sfRamp.map Fin.val)
    , numberOpt (x.shade.map Fin.val), flagByte x.continues, flagByte x.dropAfter, flagByte x.cutAfter
    , number x.top, number x.pitch, number x.linesDone, number x.badLines, number x.consecBad
    , number x.badLimit, number x.overPhases, number x.skipped, number x.remainder, number x.minBits
    , number x.carrierMs, number x.jam, number x.lead, number x.eject, number x.tail, number x.trail
    , number x.maxLines, position x.lastLineEnd, namedByte [.done, .halted, .failed] x.outcome
    , namedByte [.noPage, .poolOut, .carrier, .jam, .paper, .cover, .memory, .cutter] x.cause
    , flagByte x.unterminated] := by
  have state := namedByte_some (listed := [RouteState.idle, .armed, .running, .stalled, .halting])
    (place := RouteState.ctorIdx) (fun v => by cases v <;> rfl) x.state
  have outcome := namedByte_opt (listed := [Outcome.done, .halted, .failed]) (place := Outcome.ctorIdx)
    (fun v => by cases v <;> rfl) x.outcome
  have cause := namedByte_opt
    (listed := [Cause.noPage, .poolOut, .carrier, .jam, .paper, .cover, .memory, .cutter]) (place := Cause.ctorIdx)
    (fun v => by cases v <;> rfl) x.cause
  unfold Route.answer slotOpt
  simp only [kind_byte, state, outcome, cause, List.flatten_cons, List.flatten_nil]
  simp only [List.append_assoc]
  simp only [List.append_nil]

theorem claimAnswer_eq (s : State) :
    let slot (x : Option RouteNo) : List Byte := numberOpt (x.map Fin.val)
    let claim : Option MotionClaim → List Byte := namedByte [.move, .cut, .runDown]
    s.claimAnswer = List.flatten
      [slot s.engines.scanner, slot s.engines.coder, slot s.engines.printer, slot s.engines.decoder
      , slot s.engines.line, slot s.engines.hostIn, slot s.engines.hostOut, claim s.pf.claim
      , claim s.sf.claim, claim s.cutter.claim, flagByte s.engines.scannerFault
      , flagByte s.engines.printerFault] := by
  simp only [claim_byte, List.flatten_cons, List.flatten_nil]
  unfold State.claimAnswer slotOpt
  simp only [List.append_assoc]
  simp only [List.append_nil]

theorem routes_toList (s : State) : s.routes.toList = [s.route 0, s.route 1, s.route 2, s.route 3] := by
  refine List.ext_getElem (by simp) fun i below _ => ?_
  rw [Vector.length_toList] at below
  interval_cases i <;> simp [State.route]

theorem poolAnswer_eq (s : State) : s.poolAnswer = List.flatten
    [namedByte [.inService, .rebuilding, .clearing] (some s.pool.state), number s.pool.freeCount
    , number s.pool.spare.length, number s.pool.stranded, number s.available
    , number (s.route 0).remainder, number (s.route 1).remainder, number (s.route 2).remainder
    , number (s.route 3).remainder, number s.setup.lowMark
    , namedByte [.none, .low, .out] (some s.pool.alert), number s.pool.dirQueue.length] := by
  have state := namedByte_some (listed := [PoolState.inService, .rebuilding, .clearing]) (place := PoolState.ctorIdx)
    (fun v => by cases v <;> rfl) s.pool.state
  have alert := namedByte_some (listed := [Alert.none, .low, .out]) (place := Alert.ctorIdx)
    (fun v => by cases v <;> rfl) s.pool.alert
  unfold State.poolAnswer
  simp only [state, alert, routes_toList, List.flatMap_cons, List.flatMap_nil, List.flatten_cons, List.flatten_nil]
  simp only [List.append_assoc]
  simp only [List.append_nil, List.nil_append]

theorem logFields_eq (x : LogRecord) : x.fields = List.flatten
    [namedByte [.corrected, .uncorrectable] (some x.cls), number x.block, number x.offset, number x.syndrome
    , namedByte [.lineTx, .printFetch, .directory, .hostOut, .scrub, .boot] (some x.client)] := by
  have cls := namedByte_some (listed := [ErrorClass.corrected, .uncorrectable]) (place := ErrorClass.ctorIdx)
    (fun v => by cases v <;> rfl) x.cls
  have client := namedByte_some
    (listed := [LogClient.lineTx, .printFetch, .directory, .hostOut, .scrub, .boot]) (place := LogClient.ctorIdx)
    (fun v => by cases v <;> rfl) x.client
  simp only [cls, client, LogRecord.fields, List.flatten_cons, List.flatten_nil, List.append_nil, List.append_assoc]

theorem motorAnswer_eq (m : Motor) (now : Nat) : m.answer now = (motorFields m now).flatten := by
  have state := namedByte_some (listed := [MotorState.idle, .moving, .waitData, .waitCool, .waitPaper, .waitRoom])
    (place := MotorState.ctorIdx) (fun v => by cases v <;> rfl) m.state
  have hold := namedByte_some (listed := [HoldState.driven, .hold, .off])
    (place := HoldState.ctorIdx) (fun v => by cases v <;> rfl) m.hold
  simp only [motorFields, state, hold, Motor.answer, List.flatten_cons, List.flatten_nil, List.append_nil,
    List.append_assoc]

theorem levelAnswer_eq (s : State) : s.levelAnswer = List.flatten
    ([namedByte [.run, .enteringDoze, .doze, .waking, .dozeRx, .enteringRetain, .retain] s.power.level
    , flagByte s.power.stutter, flagByte s.power.quietReceive, flagByte s.power.quietErrors
    , namedByte [.stream, .wake, .docIn, .cover, .error, .line] s.power.wakeFirst
    , [.stream, .wake, .docIn, .cover, .error, .line].flatMap fun c =>
        flagByte (s.power.wakeSet.contains c)
    , namedByte [.none, .ordinary, .retain] (some s.power.request)
    , namedByte [.init, .on, .entering, .selfRefresh, .waking] (some s.store.state)
    , number s.setup.watermark, number s.head.theta.toNat, number s.head.volts.toNat
    , namedByte [.off, .settling, .settled] (some s.head.supply)]
    ++ motorFields s.pf s.now ++ motorFields s.sf s.now
    ++ [namedByte [.idle, .out, .back, .fault] (some s.cutter.state), flagByte s.pins.home
      , flagByte (!s.pins.paperOut)]) := by
  have level := namedByte_opt
    (listed := [Level.run, .enteringDoze, .doze, .waking, .dozeRx, .enteringRetain, .retain]) (place := Level.ctorIdx)
    (fun v => by cases v <;> rfl) s.power.level
  have first := namedByte_opt (listed := [WakeCause.stream, .wake, .docIn, .cover, .error, .line])
    (place := WakeCause.ctorIdx) (fun v => by cases v <;> rfl) s.power.wakeFirst
  have request := namedByte_some (listed := [SelfRequest.none, .ordinary, .retain]) (place := SelfRequest.ctorIdx)
    (fun v => by cases v <;> rfl) s.power.request
  have store := namedByte_some (listed := [StoreState.init, .on, .entering, .selfRefresh, .waking])
    (place := StoreState.ctorIdx) (fun v => by cases v <;> rfl) s.store.state
  have supply := namedByte_some (listed := [Supply.off, .settling, .settled]) (place := Supply.ctorIdx)
    (fun v => by cases v <;> rfl) s.head.supply
  have cutter := namedByte_some (listed := [CutterState.idle, .out, .back, .fault]) (place := CutterState.ctorIdx)
    (fun v => by cases v <;> rfl) s.cutter.state
  unfold State.levelAnswer causeSet
  simp only [level, first, request, store, supply, cutter, motorAnswer_eq, List.flatten_append, List.flatten_cons,
    List.flatten_nil]
  simp only [List.append_assoc]
  simp only [List.append_nil, List.nil_append]

theorem failureAnswer_eq (x : Option LoadFailure) : failureAnswer x = (match x with
    | none => [0xFF, 0xFF, 0xFF]
    | some .check => [0, 0xFF, 0xFF]
    | some (.form test) => 1 :: number test) := by
  match x with
  | none => rfl
  | some .check => rfl
  | some (.form _) => rfl

theorem tableAnswer_eq (x : TableSlot) : x.answer = List.flatten
    [namedByte [.code, .heat, .ramp, .shade] x.kind
    , namedByte [.empty, .loading, .ready, .bad] (some x.state), number x.length, number x.check
    , number x.binds
    , (match x.failure with
      | none => [0xFF, 0xFF, 0xFF]
      | some .check => [0, 0xFF, 0xFF]
      | some (.form test) => 1 :: number test)] := by
  have kind := namedByte_opt (listed := [TableKind.code, .heat, .ramp, .shade]) (place := TableKind.ctorIdx)
    (fun v => by cases v <;> rfl) x.kind
  have state := namedByte_some (listed := [SlotState.empty, .loading, .ready, .bad]) (place := SlotState.ctorIdx)
    (fun v => by cases v <;> rfl) x.state
  simp only [kind, state, ← failureAnswer_eq, TableSlot.answer, List.flatten_cons, List.flatten_nil,
    List.append_nil, List.append_assoc]

/-! ## QUERY and MARK taken (R180, R181) -/

theorem asFin_byte {n : Nat} (few : n ≤ 256) (i : Fin n) : asFin n (BitVec.ofNat 8 i).toNat = some i := by
  have same : (BitVec.ofNat 8 i).toNat = i := by
    rw [BitVec.toNat_ofNat]
    exact Nat.mod_eq_of_lt (by omega)
  rw [same]
  exact dif_pos i.isLt

theorem answerFields_indexed (s : State) (x : Byte) :
    (s.answerFields 0 x = (asFin 32 x.toNat).map fun p => (s.page p).answer)
    ∧ (s.answerFields 1 x = (asFin 4 x.toNat).map fun r => (s.route r).answer ++ s.claimAnswer)
    ∧ s.answerFields 4 x = (asFin 16 x.toNat).map fun t => (s.table t).answer := ⟨rfl, rfl, rfl⟩

/-- A QUERY while no ANSWER waits. -/
theorem takeQuery_free {s : State} (subject arg : Byte) (head : s.atHead = true) (free : s.holdsKind 0x8B = false) :
    s.takeQuery subject arg = some
      (match s.answerFields subject arg with
        | none => s.putReport (.refused .query .badField (setByte subject.toNat)) false
        | some fields =>
          let t := s.putReport (.answer ([subject, arg] ++ fields)) false
          if subject.toNat = 3 then t.emptyLog else t) := by
  have asked (x : Report) := queueReport_atHead s x head
  simp only [State.takeQuery, free, State.refuse, asked]
  rfl

/-- A QUERY's ANSWER (R180). -/
theorem takeQuery_answers {s : State} {subject arg : Byte} {fields : List Byte} (head : s.atHead = true)
    (free : s.holdsKind 0x8B = false) (found : s.answerFields subject arg = some fields) (other : subject.toNat ≠ 3) :
    s.takeQuery subject arg = some (s.putReport (.answer (subject :: arg :: fields)) false) := by
  rw [takeQuery_free subject arg head free, found]
  exact congrArg some (if_neg other)

theorem takeQuery_refused {s : State} {subject arg : Byte} (head : s.atHead = true)
    (free : s.holdsKind 0x8B = false) (outside : s.answerFields subject arg = none) :
    s.takeQuery subject arg
      = some (s.putReport (.refused .query .badField (setByte subject.toNat)) false) := by
  rw [takeQuery_free subject arg head free, outside]

/-- An order taken at the start of a record has its effect at once. -/
theorem next_order {s t : State} {kind n : Nat} {body : List Byte} {taken : Option State} (head : s.atHead = true)
    (accepted : taken = some t) :
    Host.Outcome.next (s.order kind n body taken) = (.next t : Host.Outcome State Fault Refusal) := by
  rw [accepted, order_atHead s t kind n body head]

/-- Settles O33: each answer's fields in their rule's order, each QUERY by its subject, and MARK. -/
theorem queriesAndMarksAreAnsweredInOrder : Obligations.QueriesAndMarksAreAnsweredInOrder := by
  unfold Obligations.QueriesAndMarksAreAnsweredInOrder
  refine ⟨fun s head free => ?queries, pageAnswer_eq, routeAnswer_eq, fun s => ⟨claimAnswer_eq s, poolAnswer_eq s,
    fun empty => ?_, fun x logged => ?_, levelAnswer_eq s⟩, tableAnswer_eq, fun value s head free => ?mark⟩
  case queries =>
    refine ⟨fun p => ?_, fun r => ?_, ?_, ?_, fun t => ?_, ?_, fun x outside => ?_, fun x outside => ?_,
      fun x outside => ?_, fun x other => ⟨?_, ?_, ?_⟩⟩
    · have found := (answerFields_indexed s (BitVec.ofNat 8 p)).1
      rw [asFin_byte (by decide)] at found
      exact next_order head (takeQuery_answers head free found (by decide))
    · have found := (answerFields_indexed s (BitVec.ofNat 8 r)).2.1
      rw [asFin_byte (by decide)] at found
      exact next_order head (takeQuery_answers head free found (by decide))
    · exact next_order head (takeQuery_answers head free rfl (by decide))
    · exact next_order head (takeQuery_free 3 0 head free)
    · have found := (answerFields_indexed s (BitVec.ofNat 8 t)).2.2
      rw [asFin_byte (by decide)] at found
      exact next_order head (takeQuery_answers head free found (by decide))
    · exact next_order head (takeQuery_answers head free rfl (by decide))
    · have absent := (answerFields_indexed s x).1
      rw [asFin_eq_none outside] at absent
      exact next_order head (takeQuery_refused head free absent)
    · have absent := (answerFields_indexed s x).2.1
      rw [asFin_eq_none outside] at absent
      exact next_order head (takeQuery_refused head free absent)
    · have absent := (answerFields_indexed s x).2.2
      rw [asFin_eq_none outside] at absent
      exact next_order head (takeQuery_refused head free absent)
    all_goals exact next_order head (takeQuery_refused head free (if_neg other))
  case mark =>
    have marked : enqueue (.mark value) false s.reports
        = s.reports ++ [{ report := .mark value, count := 1, withheld := false }] := enqueue_new false (.inl rfl)
    have taken : s.takeMark value = some (s.putReport (.mark value) false) := by
      simp only [State.takeMark, free, queueReport_atHead s _ head]
      rfl
    rw [← marked]
    exact next_order head taken
  · simp only [State.logAnswer, empty]
    rfl
  · simp only [State.logAnswer, logged, logFields_eq, List.flatten_cons, List.flatten_nil, List.append_nil,
      List.append_assoc]

/-! ## CLEAR (R19, R80) -/

/-- CLEAR SCANNER and CLEAR PRINTER refused while COVER is open. -/
theorem clearRefusal_engine (s : State) :
    s.clearRefusal 0 = (if s.pins.coverOpen = true then some .engineFault else none)
    ∧ s.clearRefusal 1 = (if s.pins.coverOpen = true then some .engineFault else none) := by
  have tests : firstRefusal [(.engineFault, s.pins.coverOpen)]
      = if s.pins.coverOpen = true then some .engineFault else none := by
    rw [firstRefusal_cons, firstRefusal_nil]
  exact ⟨tests, tests⟩

theorem clearRefusal_pool (s : State) :
    s.clearRefusal 2 =
      if s.pool.state ≠ .inService then some .busy
      else if ∃ r ∈ s.routesInUse, (s.route r).isWriter = true then some .slotBusy else none := by
  have tests : s.clearRefusal 2 = firstRefusal [(.busy, s.pool.state != .inService),
      (.slotBusy, s.routesInUse.any fun r => (s.route r).isWriter)] := rfl
  simp only [tests, firstRefusal_cons, firstRefusal_nil, bne_iff_ne, List.any_eq_true]

/-- The pool as a rebuild begins: what is free is stranded (R19). -/
def Pool.rebuilt (p : Pool) : Pool :=
  { p with
    state := .rebuilding, stranded := p.stranded + p.freeCount + p.spare.length, freeCount := 0
    freeHead := none, freeTail := none, spare := []
    rebuild := some { at_ := .entry 0, marks := [], joined := [] } }

/-- CLEAR POOL strands what is free, and LOW follows where the alert falls to it (R17, R19). -/
theorem startRebuild_run {s : State} (run : s.power.level = some .run) :
    let low := 0 < s.available ∧ 0 < s.setup.lowMark ∧ s.setup.lowMark ≤ s.available ∧ s.pool.alert = .none
    let told := enqueue .poolRebuilding false s.reports
    s.startRebuild = { s with
      reports := if low then enqueue .poolLow false told else told
      pool := { s.pool.rebuilt with alert := if low then .low else s.pool.alert } } := by
  intro low told
  let t : State := { s with reports := told, pool := s.pool.rebuilt }
  have nothing : t.available = 0 := by
    have none_free : t.available = 0 + 0 - t.remainders := rfl
    omega
  have begun : s.startRebuild = t.availChange s.available := by
    unfold State.startRebuild
    dsimp only
    rw [queueReport_run _ _ (by exact run)]
    rfl
  have same : (t.available < s.available ∧ t.setup.lowMark ≤ s.available ∧ t.available < t.setup.lowMark
      ∧ t.pool.alert = .none) ↔ low := by
    rw [nothing]
    exact ⟨fun ⟨a, b, c, d⟩ => ⟨a, c, b, d⟩, fun ⟨a, c, b, d⟩ => ⟨a, b, c, d⟩⟩
  rw [begun, availChange_fall_run (s := t) run (nothing ▸ Nat.zero_le _)]
  simp only [same]
  rfl

/-- Settles O34: CLEAR's tests and what each subject's does. -/
theorem clearsEndTheirFaults : Obligations.ClearsEndTheirFaults := by
  unfold Obligations.ClearsEndTheirFaults
  intro s head
  have run := ((atHead_iff s).1 head).2.1
  obtain ⟨scanner, printer⟩ := clearRefusal_engine s
  have pool := clearRefusal_pool s
  refine ⟨fun closed => ⟨next_order head ?_, next_order head ?_⟩, fun open_ => ⟨next_order head ?_, next_order head ?_⟩,
    fun service free => ?_, fun out => next_order head ?_, fun service writes => next_order head ?_⟩
  · rw [if_neg (by simp [closed])] at scanner
    simp only [State.takeClear, scanner]
    rfl
  · rw [if_neg (by simp [closed])] at printer
    simp only [State.takeClear, printer]
    rfl
  · rw [if_pos open_] at scanner
    simp only [State.takeClear, scanner]
    exact congrArg some (refuse_atHead s _ _ _ head)
  · rw [if_pos open_] at printer
    simp only [State.takeClear, printer]
    exact congrArg some (refuse_atHead s _ _ _ head)
  · intro low told
    have nobody : ¬∃ r ∈ s.routesInUse, (s.route r).isWriter = true := by
      rintro ⟨r, used, writes⟩
      exact Bool.false_ne_true ((free r used).symm.trans writes)
    rw [if_neg (by simp [service]), if_neg nobody] at pool
    refine next_order head ?_
    simp only [State.takeClear, pool]
    exact congrArg (fun t : State => some t.react) (startRebuild_run run)
  · rw [if_pos out] at pool
    simp only [State.takeClear, pool]
    exact congrArg some (refuse_atHead s _ _ _ head)
  · rw [if_neg (by simp [service]), if_pos writes] at pool
    simp only [State.takeClear, pool]
    exact congrArg some (refuse_atHead s _ _ _ head)

/-! ## Orders refused (R177) -/

theorem numberOpt_byte (b : Byte) : number b.toNat = [b, 0] := by
  have small := b.isLt
  have low : BitVec.ofNat 8 b.toNat = b := by simp
  have high : b.toNat / 256 = 0 := by omega
  simp [number, le16, low, high, show b.toNat ≤ 65535 by omega]

/-- The field a refusal carries (R177). -/
theorem firstField_eq (k : OrderKind) (body : List Byte) : firstField k body =
    match k with
    | .cut | .malformed => []
    | .setup | .mark | .imageEnd => (match body with | a :: b :: _ => [a, b] | _ => [0xFF, 0xFF])
    | .move | .level | .query | .clear => (match body with | a :: _ => [a] | [] => [0xFF])
    | .tableLoad | .tableDrop | .pageDrop | .routeStart | .routeHalt | .data =>
      (match body with | a :: _ => [a, 0] | [] => [0xFF, 0xFF]) := by
  match body with
  | [] => cases k <;> rfl
  | [a] => cases k <;> simp [firstField, numberOpt, numberOpt_byte]
  | a :: b :: rest => cases k <;> simp [firstField, numberOpt, numberOpt_byte]

/-- Settles O35: each refusal queues its report alone. -/
theorem refusedOrdersChangeNothingElse : Obligations.RefusedOrdersChangeNothingElse := by
  unfold Obligations.RefusedOrdersChangeNothingElse
  intro s c head
  have refuse (k : OrderKind) (c : Refused) (fields : List Byte) := refuse_atHead s k c fields head
  refine ⟨fun b refused => next_order head ?_, fun b places refused => next_order head ?_,
    fun slot flags lines bytes short refused => next_order head ?_, fun b refused => next_order head ?_,
    fun options refused => next_order head ?_, fun k body other length free => ?_, firstField_eq, fun check => ?_⟩
  · simp only [State.takeSetup, refused, refuse]
  · have room : ¬(routeKindOf b.kind = some .hostStore ∧ Config.dirCap < s.pool.dirQueue.length + 2) := by
      rintro ⟨host, full⟩
      exact absurd (places host) (Nat.not_le.2 full)
    simp only [State.takeStart, if_neg room, refused, refuse]
  · simp only [State.dataWhole, if_neg (Nat.not_lt.2 short), State.takeData, refused, refuse]
  · simp only [State.takeMove, refused, refuse, setByte, BitVec.ofNat_toNat, BitVec.setWidth_eq]
  · simp only [State.takeLevel, refused, refuse]
    rfl
  · simp only [State.takeOrder, if_neg other, free, Bool.false_eq_true, if_false, if_pos length, refuse]
  · have ready := ((atHead_iff s).1 head).1
    have past : s.replayHead = false := by simp [State.replayHead, State.replaying, ready]
    have taken : exec (.imageEnd check) s = .next (s.order 0x0E 2 (le16 check.toNat)
        (some (s.refuse .imageEnd .notInBoot (number check.toNat)))) := if_neg (by simp [past])
    rw [taken]
    exact next_order head (congrArg some (refuse _ _ _))

end Sys2Proof.Machine
end

section
/-! PROOF. The Order Parser: malformed headers and HUNT (R176), and the inbound bytes (R177, R178). -/

namespace Sys2Proof.Machine

/-! ## HEAD and HUNT (R176) -/

/-- At RUN a byte from PORT is taken by the parser's state. -/
theorem takeByte_run {s : State} (b : Byte) (run : s.power.level = some .run) :
    s.takeByte b = match s.parser.state with
      | .head => s.headByte b
      | .body => s.bodyByte b
      | .hunt => some (s.huntByte b) :=
  if_neg fun stalls => stalls.2 run

theorem takeByte_head {s : State} (b : Byte) (run : s.power.level = some .run) (head : s.parser.state = .head) :
    s.takeByte b = s.headByte b := by
  rw [takeByte_run b run, head]

/-- A malformed header from PORT at RUN leads to HUNT with its report. -/
theorem badHeader_port {s : State} (kind : Byte) (length : Word) (run : s.power.level = some .run)
    (port : s.parser.source = .port) :
    s.badHeader kind length
      = { s with parser := { Parser.start with source := .port, state := .hunt } }.putReport
          (.refused .malformed .badField (kind :: le16 length.toNat)) false := by
  simp only [State.badHeader, port]
  exact queueReport_run _ _ run

/-- A byte in HUNT. -/
theorem huntByte_cases (s : State) (b : Byte) :
    (huntMatched s.parser.matched b = 4 →
      s.huntByte b = { s with parser := { Parser.start with source := s.parser.source } })
    ∧ (huntMatched s.parser.matched b ≠ 4 →
      s.huntByte b = { s with parser := { s.parser with matched := huntMatched s.parser.matched b } }) :=
  ⟨fun ends => if_pos ends, fun on => if_neg on⟩

/-- HUNT over some bytes: the sequence is found, or so many of its bytes are matched. -/
def hunted (m : Nat) (bytes : List Byte) : Nat :=
  bytes.foldl (fun m b => if m = 4 then 4 else huntMatched m b) m

theorem hunted_found (bytes : List Byte) : hunted 4 bytes = 4 := by
  induction bytes with
  | nil => rfl
  | cons b rest ih => exact ih

theorem hunted_cons {m : Nat} (b : Byte) (rest : List Byte) (on : m ≠ 4) :
    hunted m (b :: rest) = hunted (huntMatched m b) rest := by
  simp only [hunted, List.foldl_cons, if_neg on]

theorem huntMatched_le {m : Nat} (b : Byte) (few : m < 4) : huntMatched m b ≤ 4 := by
  unfold huntMatched
  split
  · omega
  · split <;> omega

/-- A byte leaves of the sequence's bytes matched those that still may begin it. -/
theorem infix_huntMatched {m : Nat} (b : Byte) (rest : List Byte) (few : m < 4) :
    resyncBytes <:+: resyncBytes.take m ++ b :: rest
      ↔ huntMatched m b = 4 ∨ resyncBytes <:+: resyncBytes.take (huntMatched m b) ++ rest := by
  by_cases first : b = 0x7E#8
  · subst first
    interval_cases m <;>
      simp [resyncBytes, huntMatched, List.infix_cons_iff, List.cons_prefix_cons]
  · by_cases second : b = 0x81#8
    · subst second
      interval_cases m <;> simp [resyncBytes, huntMatched, List.infix_cons_iff, List.cons_prefix_cons]
    · interval_cases m <;>
        simp [resyncBytes, huntMatched, List.infix_cons_iff, List.cons_prefix_cons, first, Ne.symm first,
          Ne.symm second]

/-- From `m` bytes matched, HUNT finds the sequence where it stands in those bytes and the ones that follow. -/
theorem hunted_iff (bytes : List Byte) {m : Nat} (few : m < 4) :
    hunted m bytes = 4 ↔ resyncBytes <:+: resyncBytes.take m ++ bytes := by
  induction bytes generalizing m with
  | nil =>
    have short : ¬resyncBytes <:+: resyncBytes.take m ++ [] := by
      intro found
      have length := found.length_le
      simp [resyncBytes] at length
      omega
    exact iff_of_false (Nat.ne_of_lt few) short
  | cons b rest ih =>
    rw [hunted_cons b rest (Nat.ne_of_lt few), infix_huntMatched b rest few]
    by_cases ends : huntMatched m b = 4
    · rw [ends]
      exact iff_of_true (hunted_found rest) (.inl rfl)
    · have on : huntMatched m b < 4 := Nat.lt_of_le_of_ne (huntMatched_le b few) ends
      rw [ih on]
      exact ⟨.inr, fun found => found.resolve_left ends⟩

/-- Settles O36: the bytes of a header that begins with 7Eh, a malformed header, and HUNT to the RESYNC sequence. -/
theorem malformedHeadersLeadToHunt : Obligations.MalformedHeadersLeadToHunt := by
  unfold Obligations.MalformedHeadersLeadToHunt
  refine ⟨fun b s run port head => ?bytes, fun s => ⟨fun head => ?_, fun kind length head other bad => ?_,
    fun b hunt run empty => ?_⟩, fun bytes => ?_⟩
  case bytes =>
    intro hunts
    rw [takeByte_head b run head]
    have hunting (length : Word) : some (s.badHeader 0x7E length) = hunts length :=
      congrArg some (badHeader_port 0x7E length run port)
    refine ⟨fun start => ?_, fun one => ?_, fun two => ?_, fun three => ?_⟩
    · simp only [State.headByte, start]
      rfl
    · rw [← hunting]
      by_cases follows : b = 0x81#8 <;> simp [State.headByte, one, follows]
    · rw [← hunting]
      by_cases follows : b = 0x7E#8
      · simp [State.headByte, two, follows]
      · simp [State.headByte, two, follows, le]
    · rw [← hunting]
      have length : le 0x81 0x7E = 0x7E81 := by decide
      by_cases follows : b = 0x81#8
      · simp [State.headByte, three, follows, State.parserHead, port]
      · rw [← length]
        simp [State.headByte, three, follows]
  · exact congrArg _ (if_pos head)
  · obtain ⟨-, run, port, -⟩ := (atHead_iff s).1 head
    have malformed : (s.atHead && (kind != 0x7E && ((OrderKind.ofByte kind).isNone || decide (1040 < length.toNat))))
        = true := by
      have not_resync : kind ≠ 0x7E#8 := other
      rcases bad with unknown | long
      · simp [head, not_resync, unknown]
      · simp [head, not_resync, long]
    exact congrArg _ ((if_pos malformed).trans (badHeader_port kind length run port))
  · have taken : exec (.hunt b) s = .next (s.huntByte b) := congrArg _ (if_pos ⟨hunt, run, by simp [empty]⟩)
    obtain ⟨ends, on⟩ := huntByte_cases s b
    rw [taken]
    exact ⟨fun found => congrArg _ (ends found), fun missed => congrArg _ (on missed)⟩
  · exact hunted_iff bytes (m := 0) (by decide)

end Sys2Proof.Machine
end

section
/-! PROOF. The bytes of an order: its layout (R175), its collection (R176, R177), its holds (R178). -/

namespace Sys2Proof.Machine

/-! ## The layouts of the long bodies (R175) -/

theorem le16_toNat (w : Word) : le16 w.toNat = [lowByte w, highByte w] := rfl

theorem setup_layout (b : SetupBody) :
    let bytes := [lowByte b.geometry, highByte b.geometry, b.refresh, b.scrub, lowByte b.lowMark,
      highByte b.lowMark, b.lamp, b.settle, b.cutter, b.watermark]
    setupOf bytes = b ∧ setupBytes b = bytes := by
  intro bytes
  refine ⟨?_, rfl⟩
  have geometry : (setupOf bytes).geometry = b.geometry := le_lowByte_highByte _
  have lowMark : (setupOf bytes).lowMark = b.lowMark := le_lowByte_highByte _
  cases b
  simp only [setupOf] at geometry lowMark ⊢
  rw [geometry, lowMark]
  rfl

theorem move_layout (b : MoveBody) :
    let bytes := [b.motor, lowByte b.steps, highByte b.steps, b.direction, b.slot, b.top]
    moveOf bytes = b ∧ moveBytes b = bytes := by
  intro bytes
  refine ⟨?_, rfl⟩
  have steps : (moveOf bytes).steps = b.steps := le_lowByte_highByte _
  cases b
  simp only [moveOf] at steps ⊢
  rw [steps]
  rfl

theorem start_layout (b : StartBody) :
    let bytes := [b.slot, b.kind, b.options, b.pitch, b.top, b.code, b.heat, b.pfRamp, b.sfRamp
      , b.shade, b.page, lowByte b.reservation, highByte b.reservation, lowByte b.badLimit
      , highByte b.badLimit, lowByte b.minBits, highByte b.minBits, b.carrier, lowByte b.jam
      , highByte b.jam, lowByte b.lead, highByte b.lead, lowByte b.trail, highByte b.trail
      , lowByte b.eject, highByte b.eject, lowByte b.tail, highByte b.tail, lowByte b.maxLines
      , highByte b.maxLines]
    startOf bytes = b ∧ startBytes b = bytes := by
  intro bytes
  refine ⟨?_, rfl⟩
  cases b
  simp [bytes, startOf, le_lowByte_highByte]

/-! ## Orders whose body is complete (R177) -/

/-- What an order's bytes have the parser do, once neither held nor of another length (R177). -/
def State.orderEffect (s : State) (k : OrderKind) (body : List Byte) : Option State :=
  let b (i : Nat) : Byte := body.getD i 0
  match k with
  | .setup => some (s.takeSetup (setupOf body) false)
  | .tableDrop => some (s.takeTableDrop (b 0))
  | .pageDrop => s.takePageDrop (b 0)
  | .routeStart => s.takeStart (startOf body)
  | .routeHalt => some (s.takeHalt (b 0) (b 1))
  | .move => some (s.takeMove (moveOf body))
  | .cut => some s.takeCut
  | .level => some (s.takeLevel (b 0) (b 1))
  | .query => s.takeQuery (b 0) (b 1)
  | .mark => s.takeMark (le (b 0) (b 1))
  | .clear => some (s.takeClear (b 0))
  | .tableLoad | .data | .imageEnd | .malformed => some s

/-- An order of the length its row allows, not held, is taken by its kind. -/
theorem takeOrder_eq {s : State} {k : OrderKind} {body : List Byte} (other : k ≠ .imageEnd)
    (free : s.orderHeld k body = false) (length : k.bodyLength = some body.length) :
    s.takeOrder k body = s.orderEffect k body := by
  have fits : ¬k.bodyLength ≠ some body.length := not_not_intro length
  have not_held : ¬s.orderHeld k body = true := by simp [free]
  exact (if_neg other).trans ((if_neg not_held).trans (if_neg fits))

theorem takeHalt_badMode (s : State) {slot mode : Byte} (bad : 1 < mode.toNat) :
    s.takeHalt slot mode = s.queueReport (.refused .routeHalt .badField (number slot.toNat)) := by
  cases named : asFin 4 slot.toNat with
  | none => simp only [State.takeHalt, named]; rfl
  | some r => simp only [State.takeHalt, named, if_pos bad]; rfl

theorem takeLevel_badLevel (s : State) {level options : Byte} (bad : 1 < level.toNat) :
    s.takeLevel level options = s.queueReport (.refused .level .badField [level]) := by
  classical
  have refused : s.levelRefusal level options = some .badField := by
    rw [levelRefusal_eq, if_pos (levelBad_of (.inl bad))]
  simp only [State.takeLevel, refused, setByte, BitVec.ofNat_toNat, BitVec.setWidth_eq]
  rfl

theorem takeClear_badSubject (s : State) {subject : Byte} (bad : 2 < subject.toNat) :
    s.takeClear subject = s.queueReport (.refused .clear .badField [subject]) := by
  have refused : s.clearRefusal subject = some .badField := by
    unfold State.clearRefusal
    split
    · omega
    · omega
    · omega
    · rfl
  simp only [State.takeClear, refused, setByte, BitVec.ofNat_toNat, BitVec.setWidth_eq]
  rfl

/-- An order taken by its bytes is the order of its command (R177). -/
theorem takeOrder_commands (s : State) (k : OrderKind) (body : List Byte) :
    let now (c : Instr) (t : State) : Prop :=
      s.takeOrder k body = some t ∧ (s.atHead = true → exec c s = .next t)
    (k = .setup → body.length = 10 → s.takeOrder k body = some (s.takeSetup (setupOf body) false))
    ∧ (∀ b, k = .setup → body = setupBytes b → now (.setup b) (s.takeSetup b false))
    ∧ (∀ x, k = .tableDrop → body = [x] → now (.tableDrop x) (s.takeTableDrop x))
    ∧ (∀ x, k = .routeHalt → body = [x, 0] → now (.routeHaltFinish x) (s.takeHalt x 0))
    ∧ (∀ x, k = .routeHalt → body = [x, 1] → now (.routeHaltNow x) (s.takeHalt x 1))
    ∧ (∀ b, k = .move → body = moveBytes b → now (.move b) (s.takeMove b))
    ∧ (k = .cut → body = [] → now .cut s.takeCut)
    ∧ (∀ o, k = .level → body = [0, o] → now (.levelRun o) (s.takeLevel 0 o))
    ∧ (∀ o, k = .level → body = [1, o] → now (.levelDoze o) (s.takeLevel 1 o))
    ∧ (k = .clear → body = [0] → now .clearScanner (s.takeClear 0))
    ∧ (k = .clear → body = [1] → now .clearPrinter (s.takeClear 1))
    ∧ (k = .clear → body = [2] → now .clearPool (s.takeClear 2))
    ∧ (∀ x m : Byte, k = .routeHalt → body = [x, m] → 1 < m.toNat →
      s.takeOrder k body = some (s.queueReport (.refused .routeHalt .badField (number x.toNat))))
    ∧ (∀ l o : Byte, k = .level → body = [l, o] → 1 < l.toNat →
      s.takeOrder k body = some (s.queueReport (.refused .level .badField [l])))
    ∧ ∀ x : Byte, k = .clear → body = [x] → 2 < x.toNat →
      s.takeOrder k body = some (s.queueReport (.refused .clear .badField [x])) := by
  intro now
  have setup (b : SetupBody) : setupOf (setupBytes b) = b := (setup_layout b).2 ▸ (setup_layout b).1
  have move (b : MoveBody) : moveOf (moveBytes b) = b := (move_layout b).2 ▸ (move_layout b).1
  refine ⟨?_, ?_, ?_, ?_, ?_, ?_, ?_, ?_, ?_, ?_, ?_, ?_, ?_, ?_, ?_⟩
  · rintro rfl length
    exact takeOrder_eq (by decide) rfl (congrArg some length.symm)
  · rintro b rfl rfl
    refine ⟨(takeOrder_eq (by decide) rfl rfl).trans ?_, fun head => next_order head rfl⟩
    exact congrArg (fun x => some (s.takeSetup x false)) (setup b)
  · rintro x rfl rfl
    exact ⟨takeOrder_eq (by decide) rfl rfl, fun head => next_order head rfl⟩
  · rintro x rfl rfl
    exact ⟨takeOrder_eq (by decide) rfl rfl, fun head => next_order head rfl⟩
  · rintro x rfl rfl
    exact ⟨takeOrder_eq (by decide) rfl rfl, fun head => next_order head rfl⟩
  · rintro b rfl rfl
    refine ⟨(takeOrder_eq (by decide) rfl rfl).trans ?_, fun head => next_order head rfl⟩
    exact congrArg (fun x => some (s.takeMove x)) (move b)
  · rintro rfl rfl
    exact ⟨takeOrder_eq (by decide) rfl rfl, fun head => next_order head rfl⟩
  · rintro o rfl rfl
    exact ⟨takeOrder_eq (by decide) rfl rfl, fun head => next_order head rfl⟩
  · rintro o rfl rfl
    exact ⟨takeOrder_eq (by decide) rfl rfl, fun head => next_order head rfl⟩
  · rintro rfl rfl
    exact ⟨takeOrder_eq (by decide) rfl rfl, fun head => next_order head rfl⟩
  · rintro rfl rfl
    exact ⟨takeOrder_eq (by decide) rfl rfl, fun head => next_order head rfl⟩
  · rintro rfl rfl
    exact ⟨takeOrder_eq (by decide) rfl rfl, fun head => next_order head rfl⟩
  · rintro x m rfl rfl bad
    exact (takeOrder_eq (by decide) rfl rfl).trans (congrArg some (takeHalt_badMode s bad))
  · rintro l o rfl rfl bad
    exact (takeOrder_eq (by decide) rfl rfl).trans (congrArg some (takeLevel_badLevel s bad))
  · rintro x rfl rfl bad
    exact (takeOrder_eq (by decide) rfl rfl).trans (congrArg some (takeClear_badSubject s bad))

/-! ## The bytes of a record (R176, R178) -/

theorem code_of_ofByte {b : Byte} {k : OrderKind} (named : OrderKind.ofByte b = some k) : k.code = b.toNat := by
  simpa using List.find?_some named

theorem ofByte_ne_resync {b : Byte} {k : OrderKind} (named : OrderKind.ofByte b = some k) : b ≠ 0x7E := by
  rintro rfl
  have unnamed : OrderKind.ofByte 0x7E = none := by decide
  exact nomatch unnamed.symm.trans named

theorem takeByte_body {s : State} (b : Byte) (run : s.power.level = some .run) (body : s.parser.state = .body) :
    s.takeByte b = s.bodyByte b := by
  rw [takeByte_run b run, body]

/-- A header of a known kind (R176, R177). -/
theorem takeByte_headerDone {s : State} {b kind low : Byte} {k : OrderKind} (run : s.power.level = some .run)
    (port : s.parser.source = .port) (head : s.parser.state = .head) (header : s.parser.header = [kind, low])
    (named : OrderKind.ofByte kind = some k) :
    let n := wordOfBytes b low
    (n.toNat = 0 → s.takeByte b = s.parserHead.takeOrder k [])
    ∧ (0 < n.toNat → n.toNat ≤ 1040 →
      s.takeByte b = some { s with parser :=
        { s.parser with
          state := .body, header := [], kind := kind, length := n.toNat, body := [], taken := 0
          use := .collect } }) := by
  intro n
  have not_resync := ofByte_ne_resync named
  have begun : s.takeByte b = s.headerDone kind low b := by
    rw [takeByte_head b run head]
    simp only [State.headByte, header, if_neg not_resync]
  have known (few : n.toNat ≤ 1040) : ¬((OrderKind.ofByte kind).isNone || decide (1040 < n.toNat)) = true := by
    simp [named, few]
  have from_port : ¬(s.parser.source = .rom ∧ kind = 0x0E ∧ n ≠ 2) := by simp [port]
  rw [begun]
  refine ⟨fun zero => ?_, fun some_bytes few => ?_⟩
  · have empty : n = 0 := BitVec.eq_of_toNat_eq zero
    refine (if_neg (known (by omega))).trans ((if_neg from_port).trans ((if_pos empty).trans ?_))
    have source : s.parserHead.parser.source = .port := port
    simp only [State.dispatch, named, source]
  · have not_empty : n ≠ 0 := by
      intro empty
      rw [empty] at some_bytes
      exact absurd some_bytes (by decide)
    exact (if_neg (known few)).trans ((if_neg from_port).trans (if_neg not_empty))

theorem not_fourth {kind : Byte} {k : OrderKind} (named : OrderKind.ofByte kind = some k) (load : k ≠ .tableLoad)
    (data : k ≠ .data) : ¬(kind = 0x02 ∨ kind = 0x07) := by
  rintro (rfl | rfl)
  · exact load (Option.some.inj (named.symm.trans (by decide)))
  · exact data (Option.some.inj (named.symm.trans (by decide)))

/-- A byte collected for an order of another kind than those taken at their fourth byte (R177). -/
theorem bodyByte_collect {s : State} {b : Byte} (collect : s.parser.use = .collect)
    (plain : ¬(s.parser.kind = 0x02 ∨ s.parser.kind = 0x07) ∨ s.parser.body.length ≠ 3) :
    s.bodyByte b =
      if s.parser.length ≤ s.parser.taken + 1 then s.parserHead.dispatch s.parser.kind (s.parser.body ++ [b])
      else some { s with parser :=
        { s.parser with body := s.parser.body ++ [b], taken := s.parser.taken + 1 } } := by
  simp only [State.bodyByte, collect, decide_eq_true_eq]
  split
  · rename_i fourth
    have length := congrArg List.length fourth
    rw [List.length_append] at length
    rcases plain with other | short
    · rw [if_neg other, fourth]
    · exact absurd (by simpa using length) short
  · rfl

/-- An order's byte short of its last joins its body. -/
theorem takeByte_collects {s : State} {b : Byte} {k : OrderKind} (run : s.power.level = some .run)
    (body : s.parser.state = .body) (collect : s.parser.use = .collect)
    (named : OrderKind.ofByte s.parser.kind = some k) (more : s.parser.taken + 1 < s.parser.length)
    (plain : (k ≠ .tableLoad ∧ k ≠ .data) ∨ s.parser.body.length ≠ 3) :
    s.takeByte b = some { s with parser :=
      { s.parser with body := s.parser.body ++ [b], taken := s.parser.taken + 1 } } := by
  have plain' := plain.imp_left fun other => not_fourth named other.1 other.2
  rw [takeByte_body b run body, bodyByte_collect collect plain', if_neg (Nat.not_le.2 more)]

/-- An order's last byte has it taken. -/
theorem takeByte_last {s : State} {b : Byte} {k : OrderKind} (run : s.power.level = some .run)
    (port : s.parser.source = .port) (body : s.parser.state = .body) (collect : s.parser.use = .collect)
    (named : OrderKind.ofByte s.parser.kind = some k) (load : k ≠ .tableLoad) (data : k ≠ .data)
    (last : s.parser.length = s.parser.taken + 1) :
    s.takeByte b = s.parserHead.takeOrder k (s.parser.body ++ [b]) := by
  have source : s.parserHead.parser.source = .port := port
  rw [takeByte_body b run body, bodyByte_collect collect (.inl (not_fourth named load data)), if_pos (Nat.le_of_eq last)]
  simp only [State.dispatch, named, source]

/-- A byte placed short of the last of its DATA, or held (R68, R178). -/
theorem takeByte_places {s : State} {b : Byte} {r : RouteNo} {final : Bool} (run : s.power.level = some .run)
    (body : s.parser.state = .body) (place : s.parser.use = .place r final) (own : s.hostIn.slot = some r)
    (live : (s.route r).live = true) :
    (∀ high, s.hostIn.half = some high → 64 ≤ s.hostIn.queue.length → s.takeByte b = none)
    ∧ (s.parser.taken + 1 < s.parser.length →
      (s.hostIn.half = none →
        s.takeByte b = some
          { s with
            hostIn := { s.hostIn with half := some b, taken := s.hostIn.taken + 1 }
            parser := { s.parser with taken := s.parser.taken + 1 } })
      ∧ ∀ high, s.hostIn.half = some high → s.hostIn.queue.length < 64 →
        s.takeByte b = some
          { s with
            hostIn :=
              { s.hostIn with
                half := none, queue := s.hostIn.queue ++ [wordOfBytes high b]
                taken := s.hostIn.taken + 1 }
            parser := { s.parser with taken := s.parser.taken + 1 } }) := by
  rw [takeByte_body b run body]
  simp only [State.bodyByte, place]
  have taken : ¬(s.hostIn.slot ≠ some r ∨ (s.route r).live = false) := by simp [own, live]
  refine ⟨fun high half full => ?_, fun more => ⟨fun half => ?_, fun high half room => ?_⟩⟩
  · simp only [State.placeByte, if_neg taken, half]
    rw [if_neg (show ¬s.hostIn.queue.length < Config.hostInCap from Nat.not_lt.2 full)]
    rfl
  · have place_eq : s.placeByte r b = some { s with hostIn := s.hostIn.add b } := by
      simp only [State.placeByte, if_neg taken, HostIn.add, half]
    simp [place_eq, HostIn.add, half, Nat.not_le.2 more, place]
  · have place_eq : s.placeByte r b = some { s with hostIn := s.hostIn.add b } := by
      simp only [State.placeByte, if_neg taken, HostIn.add, half]
      exact if_pos room
    simp [place_eq, HostIn.add, half, Nat.not_le.2 more, place]

/-! ## Bytes at the port (R148, R178) -/

/-- Short of RUN a parser at PORT takes no byte. -/
theorem pump_stalled (n : Nat) {s : State} (port : s.parser.source = .port) (level : s.power.level ≠ some .run) :
    State.pump n s = s := by
  cases n with
  | zero => rfl
  | succ n =>
    cases fifo : s.port.inFifo with
    | nil => exact pump_of_empty _ fifo
    | cons b rest =>
      have stalls : ({ s with port := { s.port with inFifo := rest } } : State).takeByte b = none :=
        if_pos ⟨port, level⟩
      simp only [State.pump, fifo, stalls]

theorem exec_inboundByte (s : State) (b : Byte) : exec (.inboundByte b) s = .next (s.inbound b) := rfl

theorem exec_stallEnd_eq (s : State) : exec .stallEnd s = .next (State.pump Config.streamFifoCap s).react := rfl

theorem exec_inbound_waits {s : State} {b : Byte} (ready : s.inboundReady = true) (port : s.parser.source = .port)
    (level : s.power.level ≠ some .run) :
    exec (.inboundByte b) s = .next
      ((({ s with port := { s.port with inFifo := s.port.inFifo ++ [b] } }.takeWake .stream).react).resume
        s.power.level) := by
  have stays := pump_stalled Config.streamFifoCap
    (s := { s with port := { s.port with inFifo := s.port.inFifo ++ [b] } }) port level
  have waits : ¬(s.port.inFifo ++ [b]).isEmpty = true := by simp
  have taken : s.inbound b = _ := if_pos ready
  rw [exec_inboundByte, taken]
  dsimp only
  rw [stays, if_neg waits]

/-- The end of a stall, with a byte in the FIFO (R178). -/
theorem exec_stallEnd {s : State} {b : Byte} {rest : List Byte} (fifo : s.port.inFifo = b :: rest) :
    let u : State := { s with port := { s.port with inFifo := rest } }
    (u.takeByte b = none → exec .stallEnd s = .next s.react)
    ∧ ∀ t, u.takeByte b = some t → t.port.inFifo = [] → exec .stallEnd s = .next t.react := by
  intro u
  have pumped : State.pump Config.streamFifoCap s = match u.takeByte b with
      | some t => State.pump 63 t
      | none => s := by
    rw [show Config.streamFifoCap = 63 + 1 from rfl, State.pump]
    simp only [fifo]
    rfl
  refine ⟨fun stalls => ?_, fun t taken empty => ?_⟩
  · rw [exec_stallEnd_eq, pumped, stalls]
  · rw [exec_stallEnd_eq, pumped, taken]
    dsimp only
    rw [pump_of_empty 63 empty]

/-! ## Holds (R178) -/

theorem orderHeld_iff (s : State) (k : OrderKind) (body : List Byte) :
    s.orderHeld k body = true ↔
      (k = .query ∧ s.holdsKind 0x8B = true) ∨ (k = .mark ∧ s.holdsKind 0x8C = true)
        ∨ (k = .routeStart ∧ (∃ b, body[1]? = some b ∧ routeKindOf b = some .hostStore)
          ∧ 16 < s.pool.dirQueue.length + 2) := by
  cases k
  case routeStart =>
    simp only [State.orderHeld, Bool.and_eq_true, beq_iff_eq, Option.bind_eq_some_iff, decide_eq_true_iff]
    simp
    exact fun _ _ _ => Iff.rfl
  all_goals simp [State.orderHeld]

theorem takeOrder_held {s : State} {k : OrderKind} {body : List Byte} (other : k ≠ .imageEnd)
    (held : s.orderHeld k body = true) : s.takeOrder k body = none :=
  (if_neg other).trans (if_pos held)

theorem takePageDrop_held {s : State} {x : Byte} {p : PageNo} (named : asFin 32 x.toNat = some p)
    (accepted : s.dropPageRefusal x = none) :
    s.takePageDrop x = none ↔
      s.dirPlaces < if (s.page p).readers = 0 then s.freeNeed p else s.imageNeed p := by
  simp only [State.takePageDrop, accepted, named]
  generalize (if (s.page p).readers = 0 then s.freeNeed p else s.imageNeed p) = need
  by_cases fits : need ≤ s.dirPlaces
  · rw [if_pos fits]
    exact iff_of_false nofun (Nat.not_lt.2 fits)
  · rw [if_neg fits]
    exact iff_of_true rfl (Nat.not_le.1 fits)

/-- Settles O37: the layouts, the header and body of a record, the bytes at the port, the orders taken and held. -/
theorem inboundBytesReachTheParser : Obligations.InboundBytesReachTheParser := by
  unfold Obligations.InboundBytesReachTheParser
  refine ⟨takeOrder_commands, ⟨setup_layout, move_layout, start_layout⟩, fun b s run port => ?record,
    fun b s => ?port, fun b s run port => ?bytes, fun s k body => ?held⟩
  case record =>
    refine ⟨fun kind head header other => ?_, fun kind low k head header named =>
      takeByte_headerDone run port head header named,
      fun k body collect named more plain => takeByte_collects run body collect named more plain⟩
    have not_resync : ¬(kind = 0x7E ∧ b ≠ 0x81) := fun h => other h.1
    rw [takeByte_head b run head]
    simp only [State.headByte, header, if_neg not_resync]
    rfl
  case port =>
    refine ⟨fun head => ?_, fun ready port level => exec_inbound_waits ready port level, fun closed => ?_,
      fun port level => ?_, fun rest fifo => exec_stallEnd fifo⟩
    · obtain ⟨ready, run, -, parser, header, empty⟩ := (atHead_iff s).1 head
      have taken : s.takeByte b = some { s with parser := { s.parser with header := [b] } } := by
        rw [takeByte_head b run parser]
        simp only [State.headByte, header]
        rfl
      rw [exec_inboundByte, inbound_of_taken ready run empty taken empty]
    · have shut : ¬s.inboundReady = true := by simp [closed]
      have stays : s.inbound b = s := if_neg shut
      rw [exec_inboundByte, stays]
    · rw [exec_stallEnd_eq, pump_stalled _ port level]
  case bytes =>
    refine ⟨fun head header => ?_, fun body => ⟨fun k collect named load data last =>
      takeByte_last run port body collect named load data last,
      fun r final place own live => takeByte_places run body place own live⟩⟩
    rw [takeByte_head b run head]
    simp only [State.headByte, header]
    rfl
  case held =>
    refine ⟨orderHeld_iff s k body, takeOrder_held, fun free => ⟨?_, ?_, ?_, ?_⟩,
      fun x p named accepted => takePageDrop_held named accepted⟩
    · rintro x y rfl rfl
      exact takeOrder_eq (by decide) free rfl
    · rintro x y rfl rfl
      exact takeOrder_eq (by decide) free rfl
    · rintro rfl length
      exact takeOrder_eq (by decide) free (congrArg some length.symm)
    · rintro x rfl rfl
      exact takeOrder_eq (by decide) free rfl

end Sys2Proof.Machine
end

section
/-! PROOF. Reports and DATA reports leave as records (R69, R175, R183). -/

namespace Sys2Proof.Machine

/-! ## The Report Queue's oldest shown entry (R183) -/

theorem oldestShown_split {front : List QueueEntry} (back : List QueueEntry) {e : QueueEntry}
    (withheld : ∀ y ∈ front, y.withheld = true) (shown : e.withheld = false) :
    oldestShown (front ++ e :: back) = some (e, front ++ back) := by
  induction front with
  | nil => simp [oldestShown, shown]
  | cons y rest ih =>
    have first := withheld y List.mem_cons_self
    simp [oldestShown, first, ih fun z mem => withheld z (List.mem_cons_of_mem y mem)]

theorem oldestShown_none {q : List QueueEntry} (withheld : ∀ y ∈ q, y.withheld = true) : oldestShown q = none := by
  induction q with
  | nil => rfl
  | cons y rest ih =>
    have first := withheld y List.mem_cons_self
    simp [oldestShown, first, ih fun z mem => withheld z (List.mem_cons_of_mem y mem)]

/-! ## Bytes into the outbound FIFO (R69, R183) -/

/-- A state with its record under way, its outbound FIFO and its PAGE-HOST flow as they are now. -/
def State.sending (s : State) (fifo : List Byte) (record : Option OutRecord) (h : HostOut) : State :=
  { s with port := { s.port with outFifo := fifo, record := record }, hostOut := h }

theorem outPass_none (n : Nat) {s : State} (idle : s.port.record = none) : State.outPass n s = s := by
  cases n with
  | zero => rfl
  | succ n => simp only [State.outPass, idle]

/-- The multiplexer's bytes join the FIFO, and change its record and the flow of PAGE-HOST alone. -/
theorem outPass_sending (n : Nat) (s : State) :
    ∃ bytes record h, State.outPass n s = s.sending (s.port.outFifo ++ bytes) record h := by
  induction n generalizing s with
  | zero => exact ⟨[], s.port.record, s.hostOut, by simp [State.outPass, State.sending]⟩
  | succ n ih =>
    have stays : ∃ bytes record h, s = s.sending (s.port.outFifo ++ bytes) record h :=
      ⟨[], s.port.record, s.hostOut, by simp [State.sending]⟩
    cases record : s.port.record with
    | none => rwa [outPass_none _ record]
    | some x =>
      simp only [State.outPass, record]
      split
      · split
        · rename_i b t drawn
          obtain ⟨record', h', draw⟩ : ∃ record h, t = s.sending s.port.outFifo record h := by
            unfold State.drawByte at drawn
            split at drawn
            · cases drawn; exact ⟨_, s.hostOut, rfl⟩
            · split at drawn
              · dsimp only at drawn
                split at drawn
                · cases drawn
                · split at drawn
                  · cases drawn; exact ⟨_, s.hostOut, rfl⟩
                  · split at drawn
                    · cases drawn
                    · obtain ⟨⟨c, h⟩, -, eq⟩ := Option.map_eq_some_iff.1 drawn
                      cases eq
                      exact ⟨_, h, rfl⟩
              · cases drawn
          obtain ⟨bytes, record'', h'', rest⟩ := ih (t.putOut b)
          refine ⟨b :: bytes, record'', h'', ?_⟩
          rw [rest, draw]
          simp [State.sending, State.putOut]
        · exact stays
      · exact stays

/-- A report's bytes join the FIFO but for its last, as places allow. -/
theorem outPass_report (n : Nat) {s : State} {bytes : List Byte}
    (record : s.port.record = some { bytes := bytes, data := none }) (some_bytes : bytes ≠ []) :
    ∃ sent left, bytes = sent ++ left ∧ left ≠ [] ∧
      State.outPass n s = s.sending (s.port.outFifo ++ sent) (some { bytes := left, data := none }) s.hostOut := by
  induction n generalizing s bytes with
  | zero => exact ⟨[], bytes, rfl, some_bytes, by simp [State.outPass, State.sending, ← record]⟩
  | succ n ih =>
    have stays : ∃ sent left, bytes = sent ++ left ∧ left ≠ [] ∧
        s = s.sending (s.port.outFifo ++ sent) (some { bytes := left, data := none }) s.hostOut :=
      ⟨[], bytes, rfl, some_bytes, by simp [State.sending, ← record]⟩
    simp only [State.outPass, record]
    split
    · rename_i runs
      obtain ⟨b, rest, rfl⟩ := List.exists_cons_of_ne_nil some_bytes
      have more : rest ≠ [] := by
        rintro rfl
        simp [OutRecord.remaining] at runs
      obtain ⟨sent, left, split_eq, more', passed⟩ := ih
        (s := s.sending (s.port.outFifo ++ [b]) (some { bytes := rest, data := none }) s.hostOut) rfl more
      refine ⟨b :: sent, left, congrArg (b :: ·) split_eq, more', passed.trans ?_⟩
      simp [State.sending]
    · exact stays

/-! ## Page bytes (R69) -/

/-- The page bytes that HOST-OUT's queue holds, bits beyond the bit length sent as zeros. -/
def HostOut.stream (h : HostOut) : List Byte :=
  ((h.fetch.queue.flatMap wordBytes).drop h.lowNext.toNat).mapIdx fun i b => maskByte h.bitLength (h.sent + i) b

/-- The next byte, short of the page's last, is the first of those the queue holds. -/
theorem nextByte_stream {h h' : HostOut} {b : Byte} (next : h.nextByte = some (b, h'))
    (more : h.sent + 1 < pageBytes h.bitLength) :
    h.stream = b :: h'.stream ∧ h' = { h with lowNext := h'.lowNext, sent := h.sent + 1, fetch := h'.fetch } := by
  unfold HostOut.nextByte at next
  have not_last : (h.sent + 1 == pageBytes h.bitLength) = false := by simp; omega
  cases queue : h.fetch.queue with
  | nil => simp [queue] at next
  | cons w rest =>
    simp only [queue, not_last, Bool.or_false] at next
    obtain ⟨rfl, rfl⟩ := Prod.mk.inj (Option.some.inj next)
    refine ⟨?_, rfl⟩
    have shift : (fun i c => maskByte h.bitLength (h.sent + (i + 1)) c)
        = fun i c => maskByte h.bitLength (h.sent + 1 + i) c := by
      funext i c
      rw [Nat.add_comm i 1, Nat.add_assoc]
    cases low : h.lowNext
    · simp only [HostOut.stream, queue, low, wordBytes, List.flatMap_cons]
      exact (List.mapIdx_cons ..).trans (congrArg (_ :: ·) (congrArg (List.mapIdx · _) shift))
    · simp only [HostOut.stream, queue, low, wordBytes, List.flatMap_cons]
      exact (List.mapIdx_cons ..).trans (congrArg (_ :: ·) (congrArg (List.mapIdx · _) shift))

/-- A page byte drawn for a DATA report. -/
theorem drawByte_page {s : State} {d : DataOut} {drawn : Byte × State} (some_left : d.left ≠ 0)
    (open_ : d.cutShort = false) (draw : s.drawByte { bytes := [], data := some d } = some drawn) :
    ∃ b h, s.hostOut.nextByte = some (b, h) ∧ drawn = (b, s.sending s.port.outFifo
      (some { bytes := [], data := some { d with left := d.left - 1 } }) h) := by
  have not_cut : ¬d.cutShort = true := by simp [open_]
  simp only [State.drawByte, if_neg some_left, if_neg not_cut] at draw
  split at draw
  · cases draw
  · obtain ⟨⟨b, h⟩, next, eq⟩ := Option.map_eq_some_iff.1 draw
    exact ⟨b, h, next, eq.symm⟩

/-- How far a DATA report has come: `k` of its page bytes drawn, from a state and header bytes left. -/
structure DataDrawn (s t : State) (bytes : List Byte) (d : DataOut) (k : Nat) (left : List Byte) (h : HostOut) :
    Prop where
  state : t = s.sending t.port.outFifo (some { bytes := left, data := some { d with left := d.left - k } }) h
  few : k ≤ d.left
  held : k ≤ s.hostOut.stream.length
  flow : h = { s.hostOut with lowNext := h.lowNext, sent := s.hostOut.sent + k, fetch := h.fetch }
  header : left <:+ bytes
  whole : 0 < k → left = []
  fifo : t.port.outFifo ++ left = s.port.outFifo ++ bytes ++ s.hostOut.stream.take k

theorem DataDrawn.none {s : State} {bytes : List Byte} {d : DataOut}
    (record : s.port.record = some { bytes := bytes, data := some d }) :
    DataDrawn s s bytes d 0 bytes s.hostOut where
  state := by simp [State.sending, ← record]
  few := Nat.zero_le _
  held := Nat.zero_le _
  flow := rfl
  header := List.suffix_refl _
  whole := nofun
  fifo := by simp

/-- A DATA report's header and page bytes join the FIFO, but for its last byte, as places and words allow (R69). -/
theorem outPass_data (n : Nat) {s : State} {bytes : List Byte} {d : DataOut}
    (record : s.port.record = some { bytes := bytes, data := some d }) (open_ : d.cutShort = false)
    (ahead : 1 < d.left → s.hostOut.sent + d.left ≤ pageBytes s.hostOut.bitLength) :
    ∃ k left h, DataDrawn s (State.outPass n s) bytes d k left h := by
  induction n generalizing s bytes d with
  | zero => exact ⟨0, bytes, s.hostOut, .none record⟩
  | succ n ih =>
    simp only [State.outPass, record]
    split
    · rename_i runs
      cases bytes with
      | cons b rest =>
        let u := s.sending (s.port.outFifo ++ [b]) (some { bytes := rest, data := some d }) s.hostOut
        obtain ⟨k, left, h, drawn⟩ := ih (s := u) rfl open_ ahead
        refine ⟨k, left, h, ⟨drawn.state, drawn.few, drawn.held, drawn.flow,
          drawn.header.trans (List.suffix_cons b rest), drawn.whole, drawn.fifo.trans ?_⟩⟩
        simp [u, State.sending]
      | nil =>
        have more : 2 ≤ d.left := by
          simp only [OutRecord.remaining, Bool.and_eq_true, decide_eq_true_iff] at runs
          have two : 1 < d.left := by simpa using runs.1.2
          exact two
        have some_left : d.left ≠ 0 := by omega
        cases draw : s.drawByte { bytes := [], data := some d } with
        | none => exact ⟨0, [], s.hostOut, .none record⟩
        | some drawn =>
            obtain ⟨b, h, next, rfl⟩ := drawByte_page some_left open_ draw
            have inside := ahead more
            obtain ⟨stream, flow⟩ := nextByte_stream next (by omega)
            let d' : DataOut := { d with left := d.left - 1 }
            let u := s.sending (s.port.outFifo ++ [b]) (some { bytes := [], data := some d' }) h
            have sent : h.sent = s.hostOut.sent + 1 := by rw [flow]
            have bitLength : h.bitLength = s.hostOut.bitLength := by rw [flow]
            have ahead' : 1 < d'.left → h.sent + d'.left ≤ pageBytes h.bitLength := by
              intro _
              rw [sent, bitLength]
              simp only [d']
              omega
            obtain ⟨k, left, h', drawn⟩ := ih (s := u) rfl open_ ahead'
            have empty : left = [] := List.suffix_nil.1 drawn.header
            have few : k ≤ d.left - 1 := drawn.few
            have held : k ≤ h.stream.length := drawn.held
            refine ⟨k + 1, left, h', ⟨?_, by omega, ?_, ?_, drawn.header, fun _ => empty, ?_⟩⟩
            · have taken : d'.left - k = d.left - (k + 1) := by rw [Nat.sub_sub, Nat.add_comm 1 k]
              have passed := drawn.state
              rw [taken] at passed
              exact passed
            · rw [stream, List.length_cons]
              omega
            · have flow' := drawn.flow
              change h' = { h with lowNext := h'.lowNext, sent := h.sent + k, fetch := h'.fetch } at flow'
              rw [flow', flow]
              simp only [Nat.add_assoc, Nat.add_comm k 1]
            · refine drawn.fifo.trans ?_
              rw [stream]
              simp [u, State.sending]
    · exact ⟨0, bytes, s.hostOut, .none record⟩

theorem bitsOfByte_length (b : Byte) : (bitsOfByte b).length = 8 := by simp [bitsOfByte, bitsOfNat]

theorem bitsOfByte_byteOfBits {bs : Bits} (eight : bs.length = 8) : bitsOfByte (byteOfBits bs) = bs := by
  have small : natOfBits bs < 2 ^ 8 := eight ▸ natOfBits_lt bs
  have value : (byteOfBits bs).toNat = natOfBits bs := by
    rw [byteOfBits, BitVec.toNat_ofNat]
    exact Nat.mod_eq_of_lt small
  rw [bitsOfByte, value, ← eight, bitsOfNat_natOfBits]

/-- A page byte as it is sent: its bits at or beyond the bit length are zeros (R69). -/
theorem bitsOfByte_maskByte (bitLength sent : Nat) (b : Byte) :
    bitsOfByte (maskByte bitLength sent b)
      = (bitsOfByte b).mapIdx fun i x => x && decide (8 * sent + i < bitLength) := by
  have length := bitsOfByte_length b
  unfold maskByte
  dsimp only
  split
  · rename_i all
    refine List.ext_getElem (by simp) fun i inside _ => ?_
    have real : 8 * sent + i < bitLength := by omega
    simp [real]
  · rename_i short
    rw [bitsOfByte_byteOfBits (by simp [length]; omega)]
    refine List.ext_getElem (by simp [length]; omega) fun i inside inside' => ?_
    have few : i < 8 := by simpa [length] using inside'
    by_cases real : 8 * sent + i < bitLength
    · rw [List.getElem_append_left (by simp [length]; omega)]
      simp [real]
    · rw [List.getElem_append_right (by simp [length]; omega)]
      simp [real]

/-! ## A record begins and ends (R69, R183) -/

theorem record_length (e : QueueEntry) : e.record ≠ [] := nofun

theorem beginRecord_report {s : State} {front back : List QueueEntry} {e : QueueEntry} (idle : s.port.record = none)
    (may : s.mayBegin = true) (queue : s.reports = front ++ e :: back) (withheld : ∀ y ∈ front, y.withheld = true)
    (shown : e.withheld = false) :
    s.beginRecord = State.outPass Config.streamFifoCap
      { s with
        reports := front ++ back
        port := { s.port with record := some { bytes := e.record, data := none } } } := by
  have oldest := oldestShown_split back withheld shown
  rw [← queue] at oldest
  simp only [State.beginRecord, idle, may, oldest]
  rfl

/-- The last byte of a record drawn (R183). -/
theorem completeRecord_drawn {s t : State} {x : OutRecord} {b : Byte} (record : s.port.record = some x)
    (one : x.remaining = 1) (runs : s.muxRuns = true) (room : s.port.outFifo.length < 64)
    (draw : s.drawByte x = some (b, t)) :
    s.completeRecord
      = ({ t with port := { t.port with outFifo := t.port.outFifo ++ [b], record := none } } : State).dataDone
          x.data := by
  have ready : (s.muxRuns && x.remaining == 1 && decide (s.port.outFifo.length < Config.streamFifoCap)) = true := by
    simp [runs, one, Config.streamFifoCap, room]
  simp only [State.completeRecord, record]
  rw [if_pos ready, draw]
  rfl

theorem exec_recordComplete (s : State) : exec .recordComplete s = .next s.completeRecord.react := rfl

theorem exec_reportRecordBegin (s : State) : exec .reportRecordBegin s = .next s.beginRecord := rfl

/-- The last page byte of a DATA report (R69, R74). -/
theorem completeRecord_page {s : State} {d : DataOut} {w : Word} {rest : List Word}
    (record : s.port.record = some { bytes := [], data := some d }) (one : d.left = 1) (runs : s.muxRuns = true)
    (room : s.port.outFifo.length < 64) (open_ : d.cutShort = false) (free : s.heldByDamage d.slot = false)
    (queue : s.hostOut.fetch.queue = w :: rest) :
    let h := s.hostOut
    let byte := maskByte h.bitLength h.sent (if h.lowNext then lowByte w else highByte w)
    let gone : Bool := h.lowNext || h.sent + 1 == (h.bitLength + 7) / 8
    let u : State :=
      { s with
        port := { s.port with outFifo := s.port.outFifo ++ [byte], record := none }
        hostOut :=
          { h with
            lowNext := !h.lowNext, sent := h.sent + 1
            fetch := { h.fetch with queue := if gone then rest else w :: rest } } }
    s.completeRecord
      = if d.final = true ∨ (s.route d.slot).halt = .finish then u.completeRoute d.slot false none else u := by
  intro h byte gone u
  have not_cut : ¬d.cutShort = true := by simp [open_]
  have not_held : ¬s.heldByDamage d.slot = true := by simp [free]
  have some_left : ¬d.left = 0 := by omega
  have draw : s.drawByte { bytes := [], data := some d } = some (byte, { s with
      port := { s.port with record := some { bytes := [], data := some { d with left := d.left - 1 } } }
      hostOut := u.hostOut }) := by
    simp only [State.drawByte, if_neg some_left, if_neg not_cut, if_neg not_held, HostOut.nextByte, queue,
      Option.map_some]
    rfl
  rw [completeRecord_drawn record (by simp [OutRecord.remaining, one]) runs room draw]
  simp [State.dataDone, open_]
  rfl

/-! ## The layouts of the reports (R175, R182) -/

/-- A report of an event is laid out by its kind, subject, event and fields. -/
theorem laidOut_of {x : Report} {kind subject event : Nat} {fields : List (List Byte)}
    (body : ∀ count, x.body count = setByte x.subject ++ setByte x.event ++ setByte count ++ x.fields)
    (kind_eq : x.kindCode = kind) (subject_eq : x.subject = subject) (event_eq : x.event = event)
    (fields_eq : x.fields = fields.flatten) : x.LaidOut kind subject event fields := by
  intro count withheld
  simp only [QueueEntry.record, body, kind_eq, subject_eq, event_eq, fields_eq]
  rfl

theorem orderKind_subject (k : OrderKind) : k.code
    = [OrderKind.malformed, .setup, .tableLoad, .tableDrop, .pageDrop, .routeStart, .routeHalt, .data, .move, .cut
      , .level, .query, .mark, .clear, .imageEnd].idxOf k := by
  cases k <;> rfl

theorem refused_event (c : Refused) : c.ctorIdx + 1
    = [Refused.badField, .notInBoot, .bootOnly, .slotBusy, .engineBusy, .engineFault, .noPaper, .tableNotReady
      , .tableKind, .noRoom, .tableBound, .pageState, .pagesPresent, .level, .motion, .noRoute
      , .busy].idxOf c + 1 := by
  cases c <;> rfl

theorem ended_fields (r : RouteNo) (kind : Option RouteKind) (outcome : Outcome) (cause : Option Cause) (mark : Bool)
    (page : Option PageNo) (lines bad : Nat) :
    (Report.ended r kind outcome cause mark page lines bad).LaidOut 0x82 r 6
      [namedByte [.scanStore, .copy, .printPage, .lineReceive, .lineSend, .hostStore, .pageHost] kind
      , namedByte [.done, .halted, .failed] (some outcome)
      , namedByte [.noPage, .poolOut, .carrier, .jam, .paper, .cover, .memory, .cutter] cause
      , flagByte mark, numberOpt (page.map Fin.val), number lines, number bad] := by
  have outcome_eq := namedByte_some (listed := [Outcome.done, .halted, .failed]) (place := Outcome.ctorIdx)
    (fun v => by cases v <;> rfl) outcome
  have cause_eq := namedByte_opt
    (listed := [Cause.noPage, .poolOut, .carrier, .jam, .paper, .cover, .memory, .cutter]) (place := Cause.ctorIdx)
    (fun v => by cases v <;> rfl) cause
  refine laidOut_of (fun _ => rfl) rfl rfl rfl ?_
  simp only [Report.fields, kind_byte, outcome_eq, cause_eq, List.flatten_cons, List.flatten_nil, List.append_nil,
    List.append_assoc]

theorem route_layouts (r : RouteNo) :
    (Report.routeArmed r).LaidOut 0x82 r 1 [] ∧ (Report.routeRunning r).LaidOut 0x82 r 2 []
    ∧ (Report.routeStalled r).LaidOut 0x82 r 3 [] ∧ (Report.routeHalting r).LaidOut 0x82 r 4 []
    ∧ (∀ page lines, (Report.pageDone r page lines).LaidOut 0x82 r 5
      [numberOpt (page.map Fin.val), number lines])
    ∧ (∀ kind outcome cause mark page lines bad,
      (Report.ended r kind outcome cause mark page lines bad).LaidOut 0x82 r 6
        [namedByte [.scanStore, .copy, .printPage, .lineReceive, .lineSend, .hostStore, .pageHost] kind
        , namedByte [.done, .halted, .failed] (some outcome)
        , namedByte [.noPage, .poolOut, .carrier, .jam, .paper, .cover, .memory, .cutter] cause
        , flagByte mark, numberOpt (page.map Fin.val), number lines, number bad])
    ∧ (∀ n, (Report.overrun r n).LaidOut 0x82 r 7 [number n])
    ∧ (∀ n, (Report.underrun r n).LaidOut 0x82 r 8 [number n])
    ∧ (∀ bad consecutive,
      (Report.badLines r bad consecutive).LaidOut 0x82 r 9 [number bad, number consecutive]) := by
  have plain {x : Report} {event : Nat} (body : ∀ count, x.body count
      = setByte x.subject ++ setByte x.event ++ setByte count ++ x.fields) (kind : x.kindCode = 0x82)
      (subject : x.subject = r) (event_eq : x.event = event) (none_ : x.fields = []) :
      x.LaidOut 0x82 r event [] := laidOut_of body kind subject event_eq none_
  refine ⟨plain (fun _ => rfl) rfl rfl rfl rfl, plain (fun _ => rfl) rfl rfl rfl rfl,
    plain (fun _ => rfl) rfl rfl rfl rfl, plain (fun _ => rfl) rfl rfl rfl rfl, fun page lines => ?_, ended_fields r,
    fun n => ?_, fun n => ?_, fun bad consecutive => ?_⟩
  all_goals
    refine laidOut_of (fun _ => rfl) rfl rfl rfl ?_
    simp only [Report.fields, List.flatten_cons, List.flatten_nil, List.append_nil]

theorem memory_layout (x : LogRecord) : (Report.memory x).LaidOut 0x85 0 1
    [namedByte [.corrected, .uncorrectable] (some x.cls), number x.block, number x.offset
    , number x.syndrome
    , namedByte [.lineTx, .printFetch, .directory, .hostOut, .scrub, .boot] (some x.client)] :=
  laidOut_of (fun _ => rfl) rfl rfl rfl (logFields_eq x)

theorem levelRun_layout (first : Option WakeCause) (causes : List WakeCause) (abandoned : Bool) :
    (Report.levelRun first causes abandoned).LaidOut 0x87 0 1
      [namedByte [.stream, .wake, .docIn, .cover, .error, .line] first
      , [.stream, .wake, .docIn, .cover, .error, .line].flatMap fun c => flagByte (causes.contains c)
      , flagByte abandoned] := by
  have first_eq := namedByte_opt (listed := [WakeCause.stream, .wake, .docIn, .cover, .error, .line])
    (place := WakeCause.ctorIdx) (fun v => by cases v <;> rfl) first
  refine laidOut_of (fun _ => rfl) rfl rfl rfl ?_
  simp only [Report.fields, first_eq, causeSet, List.flatten_cons, List.flatten_nil, List.append_nil,
    List.append_assoc]

theorem boot_layout (warm : Bool) (reason : Option ColdReason) (rom : RomOutcome) (kept discarded free ready : Nat) :
    (Report.boot warm reason rom kept discarded free ready).LaidOut 0x89 0 1
      [[if warm then 1 else 0]
      , namedByte [.flag, .headerError, .signature, .geometry, .marker] reason
      , namedByte [.good, .absent, .bad] (some rom), number kept, number discarded, number free
      , number ready] := by
  have warm_eq : setByte warm.toNat = [if warm then 1 else 0] := by cases warm <;> rfl
  have reason_eq := namedByte_opt (listed := [ColdReason.flag, .headerError, .signature, .geometry, .marker])
    (place := ColdReason.ctorIdx) (fun v => by cases v <;> rfl) reason
  have rom_eq := namedByte_some (listed := [RomOutcome.good, .absent, .bad]) (place := RomOutcome.ctorIdx)
    (fun v => by cases v <;> rfl) rom
  refine laidOut_of (fun _ => rfl) rfl rfl rfl ?_
  simp only [Report.fields, warm_eq, reason_eq, rom_eq, List.flatten_cons, List.flatten_nil, List.append_nil,
    List.append_assoc]

theorem table_layouts (t : TableNo) (kind : TableKind) (sum : Nat) :
    let fields := [number t, namedByte [.code, .heat, .ramp, .shade] (some kind), number sum]
    (Report.tableReady t kind sum).LaidOut 0x8A 0 1 fields
    ∧ (Report.tableCheck t kind sum).LaidOut 0x8A 0 2 fields
    ∧ ∀ test, (Report.tableForm t kind sum test).LaidOut 0x8A 0 3 (fields ++ [number test]) := by
  intro fields
  have kind_eq := namedByte_some (listed := [TableKind.code, .heat, .ramp, .shade]) (place := TableKind.ctorIdx)
    (fun v => by cases v <;> rfl) kind
  refine ⟨laidOut_of (fun _ => rfl) rfl rfl rfl ?_, laidOut_of (fun _ => rfl) rfl rfl rfl ?_,
    fun test => laidOut_of (fun _ => rfl) rfl rfl rfl ?_⟩
  all_goals simp only [Report.fields, fields, kind_eq, List.cons_append, List.nil_append, List.flatten_cons,
    List.flatten_nil, List.append_nil, List.append_assoc]

theorem refused_layout (k : OrderKind) (c : Refused) (fields : List Byte) :
    (Report.refused k c fields).LaidOut 0x81
      ([.malformed, .setup, .tableLoad, .tableDrop, .pageDrop, .routeStart, .routeHalt, .data, .move, .cut
        , .level, .query, .mark, .clear, .imageEnd].idxOf k)
      ([.badField, .notInBoot, .bootOnly, .slotBusy, .engineBusy, .engineFault, .noPaper, .tableNotReady
        , .tableKind, .noRoom, .tableBound, .pageState, .pagesPresent, .level, .motion, .noRoute
        , .busy].idxOf c + 1) [fields] :=
  laidOut_of (fun _ => rfl) rfl (orderKind_subject k) (refused_event c) (List.append_nil _).symm

/-- A report with one field. -/
theorem number_layout {x : Report} {kind subject event : Nat} {field : List Byte}
    (body : ∀ count, x.body count = setByte x.subject ++ setByte x.event ++ setByte count ++ x.fields)
    (kind_eq : x.kindCode = kind) (subject_eq : x.subject = subject) (event_eq : x.event = event)
    (field_eq : x.fields = field) : x.LaidOut kind subject event [field] :=
  laidOut_of body kind_eq subject_eq event_eq (field_eq.trans (List.append_nil _).symm)

theorem page_layouts (p : PageNo) :
    (Report.pageOpened p).LaidOut 0x83 p 1 []
    ∧ (∀ truncated, (Report.pageClosed p truncated).LaidOut 0x83 p 2 [flagByte truncated])
    ∧ (Report.pageDamaged p).LaidOut 0x83 p 3 [] ∧ (Report.pageDropping p).LaidOut 0x83 p 4 []
    ∧ (Report.pageFreed p).LaidOut 0x83 p 5 [] :=
  ⟨laidOut_of (fun _ => rfl) rfl rfl rfl rfl, fun _ => number_layout (fun _ => rfl) rfl rfl rfl rfl,
    laidOut_of (fun _ => rfl) rfl rfl rfl rfl, laidOut_of (fun _ => rfl) rfl rfl rfl rfl,
    laidOut_of (fun _ => rfl) rfl rfl rfl rfl⟩

theorem pool_layouts :
    Report.poolLow.LaidOut 0x84 0 1 [] ∧ Report.poolOut.LaidOut 0x84 0 2 [] ∧ Report.poolOk.LaidOut 0x84 0 3 []
    ∧ Report.poolStranded.LaidOut 0x84 0 4 [] ∧ Report.poolRebuilding.LaidOut 0x84 0 5 [] :=
  ⟨laidOut_of (fun _ => rfl) rfl rfl rfl rfl, laidOut_of (fun _ => rfl) rfl rfl rfl rfl,
    laidOut_of (fun _ => rfl) rfl rfl rfl rfl, laidOut_of (fun _ => rfl) rfl rfl rfl rfl,
    laidOut_of (fun _ => rfl) rfl rfl rfl rfl⟩

theorem moved_layout (m : MotorName) (steps : Nat) (cutShort : Bool) : (Report.moved m steps cutShort).LaidOut 0x86
    (match m with | .pf => 0 | .sf => 1) 2 [number steps, flagByte cutShort] := by
  refine laidOut_of (fun _ => rfl) rfl (by cases m <;> rfl) rfl ?_
  simp only [Report.fields, List.flatten_cons, List.flatten_nil, List.append_nil]

theorem cutStopped_layout (x : CutterState) :
    (Report.cutStopped x).LaidOut 0x86 2 6 [namedByte [.idle, .out, .back, .fault] (some x)] :=
  number_layout (fun _ => rfl) rfl rfl rfl
    (namedByte_some (place := CutterState.ctorIdx) (fun v => by cases v <;> rfl) x).symm

theorem sensor_layout (x : Sensor) (level : Bool) :
    (Report.sensor x level).LaidOut 0x88 ([.cover, .paper, .docIn, .docEdge].idxOf x) 1 [flagByte level] :=
  number_layout (fun _ => rfl) rfl (by cases x <;> rfl) rfl rfl

theorem mark_record (value : Word) (count : Nat) (withheld : Bool) :
    ({ report := .mark value, count := count, withheld := withheld } : QueueEntry).record
      = [0x8C, 2, 0, lowByte value, highByte value] := by
  have header : recordBytes 0x8C 2 [] = [0x8C, 2, 0] := by decide
  exact congrArg (· ++ [lowByte value, highByte value]) header

theorem number_length (n : Nat) : (number n).length = 2 := by
  unfold number
  split <;> rfl

/-- A report begun at a record boundary (R183). -/
theorem reportBegins {s : State} {front back : List QueueEntry} {e : QueueEntry} (idle : s.port.record = none)
    (may : s.mayBegin = true) (queue : s.reports = front ++ e :: back) (withheld : ∀ y ∈ front, y.withheld = true)
    (shown : e.withheld = false) :
    ∃ (t : State) (bytes : List Byte), exec .reportRecordBegin s = .next t
      ∧ t.port.record = some { bytes := bytes, data := none } ∧ 1 ≤ bytes.length
      ∧ t.port.outFifo ++ bytes = s.port.outFifo ++ e.record
      ∧ t.reports = front ++ back ∧ { t with port := s.port, reports := s.reports } = s := by
  obtain ⟨sent, left, split_eq, more, passed⟩ := outPass_report Config.streamFifoCap
    (s := { s with
      reports := front ++ back, port := { s.port with record := some { bytes := e.record, data := none } } })
    rfl (record_length e)
  have begun := (beginRecord_report idle may queue withheld shown).trans passed
  refine ⟨_, left, congrArg Host.Outcome.next begun, rfl, List.length_pos_of_ne_nil more, ?_, rfl, rfl⟩
  simp [State.sending, split_eq]

/-- A DATA report begun at a record boundary (R69, R183). -/
theorem dataBegins {s : State} {r : RouteNo} (idle : s.port.record = none) (may : s.mayBegin = true)
    (withheld : ∀ e ∈ s.reports, e.withheld = true) (slot : s.hostOut.slot = some r)
    (live : (s.route r).live = true) (open_ : (s.route r).halt = .none) (more : s.hostOut.finalBegun = false)
    (sent : s.hostOut.sent = s.hostOut.begun) :
    let left := (s.hostOut.bitLength + 7) / 8 - s.hostOut.begun
    let n := min 256 left
    ∃ (t : State) (bytes : List Byte) (k : Nat), exec .reportRecordBegin s = .next t
      ∧ (let d : DataOut := { slot := r, left := n - k, final := n == left, cutShort := false }
        t.port.record = some { bytes := bytes, data := some d })
      ∧ t.hostOut.begun = s.hostOut.begun + n ∧ t.hostOut.finalBegun = (n == left)
      ∧ k ≤ n ∧ k ≤ s.hostOut.stream.length ∧ t.hostOut.sent = s.hostOut.sent + k ∧ (0 < k → bytes = [])
      ∧ t.port.outFifo ++ bytes
        = s.port.outFifo ++ recordBytes 0x8D (n + 3) (number r.val ++ flagByte (n == left))
          ++ s.hostOut.stream.take k
      ∧ { t with port := s.port, hostOut := s.hostOut } = s := by
  intro left n
  let header := recordBytes 0x8D (n + 3) (number r.val ++ flagByte (n == left))
  let d : DataOut := { slot := r, left := n, final := n == left, cutShort := false }
  let h : HostOut := { s.hostOut with begun := s.hostOut.begun + n, finalBegun := n == left }
  let u : State := s.sending s.port.outFifo (some { bytes := header, data := some d }) h
  have report : s.dataReport = some ({ bytes := header, data := some d }, h) := by
    have goes : ((s.route r).live && (s.route r).halt == .none && !s.hostOut.finalBegun) = true := by
      simp [live, open_, more]
    unfold State.dataReport
    rw [slot]
    exact if_pos goes
  have begun : s.beginRecord = State.outPass Config.streamFifoCap u := by
    simp only [State.beginRecord, idle, may, oldestShown_none withheld, report]
    rfl
  have ahead : 1 < n → s.hostOut.sent + n ≤ pageBytes s.hostOut.bitLength := by
    simp only [n, left, pageBytes]
    omega
  obtain ⟨k, bytes, h', drawn⟩ := outPass_data Config.streamFifoCap (s := u) rfl rfl ahead
  have flow := drawn.flow
  refine ⟨_, bytes, k, congrArg Host.Outcome.next (begun.trans drawn.state), rfl, (congrArg HostOut.begun flow :),
    (congrArg HostOut.finalBegun flow :), drawn.few, drawn.held, (congrArg HostOut.sent flow :), drawn.whole,
    drawn.fifo, rfl⟩

/-- Settles O38: records begin and end, the bytes of a DATA report, and each report's layout. -/
theorem reportsLeaveAsRecords : Obligations.ReportsLeaveAsRecords := by
  unfold Obligations.ReportsLeaveAsRecords
  refine ⟨fun s front back e idle may queue withheld shown => reportBegins idle may queue withheld shown,
    fun s b record runs room => ?_, fun s b rest fifo => ?_, fun s empty => ?_,
    fun s r idle may withheld slot live open_ more sent => dataBegins idle may withheld slot live open_ more sent,
    fun s d w rest record one runs room => ⟨fun cut => ?_, fun open_ free queue => ?_⟩,
    fun s d b record none_left final open_ runs room => ?_, bitsOfByte_maskByte,
    fun n => ⟨fun few => if_pos few, number_length n, rfl, rfl, fun _ _ => rfl⟩, rfl, rfl, rfl, refused_layout,
    route_layouts, page_layouts, pool_layouts.1, pool_layouts.2.1, pool_layouts.2.2.1, pool_layouts.2.2.2.1,
    pool_layouts.2.2.2.2, fun free => number_layout (fun _ => rfl) rfl rfl rfl rfl,
    fun free => number_layout (fun _ => rfl) rfl rfl rfl rfl, memory_layout, fun r index burn => ?_,
    moved_layout, fun r n => ?_, laidOut_of (fun _ => rfl) rfl rfl rfl rfl,
    fun r => number_layout (fun _ => rfl) rfl rfl rfl rfl, cutStopped_layout, levelRun_layout,
    laidOut_of (fun _ => rfl) rfl rfl rfl rfl, sensor_layout, boot_layout, table_layouts,
    fun count withheld => ⟨fun body => rfl, fun value => mark_record value count withheld⟩⟩
  · rw [exec_recordComplete, completeRecord_drawn record rfl runs room rfl]
    rfl
  · let u : State := { s with port := { s.port with outFifo := rest, lastRead := some b } }
    have read : exec .outboundRead s = .next (State.outPass Config.streamFifoCap u) := by
      simp only [exec, execOutboundRead, fifo]
      rfl
    obtain ⟨bytes, record, h, passed⟩ := outPass_sending Config.streamFifoCap u
    refine ⟨_, read, by rw [passed]; rfl, by rw [passed]; exact List.prefix_append rest bytes, fun idle => ?_⟩
    rw [outPass_none _ (show u.port.record = none from idle)]
  · simp only [exec, execOutboundRead, empty]
  · have some_left : ¬d.left = 0 := by omega
    have draw : s.drawByte { bytes := [], data := some d } = some (0, { s with
        port := { s.port with record := some { bytes := [], data := some { d with left := d.left - 1 } } } }) := by
      simp only [State.drawByte, if_neg some_left, if_pos cut]
    rw [exec_recordComplete, completeRecord_drawn record (by simp [OutRecord.remaining, one]) runs room draw]
    simp [State.dataDone, cut]
  · rw [exec_recordComplete, completeRecord_page record one runs room open_ free queue]
    exact congrArg Host.Outcome.next (apply_ite State.react ..)
  · have one : ({ bytes := [b], data := some d } : OutRecord).remaining = 1 := by
      simp [OutRecord.remaining, none_left]
    rw [exec_recordComplete, completeRecord_drawn record one runs room rfl]
    simp [State.dataDone, open_, final]
  · refine laidOut_of (fun _ => rfl) rfl rfl rfl ?_
    simp only [Report.fields, List.flatten_cons, List.flatten_nil, List.append_nil, List.append_assoc]
  · refine laidOut_of (fun _ => rfl) rfl rfl rfl ?_
    simp only [Report.fields, List.flatten_cons, List.flatten_nil, List.append_nil]

end Sys2Proof.Machine
end

section
/-! PROOF. The replay of the boot ROM (R159 to R161). -/

namespace Sys2Proof.Machine

/-! ## The end of replay (R160, R161) -/

/-- Replay ended with an outcome, at a position and a sum: the boot goes cold, or reads the header (R161). -/
def State.replayEnded (u : State) (outcome : RomOutcome) (pos : Nat) (sum : Word) : State :=
  { u with
    parser := Parser.start
    boot :=
      if u.boot.retained then
        { u.boot with
          romPos := pos, imageSum := sum, romOutcome := some outcome, task := .readHeader }
      else
        { u.boot with
          romPos := pos, imageSum := sum, romOutcome := some outcome, state := .coldClear
          warm := some false, coldReason := some .flag, task := .clear 0 } }

/-- What replay loaded and set, undone (R160). -/
def State.undone (u : State) : State :=
  { u with
    tables := u.tables.mapIdx fun i x =>
      if u.boot.loaded.any fun t => t.val == i then TableSlot.emptySlot else x
    setup := Setup.default
    store := { u.store with geometry := 1024 } }

theorem setTable_emptySlots (slots : List TableNo) (s : State) :
    slots.foldl (fun s t => s.setTable t TableSlot.emptySlot) s = { s with
      tables := s.tables.mapIdx fun i x => if slots.any fun t => t.val == i then TableSlot.emptySlot else x } := by
  induction slots generalizing s with
  | nil =>
    have same : s.tables.mapIdx (fun i x => if ([] : List TableNo).any fun t => t.val == i then
        TableSlot.emptySlot else x) = s.tables := by
      ext i inside : 1
      simp
    rw [List.foldl_nil, same]
  | cons t rest ih =>
    rw [List.foldl_cons, ih]
    have same : (s.setTable t TableSlot.emptySlot).tables.mapIdx
          (fun i x => if rest.any fun t => t.val == i then TableSlot.emptySlot else x)
        = s.tables.mapIdx fun i x => if (t :: rest).any fun t => t.val == i then TableSlot.emptySlot else x := by
      ext i inside : 1
      by_cases first : (t : Nat) = i
      · simp [State.setTable, first]
      · simp [State.setTable, first]
    rw [same]
    rfl

theorem undoReplay_eq (s : State) : s.undoReplay = s.undone := by
  unfold State.undoReplay
  dsimp only
  rw [setTable_emptySlots]
  rfl

theorem replayEnd_kept {u : State} {outcome : RomOutcome} (good : outcome ≠ .bad) :
    u.replayEnd outcome = u.replayEnded outcome u.boot.romPos u.boot.imageSum := by
  unfold State.replayEnd State.replayEnded State.decideBoot State.goCold State.setBoot
  dsimp only
  rw [if_neg good]
  split <;> simp_all

theorem replayEnd_bad (u : State) :
    u.replayEnd .bad = u.undone.replayEnded .bad u.boot.romPos u.boot.imageSum := by
  unfold State.replayEnd
  dsimp only
  rw [if_pos rfl, undoReplay_eq]
  unfold State.replayEnded State.decideBoot State.goCold State.setBoot State.undone
  dsimp only
  split <;> rfl

/-! ## A byte of the image (R159, R160, R176) -/

/-- The state with a byte read from the ROM, before the parser takes it. -/
def State.romRead (s : State) (b : Byte) : State :=
  { s with boot := { s.boot with romPos := s.boot.romPos + 1, imageSum := s.romSum b } }

/-- A byte of the image past the first is taken by the parser (R159, R160). -/
theorem exec_romByte {s t : State} {b : Byte} (going : s.replaying = true) (begun : 0 < s.boot.romPos)
    (taken : (s.romRead b).takeByte b = some t) :
    exec (.romByte b) s = .next (if t.replaying = true ∧ s.boot.romPos = 65535 then
      t.undone.replayEnded .bad t.boot.romPos t.boot.imageSum else t) := by
  have past : ¬s.boot.romPos = 0 := by omega
  have read : s.romByte b = s.replayByte b := by
    unfold State.romByte
    rw [if_pos going, if_neg fun h => past h.1, if_neg fun h => past h.1]
  have taken' : ({ s with boot := { s.boot with romPos := s.boot.romPos + 1, imageSum := s.romSum b } } : State).takeByte
      b = some t := taken
  have ended : s.replayByte b = if t.replaying = true ∧ s.boot.romPos = 65535 then t.replayEnd .bad else t := by
    unfold State.replayByte
    dsimp only
    rw [taken']
    simp only [Bool.and_eq_true, beq_iff_eq]
  rw [← replayEnd_bad, ← ended, ← read]
  rfl

/-- A byte from the ROM is taken by the parser's state. -/
theorem takeByte_rom {s : State} (b : Byte) (rom : s.parser.source = .rom) :
    s.takeByte b = match s.parser.state with
      | .head => s.headByte b
      | .body => s.bodyByte b
      | .hunt => some (s.huntByte b) :=
  if_neg fun stalls => absurd (rom.symm.trans stalls.1) (by decide)

theorem badHeader_rom {s : State} (kind : Byte) (length : Word) (rom : s.parser.source = .rom) :
    s.badHeader kind length = s.replayEnd .bad := by
  simp only [State.badHeader, rom]

theorem parserHead_rom {s : State} (rom : s.parser.source = .rom) :
    s.parserHead = { s with parser := { Parser.start with source := .rom } } := by
  simp only [State.parserHead, rom]

/-- The bytes of a header from the ROM (R160, R176). -/
theorem headByte_rom {u : State} (b : Byte) (rom : u.parser.source = .rom) :
    let p := u.parser
    let joined : State := { u with parser := { p with header := p.header ++ [b] } }
    (p.header = [] → u.headByte b = some joined)
    ∧ (∀ kind, p.header = [kind] → kind ≠ 0x7E → u.headByte b = some joined)
    ∧ (∀ kind low, p.header = [kind, low] → kind ≠ 0x7E →
      let n := wordOfBytes b low
      (OrderKind.ofByte kind = none ∨ 1040 < n.toNat ∨ (kind = 0x0E ∧ n ≠ 2) →
        u.headByte b = some (u.replayEnd .bad))
      ∧ ∀ k, OrderKind.ofByte kind = some k → n.toNat ≤ 1040 → (kind = 0x0E → n = 2) →
        (n = 0 → u.headByte b = some (u.parserHead.takeReplayed k []))
        ∧ (n ≠ 0 →
          u.headByte b = some { u with parser :=
            { p with
              state := .body, header := [], kind := kind, length := n.toNat, body := [], taken := 0
              use := .collect } }))
    ∧ (p.header = [0x7E] → u.headByte b = some (if b = 0x81 then joined else u.replayEnd .bad))
    ∧ (p.header = [0x7E, 0x81] → u.headByte b = some (if b = 0x7E then joined else u.replayEnd .bad))
    ∧ (p.header = [0x7E, 0x81, 0x7E] →
      u.headByte b = some (if b = 0x81 then u.parserHead else u.replayEnd .bad)) := by
  intro p joined
  have joined_eq : joined = { u with parser := { p with header := p.header ++ [b] } } := rfl
  refine ⟨fun start => ?_, fun kind one other => ?_, fun kind low two other => ?_, fun one => ?_, fun two => ?_,
    fun three => ?_⟩
  · change u.parser.header = _ at start
    simp only [State.headByte, start]
    rw [joined_eq, ← start]
  · change u.parser.header = _ at one
    simp only [State.headByte, one, if_neg fun h : kind = 0x7E ∧ b ≠ 0x81 => other h.1]
    rw [joined_eq, ← one]
  · change u.parser.header = _ at two
    intro n
    have done : u.headByte b = u.headerDone kind low b := by
      simp only [State.headByte, two, if_neg other]
    rw [done]
    refine ⟨fun bad => ?_, fun k named few length => ?_⟩
    · by_cases unknown : ((OrderKind.ofByte kind).isNone || decide (1040 < n.toNat)) = true
      · exact (if_pos unknown).trans (congrArg some (badHeader_rom _ _ rom))
      · have last : u.parser.source = .rom ∧ kind = 0x0E ∧ n ≠ 2 := by
          refine ⟨rom, ?_⟩
          rcases bad with none_ | long | last
          · simp [none_] at unknown
          · simp [long] at unknown
          · exact last
        exact (if_neg unknown).trans (if_pos last)
    · have known : ¬((OrderKind.ofByte kind).isNone || decide (1040 < n.toNat)) = true := by simp [named, few]
      have framed : ¬(u.parser.source = .rom ∧ kind = 0x0E ∧ n ≠ 2) := fun h => h.2.2 (length h.2.1)
      have source : u.parserHead.parser.source = .rom := rom
      refine ⟨fun empty => ?_, fun some_bytes => (if_neg known).trans ((if_neg framed).trans (if_neg some_bytes))⟩
      refine (if_neg known).trans ((if_neg framed).trans ((if_pos empty).trans ?_))
      simp only [State.dispatch, named, source]
  · change u.parser.header = _ at one
    rw [← badHeader_rom 0x7E (Config.halfLength b) rom]
    by_cases follows : b = 0x81#8
    · simp [State.headByte, one, follows, joined, p]
    · simp [State.headByte, one, follows]
  · change u.parser.header = _ at two
    rw [← badHeader_rom 0x7E (le 0x81 b) rom]
    by_cases follows : b = 0x7E#8
    · simp [State.headByte, two, follows, joined, p]
    · simp [State.headByte, two, follows]
  · change u.parser.header = _ at three
    rw [← badHeader_rom 0x7E (le 0x81 0x7E) rom]
    by_cases follows : b = 0x81#8
    · simp [State.headByte, three, follows]
    · simp [State.headByte, three, follows]

/-! ## Orders replayed (R159, R177) -/

theorem number_wordOfBytes (high low : Byte) : number (wordOfBytes high low).toNat = [low, high] := by
  have few := (wordOfBytes high low).isLt
  obtain ⟨high_eq, low_eq⟩ := List.cons.inj (wordBytes_wordOfBytes high low)
  rw [number, if_pos (by omega), le16_toNat, high_eq, (List.cons.inj low_eq).1]

/-- A refused SETUP's field is its first body field (R177). -/
theorem setup_firstField {body : List Byte} (length : body.length = 10) :
    number (setupOf body).geometry.toNat = firstField .setup body := by
  match body, length with
  | x :: y :: rest, _ => exact number_wordOfBytes y x

/-- An order from the ROM, its body complete (R159, R160, R177). -/
theorem takeReplayed_cases {v : State} (replays : v.boot.state = .romReplay) (k : OrderKind) (body : List Byte) :
    (k = .setup → body.length = 10 →
      let x := setupOf body
      (setupInRange x = true →
        v.takeReplayed k body = { v with
          setup := setupValues x
          store :=
            { v.store with
              geometry := x.geometry.toNat
              scrubTimer := if x.scrub.toNat = 0 then none else v.store.scrubTimer
              scrubWaiting := if x.scrub.toNat = 0 then false else v.store.scrubWaiting } })
      ∧ (setupInRange x = false →
        v.takeReplayed k body = v.queueReport (.refused .setup .badField (firstField .setup body))))
    ∧ (k = .setup → body.length ≠ 10 →
      v.takeReplayed k body = v.queueReport (.refused .setup .badField (firstField .setup body)))
    ∧ (k = .tableLoad →
      v.takeReplayed k body = v.queueReport (.refused .tableLoad .badField (firstField .tableLoad body)))
    ∧ (∀ x y, k = .imageEnd → body = [x, y] →
      v.takeReplayed k body = v.replayEnd (if wordOfBytes y x = v.boot.imageSum then .good else .bad))
    ∧ (k ≠ .setup → k ≠ .tableLoad → k ≠ .imageEnd →
      v.takeReplayed k body = v.queueReport (.refused k .notInBoot (firstField k body))) := by
  refine ⟨?_, ?_, ?_, ?_, fun setup load last => ?_⟩
  · rintro rfl length x
    have taken : v.takeReplayed .setup body = v.takeSetup x true := if_pos length
    rw [taken]
    have still : v.scrubbing = false := by simp [State.scrubbing, replays]
    refine ⟨fun inside => ?_, fun outside => ?_⟩
    · have accepted : v.setupRefusal x true = none := by
        rw [setupRefusal_eq, if_neg (by simp [inside]), if_pos rfl]
      simp only [State.takeSetup, accepted, setScrub_eq, still]
      by_cases same : x.geometry.toNat = v.store.geometry <;> simp [same]
    · have refused : v.setupRefusal x true = some .badField := by
        rw [setupRefusal_eq, if_pos outside]
      simp only [State.takeSetup, refused, x, setup_firstField length]
      rfl
  · rintro rfl length
    exact if_neg length
  · rintro rfl
    rfl
  · rintro x y rfl rfl
    rfl
  · cases k
    case setup => exact absurd rfl setup
    case tableLoad => exact absurd rfl load
    case imageEnd => exact absurd rfl last
    all_goals rfl

/-! ## The bytes of a body from the ROM (R170, R176) -/

/-- An order's byte collected from the ROM. -/
theorem bodyByte_rom {u : State} {b : Byte} {k : OrderKind} (rom : u.parser.source = .rom)
    (collect : u.parser.use = .collect) (named : OrderKind.ofByte u.parser.kind = some k)
    (plain : k ≠ .tableLoad ∧ k ≠ .data ∨ u.parser.body.length ≠ 3) :
    (u.parser.taken + 1 < u.parser.length →
      u.bodyByte b = some { u with parser :=
        { u.parser with body := u.parser.body ++ [b], taken := u.parser.taken + 1 } })
    ∧ (u.parser.taken + 1 = u.parser.length →
      u.bodyByte b = some (u.parserHead.takeReplayed k (u.parser.body ++ [b]))) := by
  rw [bodyByte_collect collect (plain.imp_left fun other => not_fourth named other.1 other.2)]
  refine ⟨fun more => if_neg (Nat.not_le.2 more), fun last => ?_⟩
  have source : u.parserHead.parser.source = .rom := rom
  rw [if_pos (Nat.le_of_eq last.symm)]
  simp only [State.dispatch, named, source]

/-- The parser after the fourth body byte: at the bytes left, or at the end of the record. -/
def State.followed (w : State) (n : Nat) (use : BodyUse) : State :=
  if n = 0 then { w with parser := { Parser.start with source := .rom } }
  else { w with parser := { w.parser with body := [], taken := 4, use := use } }

theorem bytesFollow_rom {w : State} (rom : w.parser.source = .rom) (n : Nat) :
    w.bytesFollow .skip n = w.followed n .skip
    ∧ ∀ t check, w.bytesFollow (.load t check) n =
      if n = 0 then (w.followed n .skip).endLoad t check else w.followed n (.load t check) := by
  have head := parserHead_rom rom
  by_cases none_left : n = 0
  · subst none_left
    exact ⟨head, fun t check => congrArg (State.endLoad · t check) head⟩
  · refine ⟨?_, fun t check => ?_⟩
    · rw [bytesFollow_of_some w _ none_left, State.followed, if_neg none_left]
    · rw [bytesFollow_of_some w _ none_left, State.followed, if_neg none_left, State.followed, if_neg none_left]

theorem parser_queueReport (s : State) (x : Report) : (s.queueReport x).parser = s.parser := by
  have same := congrArg State.parser (queueReport_unwoken s x)
  exact same

theorem bodyByte_fourth {u : State} {b x y z : Byte} (collect : u.parser.use = .collect)
    (kind : u.parser.kind = 0x02 ∨ u.parser.kind = 0x07) (body : u.parser.body = [x, y, z]) :
    u.bodyByte b = some (u.fourthByte u.parser.kind x y z b u.parser.length) := by
  simp only [State.bodyByte, collect, body, List.cons_append, List.nil_append]
  exact if_pos kind

/-- The fourth body byte of a DATA or a TABLE LOAD from the ROM (R159, R170, R177). -/
theorem fourthByte_rom {u : State} {k : OrderKind} {b x y z : Byte} (rom : u.parser.source = .rom)
    (named : OrderKind.ofByte u.parser.kind = some k) (collect : u.parser.use = .collect)
    (body : u.parser.body = [x, y, z]) :
    let n := u.parser.length - 4
    (k = .data →
      u.bodyByte b = some ((u.queueReport (.refused .data .notInBoot (number x.toNat))).followed n .skip))
    ∧ (k = .tableLoad →
      (∀ c, u.loadRefusal x y n = some c →
        u.bodyByte b = some ((u.queueReport (.refused .tableLoad c (number x.toNat))).followed n .skip))
      ∧ ∀ t kind, u.loadRefusal x y n = none → asFin 16 x.toNat = some t → tableKindOf y = some kind →
        let w : State :=
          { u with
            tables := u.tables.set t
              { u.table t with
                kind := some kind, state := .loading, length := 0, check := 0, storage := []
                failure := none }
            boot :=
              { u.boot with
                loaded := if t ∈ u.boot.loaded then u.boot.loaded else u.boot.loaded ++ [t] } }
        u.bodyByte b = some
          (if n = 0 then (w.followed n .skip).endLoad t (wordOfBytes b z)
            else w.followed n (.load t (wordOfBytes b z)))) := by
  intro n
  have code := code_of_ofByte named
  refine ⟨?_, ?_⟩
  · rintro rfl
    have kind : u.parser.kind = 0x07 := BitVec.eq_of_toNat_eq code.symm
    have refused : u.fourthUse 0x07 x y z b n = (u.refuse .data .notInBoot (number x.toNat), .skip) :=
      if_pos ⟨rom, by decide⟩
    rw [bodyByte_fourth collect (.inr kind) body, kind]
    unfold State.fourthByte
    dsimp only
    rw [show u.parser.length - 4 = n from rfl, refused]
    exact congrArg some (bytesFollow_rom ((congrArg Parser.source (parser_queueReport u _)).trans rom) n).1
  · rintro rfl
    have kind : u.parser.kind = 0x02 := BitVec.eq_of_toNat_eq code.symm
    have used : u.fourthUse 0x02 x y z b n
        = ((u.takeLoad x y n true).1,
          ((u.takeLoad x y n true).2.map fun t => BodyUse.load t (wordOfBytes b z)).getD .skip) := by
      have skips : ¬(u.parser.source = .rom ∧ (0x02 : Byte) ≠ 0x02) := fun h => h.2 rfl
      refine (if_neg skips).trans ((if_pos rfl).trans ?_)
      rw [show (u.parser.source == .rom) = true by simp [rom]]
      rfl
    have fourth : u.bodyByte b = some
        ((u.takeLoad x y n true).1.bytesFollow
          (((u.takeLoad x y n true).2.map fun t => BodyUse.load t (wordOfBytes b z)).getD .skip) n) := by
      rw [bodyByte_fourth collect (.inl kind) body, kind]
      exact congrArg (fun used : State × BodyUse => some (used.1.bytesFollow used.2 n)) used
    refine ⟨fun c refused => ?_, fun t kind accepted slot known => ?_⟩
    · have taken : u.takeLoad x y n true = (u.refuse .tableLoad c (number x.toNat), none) := by
        simp only [State.takeLoad, refused]
      rw [fourth, taken]
      exact congrArg some (bytesFollow_rom ((congrArg Parser.source (parser_queueReport u _)).trans rom) n).1
    · intro w
      have taken : u.takeLoad x y n true = (w, some t) := by
        simp only [State.takeLoad, accepted, slot, known]
        by_cases loaded : t ∈ u.boot.loaded
        · simp [State.noteLoaded, State.setTable, TableSlot.startLoad, w, loaded]
        · simp [State.noteLoaded, State.setTable, TableSlot.startLoad, w, loaded]
      rw [fourth, taken]
      exact congrArg some ((bytesFollow_rom (w := w) rom n).2 t _)

/-- A body byte taken and counted: the record's end, or one more taken. -/
def State.counted (w : State) (p : Parser) : State :=
  if p.length ≤ p.taken + 1 then { w with parser := { Parser.start with source := .rom } }
  else { w with parser := { w.parser with taken := p.taken + 1 } }

theorem bodyByte_skipped {u : State} {b : Byte} (rom : u.parser.source = .rom) (skip : u.parser.use = .skip) :
    u.bodyByte b = some (u.counted u.parser) := by
  simp only [State.bodyByte, skip, State.counted, parserHead_rom rom, decide_eq_true_eq]

theorem bodyByte_loaded {u : State} {b : Byte} {t : TableNo} {check : Word} (rom : u.parser.source = .rom)
    (load : u.parser.use = .load t check) :
    let w : State := { u with tables := u.tables.set t { u.table t with storage := (u.table t).storage ++ [b] } }
    u.bodyByte b = some (if u.parser.length ≤ u.parser.taken + 1 then (w.counted u.parser).endLoad t check
      else w.counted u.parser) := by
  intro w
  have stored : u.storeByte t b = w := rfl
  have source : w.parser.source = .rom := rom
  simp only [State.bodyByte, load, State.counted, stored, parserHead_rom source, decide_eq_true_eq]
  split <;> simp_all

/-- The end of a load, of any slot whose kind is known (R171). -/
theorem endLoad_eq {w : State} {t : TableNo} {check : Word} {kind : TableKind} (known : (w.table t).kind = some kind) :
    let all := (w.table t).storage
    let failure := loadFailure kind all check.toNat
    w.endLoad t check = { w with
      tables := w.tables.set t
        { w.table t with
          length := all.length, check := check.toNat, failure := failure
          state := if failure = none then .ready else .bad } }.queueReport
      (match failure with
        | none => .tableReady t kind (byteSum all)
        | some .check => .tableCheck t kind (byteSum all)
        | some (.form i) => .tableForm t kind (byteSum all) i) := by
  intro all failure
  unfold State.endLoad
  dsimp only
  rw [known, Option.getD_some]
  unfold TableSlot.endLoad loadReport State.setTable
  simp only [Option.isNone_iff_eq_none, failure, all, known] <;> rfl

/-! ## The first byte and the end of the image (R159, R160) -/

theorem romByte_first {s : State} {b : Byte} (going : s.replaying = true) (first : s.boot.romPos = 0) :
    (b = 0xFF → s.romByte b = s.replayEnded .absent 1 s.boot.imageSum)
    ∧ (b ≠ 0xFF → b ≠ 0x01 → s.romByte b = s.undone.replayEnded .bad 1 (s.romSum b)) := by
  refine ⟨fun absent => ?_, fun image other => ?_⟩
  · refine (if_pos going).trans ((if_pos ⟨first, absent⟩).trans ?_)
    rw [replayEnd_kept (by decide)]
    rfl
  · refine (if_pos going).trans ((if_neg fun h => image h.2).trans ((if_pos ⟨first, other⟩).trans ?_))
    rw [replayEnd_bad]
    rfl

/-- The first byte of a SETUP joins the header (R159). -/
theorem romByte_setup {s : State} (going : s.replaying = true) (first : s.boot.romPos = 0)
    (rom : s.parser.source = .rom) (head : s.parser.state = .head) (empty : s.parser.header = []) :
    s.romByte 0x01 = { s with
      parser := { s.parser with header := [0x01] }
      boot := { s.boot with romPos := 1, imageSum := s.boot.imageSum + 1 } } := by
  have outside : s.parser.inEnd 0x01 = false := by simp [Parser.inEnd, head, empty]
  have sum : s.romSum 0x01 = s.boot.imageSum + 1 := by
    rw [State.romSum, outside]
    rfl
  have taken : ({ s with boot := { s.boot with romPos := s.boot.romPos + 1, imageSum := s.romSum 0x01 } }
      : State).takeByte 0x01 = some { s with
        parser := { s.parser with header := [0x01] }
        boot := { s.boot with romPos := 1, imageSum := s.boot.imageSum + 1 } } := by
    rw [takeByte_rom _ (by exact rom)]
    simp only [head, State.headByte, empty, sum, first, List.nil_append, Nat.zero_add]
  have read : s.romByte 0x01 = s.replayByte 0x01 := by
    refine (if_pos going).trans ((if_neg fun h => ?_).trans (if_neg fun h => h.2 rfl))
    exact absurd h.2 (by decide)
  rw [read]
  unfold State.replayByte
  dsimp only
  rw [taken]
  simp [first]

theorem replayImageEnd_eq (s : State) (check : Word) :
    s.replayImageEnd check =
      if check = s.boot.imageSum then s.replayEnded .good (s.boot.romPos + 5) s.boot.imageSum
      else s.undone.replayEnded .bad (s.boot.romPos + 5) s.boot.imageSum := by
  unfold State.replayImageEnd State.replayCheck
  dsimp only
  by_cases agrees : check = s.boot.imageSum
  · rw [if_pos agrees, if_pos agrees, replayEnd_kept (by decide)]
    rfl
  · rw [if_neg agrees, if_neg agrees, replayEnd_bad]
    rfl

/-! ## The settlement -/

theorem exec_imageEnd_replay {s : State} (check : Word) (head : s.replayHead = true) :
    exec (.imageEnd check) s = .next (s.replayImageEnd check) :=
  if_pos head

/-- Settles O39: by the parser's state at the byte, each byte's effect from the parser's own lemmas. -/
theorem replayEndsWithItsOutcome : Obligations.ReplayEndsWithItsOutcome := by
  intro s going ended undo bad
  have replays : s.boot.state = .romReplay := by
    simp only [State.replaying, Bool.and_eq_true, beq_iff_eq] at going
    exact going.1
  refine ⟨fun b rom begun => ?byte, fun first => ?absent, fun b first image other => ?framing,
    fun first rom head empty => ?setup, fun head => ?good, fun check head wrong => ?bad⟩
  case byte =>
    intro u p v read joined counted refused replayed
    have reads (t : State) (taken : u.takeByte b = some t) : read t := exec_romByte going begun taken
    have source : u.parser.source = .rom := rom
    have head_eq : u.parserHead = v := parserHead_rom source
    have bad_eq (w : State) : w.replayEnd .bad = bad w := replayEnd_bad w
    have orders (k : OrderKind) (body : List Byte) (sum : k = .imageEnd → body ≠ [] → u.boot.imageSum = s.boot.imageSum) :
        replayed k body (v.takeReplayed k body) := by
      obtain ⟨setup, short, load, last, rest⟩ := takeReplayed_cases (v := v) replays k body
      refine ⟨setup, short, load, fun x y is_end two => ?_, rest⟩
      have same : v.boot.imageSum = s.boot.imageSum := sum is_end (by simp [two])
      rw [last x y is_end two]
      by_cases agrees : wordOfBytes y x = s.boot.imageSum
      · rw [if_pos agrees, if_pos (agrees.trans same.symm)]
        exact replayEnd_kept (by decide)
      · rw [if_neg agrees, if_neg fun h => agrees (h.trans same)]
        exact replayEnd_bad v
    refine ⟨fun head => ?_, fun body collect k named => ⟨fun plain => ?_, fun x y z three long => ?_⟩,
      fun body skip => ?_, fun t check body load => ?_, fun w t check kind known => endLoad_eq known⟩
    · have taken : u.takeByte b = u.headByte b := by
        rw [takeByte_rom b source]
        simp only [show u.parser.state = .head from head]
      obtain ⟨zero, one, two, first, second, third⟩ := headByte_rom b source
      refine ⟨fun h => reads _ (taken.trans (zero h)), fun kind h other => reads _ (taken.trans (one kind h other)),
        fun kind low h other => ?_, fun h => ?_, fun h => ?_, fun h => ?_⟩
      · obtain ⟨broken, known⟩ := two kind low h other
        refine ⟨fun h => ?_, fun k named few length => ?_⟩
        · exact reads _ (taken.trans ((broken h).trans (congrArg some (bad_eq u))))
        · obtain ⟨empty, more⟩ := known k named few length
          refine ⟨fun none_ => ⟨_, reads _ (taken.trans (empty none_)), ?_⟩,
            fun some_ => reads _ (taken.trans (more some_))⟩
          rw [head_eq]
          exact orders k [] fun _ absurd_ => absurd rfl absurd_
      · exact reads _ (taken.trans ((first h).trans (by rw [bad_eq])))
      · exact reads _ (taken.trans ((second h).trans (by rw [bad_eq])))
      · exact reads _ (taken.trans ((third h).trans (by rw [bad_eq, head_eq])))
    all_goals
      have taken : u.takeByte b = u.bodyByte b := by
        rw [takeByte_rom b source]
        simp only [show u.parser.state = .body from body]
    · obtain ⟨more, last⟩ := bodyByte_rom source collect named plain (b := b)
      refine ⟨fun h => reads _ (taken.trans (more h)), fun h => ⟨_, reads _ (taken.trans (last h)), ?_⟩⟩
      rw [head_eq]
      refine orders k _ fun is_end _ => ?_
      have kind : s.parser.kind = 0x0E := BitVec.eq_of_toNat_eq ((code_of_ofByte named).symm.trans (by rw [is_end]; rfl))
      have inside : s.parser.inEnd b = true := by
        simp [Parser.inEnd, show s.parser.state = .body from body, kind]
      exact if_pos inside
    · intro n follow
      obtain ⟨data, load⟩ := fourthByte_rom (b := b) source named collect three
      refine ⟨fun is_data => reads _ (taken.trans (data is_data)), fun is_load => ?_⟩
      obtain ⟨refusal, accepted⟩ := load is_load
      refine ⟨fun c h => reads _ (taken.trans (refusal c h)), fun t kind h slot known => ?_⟩
      exact reads _ (taken.trans (accepted t kind h slot known))
    · exact reads _ (taken.trans (bodyByte_skipped source skip))
    · exact reads _ (taken.trans (bodyByte_loaded source load))
  case absent => exact congrArg Host.Outcome.next ((romByte_first going first).1 rfl)
  case framing => exact congrArg Host.Outcome.next ((romByte_first going first).2 image other)
  case setup => exact congrArg Host.Outcome.next (romByte_setup going first rom head empty)
  case good =>
    rw [exec_imageEnd_replay _ head, replayImageEnd_eq, if_pos rfl]
    rfl
  case bad =>
    rw [exec_imageEnd_replay _ head, replayImageEnd_eq, if_neg wrong]
    rfl

end Sys2Proof.Machine
end

section
/-! PROOF. The Boot Controller's way to RELEASE or FAIL-SAFE (R161 to R166). -/

namespace Sys2Proof.Machine

/-! ## The header and the images (R161, R162) -/

/-- The header's tests, the first that fails (R161). -/
theorem coldReasonOf_spec (n : Nat) (a b c d : ReadWord) :
    let xs := [a, b, c, d]
    ((∃ x ∈ xs, x.cls = some .uncorrectable) → coldReasonOf n xs = some .headerError)
    ∧ ((∀ x ∈ xs, x.cls ≠ some .uncorrectable) →
      (a.data ≠ 0x4C4A ∨ b.data ≠ 0x3420 → coldReasonOf n xs = some .signature)
      ∧ (a.data = 0x4C4A → b.data = 0x3420 →
        (c.data.toNat ≠ n → coldReasonOf n xs = some .geometry)
        ∧ (c.data.toNat = n → coldReasonOf n xs = if d.data = 0xC1EA then none else some .marker))) := by
  intro xs
  refine ⟨fun spoilt => if_pos (by simpa using spoilt), fun clean => ?_⟩
  have readable : ¬(xs.any fun x => x.cls = some .uncorrectable) = true := by simpa using clean
  refine ⟨fun other => (if_neg readable).trans (if_pos other), fun first second => ?_⟩
  have signed : ¬(a.data ≠ Config.signature0 ∨ b.data ≠ Config.signature1) :=
    fun h => h.elim (absurd first) (absurd second)
  refine ⟨fun other => (if_neg readable).trans ((if_neg signed).trans (if_pos other)), fun same => ?_⟩
  refine (if_neg readable).trans ((if_neg signed).trans ((if_neg fun h => h same).trans ?_))
  exact ite_not _ _ _

/-- The end of the header's burst decides (R161). -/
theorem deliver_bootHeader {s : State} (xs : List ReadWord) (o : Bool) (g : Option PageNo)
    (reading : s.boot.task = .readHeader) :
    s.deliver { kind := .bootHeader, orphan := o, page := g } xs
      = { s with boot :=
          match coldReasonOf s.store.geometry xs with
          | some reason =>
            { s.boot with
              state := .coldClear, warm := some false, coldReason := some reason, task := .clear 0 }
          | none =>
            { s.boot with
              state := .warmRebuild, warm := some true, coldReason := none
              task := .readImage 0 none false } } := by
  refine (if_pos reading).trans ?_
  unfold State.headerRead State.goCold State.setBoot
  cases coldReasonOf s.store.geometry xs <;> rfl

theorem isData_iff (s : State) (b : Nat) : s.isData b = true ↔ 16 ≤ b ∧ b < s.store.geometry := by
  rw [State.isData, Bool.and_eq_true, decide_eq_true_eq, decide_eq_true_eq]
  rfl

/-- R162's table of images. -/
theorem classify_spec (s : State) (words : List Word) (spoilt : Bool) :
    let w (i : Nat) : Nat := (words.getD i 0).toNat
    (spoilt = true ∨ wordSum (words.take 15) ≠ w 15 → s.classify words spoilt = .discarded)
    ∧ (spoilt = false → wordSum (words.take 15) = w 15 →
      (w 0 = 0 → s.classify words spoilt = .free)
      ∧ (w 0 = 2 →
        let data (b : Nat) : Prop := 16 ≤ b ∧ b < s.store.geometry
        let inForm := w 1 ≤ 2 ∧ 1 ≤ w 2 ∧ w 2 ≤ 3 ∧ w 3 ≤ 15 ∧ data (w 4) ∧ data (w 5) ∧ 1 ≤ w 6
          ∧ w 6 ≤ s.store.geometry - 16 ∧ w 7 + 65536 * w 8 ≤ w 6 * 8192 ∧ w 10 ≤ 1 ∧ w 12 ≤ 3
          ∧ w 13 = 0 ∧ w 14 = 0
        (inForm → s.classify words spoilt = .walked (entryOfImage w))
        ∧ (¬inForm → s.classify words spoilt = .discarded))
      ∧ (w 0 ≠ 0 → w 0 ≠ 2 → s.classify words spoilt = .discarded)) := by
  intro w
  refine ⟨fun broken => ?_, fun clean sum => ⟨fun free => ?_, fun closed => ?_, fun free closed => ?_⟩⟩
  · rcases spoilt with _ | _
    · have wrong : wordSum (words.take 15) ≠ w 15 := broken.resolve_left (by decide)
      simp only [State.classify]
      rw [if_neg Bool.false_ne_true, if_pos wrong]
    · rfl
  all_goals
    have readable : ¬spoilt = true := by simp [clean]
    have summed : ¬wordSum (words.take 15) ≠ w 15 := fun wrong => wrong sum
  · exact (if_neg readable).trans ((if_neg summed).trans (if_pos free))
  · intro data inForm
    have open_ : ¬w 0 = 0 := by omega
    have form_iff : s.imageInForm w = true ↔ inForm := by
      simp only [State.imageInForm, Bool.and_eq_true, decide_eq_true_eq, isData_iff, and_assoc, inForm, data]
      rfl
    refine ⟨fun form => ?_, fun form => ?_⟩
    · exact (if_neg readable).trans ((if_neg summed).trans ((if_neg open_).trans
        (if_pos ⟨closed, form_iff.2 form⟩)))
    · exact (if_neg readable).trans ((if_neg summed).trans ((if_neg open_).trans
        (if_neg fun h => form (form_iff.1 h.2))))
  · exact (if_neg readable).trans ((if_neg summed).trans ((if_neg free).trans (if_neg fun h => closed h.1)))

theorem wordSum_lt (ws : List Word) : wordSum ws < 65536 := Nat.mod_lt _ (by decide)

/-- The fields an image gives back are those it was made of (R2, R162). -/
theorem entryOfImage_image {e : PageEntry} (closed : e.state = .closed) (readers : e.readers = 0)
    (owner : e.owner = none) (pitch : e.pitch ≤ 3) (slot : e.codeSlot ≤ 15) (head : e.head < 4096)
    (tail : e.tail < 4096) (blocks : e.blockCount < 4096) (length : e.bitLength < 2 ^ 32)
    (lines : ∀ n ∈ e.lineCount, n ≤ 65535) (badLines : e.badLines ≤ 65535) :
    entryOfImage (fun i => (e.image.getD i 0).toNat) = e := by
  obtain ⟨state, origin, pitch_, slot_, head_, tail_, blocks_, length_, lines_, bad_, truncated, damaged, readers_,
    owner_⟩ := e
  subst closed readers owner
  dsimp only at *
  simp only [entryOfImage, PageEntry.image, PageEntry.imageBody, List.map_cons, List.map_nil, List.cons_append,
    List.nil_append, List.getD_cons_zero, List.getD_cons_succ, BitVec.toNat_ofNat]
  have counted : (if lines_.isSome.toNat % 2 ^ 16 = 1 then some (lines_.getD 0 % 2 ^ 16) else none) = lines_ := by
    cases lines_ with
    | none => rfl
    | some n =>
      have few := lines n rfl
      simp
      omega
  simp only [PageEntry.mk.injEq]
  refine ⟨trivial, ?_, ?_, ?_, ?_, ?_, ?_, ?_, counted, ?_, ?_, ?_, trivial, trivial⟩
  · cases origin <;> rfl
  case refine_9 => cases truncated <;> cases damaged <;> rfl
  case refine_10 => cases truncated <;> cases damaged <;> rfl
  all_goals omega

/-- The image of a CLOSED page without readers is in form, and gives the page back (R2, R162). -/
theorem classify_image {s : State} {e : PageEntry} (geometry : s.store.geometry ≤ 4096)
    (closed : e.state = .closed) (readers : e.readers = 0) (owner : e.owner = none) (pitch : 1 ≤ e.pitch)
    (pitch' : e.pitch ≤ 3) (slot : e.codeSlot ≤ 15) (head : s.isData e.head = true)
    (tail : s.isData e.tail = true) (blocks : 1 ≤ e.blockCount) (blocks' : e.blockCount ≤ s.dataBlocks)
    (length : e.bitLength ≤ e.blockCount * 8192) (lines : ∀ n ∈ e.lineCount, n ≤ 65535)
    (badLines : e.badLines ≤ 65535) : s.classify e.image false = .walked e := by
  have head' := (isData_iff s e.head).1 head
  have tail' := (isData_iff s e.tail).1 tail
  have few : s.dataBlocks = s.store.geometry - 16 := rfl
  have back := entryOfImage_image closed readers owner pitch' slot (by omega) (by omega) (by omega) (by omega) lines
    badLines
  have body : e.image.take 15 = e.imageBody := by simp [PageEntry.image, PageEntry.imageBody]
  have check : e.image.getD 15 0 = BitVec.ofNat 16 (wordSum e.imageBody) := by
    simp [PageEntry.image, PageEntry.imageBody]
  have sum : wordSum (e.image.take 15) = (e.image.getD 15 0).toNat := by
    rw [body, check, BitVec.toNat_ofNat, Nat.mod_eq_of_lt (wordSum_lt _)]
  have state : (e.image.getD 0 0).toNat = 2 := by
    simp only [PageEntry.image, PageEntry.imageBody, closed, List.map_cons, List.cons_append, List.getD_cons_zero]
    rfl
  obtain ⟨-, clean⟩ := classify_spec s e.image false
  obtain ⟨inForm, -⟩ := (clean rfl sum).2.1 state
  rw [inForm, back]
  simp only [PageEntry.image, PageEntry.imageBody, List.map_cons, List.map_nil, List.cons_append,
    List.nil_append, List.getD_cons_zero, List.getD_cons_succ, BitVec.toNat_ofNat]
  refine ⟨?_, ?_, ?_, ?_, ⟨?_, ?_⟩, ⟨?_, ?_⟩, ?_, ?_, ?_, ?_, ?_, trivial, trivial⟩
  · cases e.origin <;> decide
  case refine_12 => cases e.lineCount <;> simp
  case refine_13 => cases e.truncated <;> cases e.damaged <;> decide
  all_goals omega

/-! ## The warm rebuild (R162, R163) -/

/-- What going on to the next entry leaves: the pages, the marks and the drop list (R162). -/
theorem nextImage_frame (s : State) (page : Nat) :
    (s.nextImage page).pages = s.pages ∧ (s.nextImage page).boot.marks = s.boot.marks
    ∧ (s.nextImage page).boot.dropList = s.boot.dropList := by
  unfold State.nextImage State.zeroFrom State.sweepFrom State.warmEnd State.setBoot
  split
  · exact ⟨rfl, rfl, rfl⟩
  · split
    · split <;> exact ⟨rfl, rfl, rfl⟩
    · exact ⟨rfl, rfl, rfl⟩

/-- A walk begins by the test of its head block (R162). -/
theorem bootWalk_head (s : State) (page : Nat) (e : PageEntry) :
    (e.head ∈ s.boot.marks → s.bootWalk page e e.head e.blockCount [] = s.discard page)
    ∧ (e.head ∉ s.boot.marks → s.bootWalk page e e.head e.blockCount [] = { s with boot :=
        { s.boot with task := .walk page e e.head e.blockCount [e.head] } }) := by
  refine ⟨fun marked => if_pos (by simp [marked]), fun free => if_neg (by simp [free])⟩

theorem imageRead_second (s : State) (page : Nat) (first : List Word) (spoilt : Bool) (xs : List ReadWord)
    (e : PageEntry) :
    let u := s.imageRead page (some first) spoilt xs
    let bad := spoilt || xs.any fun x => x.cls = some .uncorrectable
    (s.classify (first ++ xs.map ReadWord.data) bad = .discarded → u = s.discard page)
    ∧ (s.classify (first ++ xs.map ReadWord.data) bad = .free → u = s.nextImage page)
    ∧ (s.classify (first ++ xs.map ReadWord.data) bad = .walked e →
      (e.head ∈ s.boot.marks → u = s.discard page)
      ∧ (e.head ∉ s.boot.marks →
        u = { s with boot :=
          { s.boot with task := .walk page e e.head e.blockCount [e.head] } })) := by
  intro u bad
  have read : u = match s.classify (first ++ xs.map ReadWord.data) bad with
      | .discarded => s.discard page
      | .free => s.nextImage page
      | .walked e => s.bootWalk page e e.head e.blockCount [] := rfl
  refine ⟨fun cls => ?_, fun cls => ?_, fun cls => ?_⟩
  · rw [read, cls]
  · rw [read, cls]
  · rw [read, cls]
    exact bootWalk_head s page e

theorem discard_frame (s : State) (page : Nat) :
    (s.discard page).boot.dropList = s.boot.dropList ++ [page] ∧ (s.discard page).pages = s.pages
    ∧ (s.discard page).boot.marks = s.boot.marks := by
  obtain ⟨pages, marks, dropped⟩ := nextImage_frame
    (s.setBoot { s.boot with dropList := s.boot.dropList ++ [page] }) page
  exact ⟨dropped, pages, marks⟩

/-- A kept entry (R162). -/
theorem keepEntry_frame (s : State) (p : PageNo) (e : PageEntry) (own : List Nat) :
    (s.keepEntry p.val e own).pages = s.pages.set p e
    ∧ (s.keepEntry p.val e own).boot.marks = s.boot.marks ++ own
    ∧ (s.keepEntry p.val e own).boot.dropList = s.boot.dropList := by
  have named : asFin 32 p.val = some p := dif_pos p.isLt
  have kept : s.keepEntry p.val e own
      = ((s.setPage p e).setBoot { s.boot with marks := s.boot.marks ++ own }).nextImage p.val := by
    unfold State.keepEntry
    rw [named]
    rfl
  obtain ⟨pages, marks, dropped⟩ := nextImage_frame
    ((s.setPage p e).setBoot { s.boot with marks := s.boot.marks ++ own }) p.val
  rw [kept]
  exact ⟨pages, marks, dropped⟩

/-- A link word of a boot walk (R162). -/
theorem bootLinkRead_spec (s : State) (p : PageNo) (e : PageEntry) (block left : Nat) (own : List Nat)
    (x : ReadWord) :
    let u := s.bootLinkRead p.val e block left own x
    let v := x.data.toNat
    (x.cls = some .uncorrectable ∨ (left ≤ 1 ∧ (block ≠ e.tail ∨ v ≠ 0xFFFF))
        ∨ (1 < left ∧ (s.isData v = false ∨ v ∈ own ∨ v ∈ s.boot.marks)) →
      u = s.discard p.val)
    ∧ (x.cls ≠ some .uncorrectable → 1 < left → s.isData v = true → v ∉ own → v ∉ s.boot.marks →
      u = { s with boot := { s.boot with task := .walk p.val e v (left - 1) (own ++ [v]) } })
    ∧ (x.cls ≠ some .uncorrectable → left ≤ 1 → block = e.tail → v = 0xFFFF →
      u = s.keepEntry p.val e own) := by
  intro u v
  have read : u = if x.cls = some .uncorrectable then s.discard p.val
      else if 1 < left then
        if s.isData v then s.bootWalk p.val e v (left - 1) own else s.discard p.val
      else if block = e.tail ∧ v = 0xFFFF then s.keepEntry p.val e own
      else s.discard p.val := rfl
  refine ⟨fun wrong => ?_, fun readable more data fresh unmarked => ?_, fun readable last at_tail ends => ?_⟩
  · by_cases spoilt : x.cls = some .uncorrectable
    · rw [read, if_pos spoilt]
    · rcases wrong.resolve_left spoilt with ⟨last, other⟩ | ⟨more, other⟩
      · rw [read, if_neg spoilt, if_neg (Nat.not_lt.2 last), if_neg fun h => other.elim (absurd h.1) (absurd h.2)]
      · rw [read, if_neg spoilt, if_pos more]
        by_cases data : s.isData v = true
        · have met : (own.contains v || s.boot.marks.contains v) = true := by
            simpa [data] using other
          rw [if_pos data]
          exact if_pos met
        · rw [if_neg data]
  · have unmet : ¬(own.contains v || s.boot.marks.contains v) = true := by simp [fresh, unmarked]
    rw [read, if_neg readable, if_pos more, if_pos data]
    exact if_neg unmet
  · rw [read, if_neg readable, if_neg (Nat.not_lt.2 last), if_pos ⟨at_tail, ends⟩]

/-! ## The free list of a warm rebuild (R163) -/

/-- The unmarked data blocks, lowest first. -/
def State.unmarked (s : State) : List Nat :=
  (List.range' Config.systemBlocks s.dataBlocks).filter fun b => !s.boot.marks.contains b

theorem mem_unmarked {s : State} {b : Nat} : b ∈ s.unmarked ↔ s.isData b = true ∧ b ∉ s.boot.marks := by
  rw [State.unmarked, List.mem_filter, List.mem_range'_1, isData_iff, State.dataBlocks]
  simp only [Config.systemBlocks, Bool.not_eq_true', List.contains_eq_mem, decide_eq_false_iff_not]
  constructor <;> rintro ⟨⟨low, high⟩, free⟩ <;> exact ⟨⟨low, by omega⟩, free⟩

theorem unmarked_sorted (s : State) : s.unmarked.Pairwise (· < ·) :=
  List.Pairwise.filter _ List.pairwise_lt_range'

/-- The unmarked blocks and the marked ones make up the data blocks. -/
theorem unmarked_length {s : State} (distinct : s.boot.marks.Nodup)
    (data : ∀ b ∈ s.boot.marks, s.isData b = true) :
    s.unmarked.length + s.boot.marks.length = s.dataBlocks := by
  have marked : ((List.range' Config.systemBlocks s.dataBlocks).filter fun b => s.boot.marks.contains b).length
      = s.boot.marks.length := by
    refine ((List.perm_ext_iff_of_nodup ((List.nodup_range' ..).filter _) distinct).2 fun b => ?_).length_eq
    rw [List.mem_filter, List.mem_range'_1, List.contains_eq_mem, decide_eq_true_eq]
    refine ⟨fun h => h.2, fun h => ⟨?_, h⟩⟩
    obtain ⟨low, high⟩ := (isData_iff s b).1 (data b h)
    exact ⟨low, by simp only [State.dataBlocks, Config.systemBlocks]; omega⟩
  rw [← marked, Nat.add_comm, State.unmarked, ← List.length_eq_length_filter_add, List.length_range']

theorem head_le_of_sorted {l : List Nat} (sorted : l.Pairwise (· < ·)) {b : Nat} (inside : b ∈ l) :
    ∃ h ∈ l.head?, h ≤ b ∧ h ∈ l := by
  cases l with
  | nil => cases inside
  | cons h rest =>
    refine ⟨h, rfl, ?_, List.mem_cons_self⟩
    rcases List.mem_cons.1 inside with same | later
    · exact Nat.le_of_eq same.symm
    · exact Nat.le_of_lt (List.rel_of_pairwise_cons sorted later)

theorem le_last_of_sorted {l : List Nat} (sorted : l.Pairwise (· < ·)) {b : Nat} (inside : b ∈ l) :
    ∃ t ∈ l.getLast?, b ≤ t ∧ t ∈ l := by
  have some_ : l ≠ [] := List.ne_nil_of_mem inside
  refine ⟨l.getLast some_, List.getLast?_eq_getLast_of_ne_nil some_, ?_, List.getLast_mem some_⟩
  rw [← List.dropLast_append_getLast some_] at inside sorted
  rcases List.mem_append.1 inside with before | last
  · exact Nat.le_of_lt ((List.pairwise_append.1 sorted).2.2 b before _ (List.mem_singleton.2 rfl))
  · exact Nat.le_of_eq (List.mem_singleton.1 last)

theorem nextFree_eq_none {marks : List Nat} {geometry b : Nat}
    (all : ∀ n, b ≤ n → n < geometry → n ∈ marks) : nextFree marks geometry b = none := by
  refine List.find?_eq_none.2 fun n inside => ?_
  obtain ⟨low, high⟩ := List.mem_range'_1.1 inside
  simp [all n low (by omega)]

theorem nextFree_eq_some {marks : List Nat} {geometry b n : Nat} (low : b ≤ n) (high : n < geometry)
    (free : n ∉ marks) (before : ∀ k, b ≤ k → k < n → k ∈ marks) : nextFree marks geometry b = some n := by
  refine List.find?_range'_eq_some.2 ⟨by simp [free], List.mem_range'_1.2 ⟨low, by omega⟩, fun k h h' => ?_⟩
  simp [before k h h']

/-- The sweep over a list without unmarked blocks, and on to the next unmarked one (R163). -/
theorem sweepFrom_spec (s : State) :
    (∀ b, (∀ n, b ≤ n → n < s.store.geometry → n ∈ s.boot.marks) → s.sweepFrom b = s.warmEnd)
    ∧ ∀ b n, b ≤ n → n < s.store.geometry → n ∉ s.boot.marks → (∀ k, b ≤ k → k < n → k ∈ s.boot.marks) →
      s.sweepFrom b = { s with boot := { s.boot with task := .sweep n } }
        ∧ (1 ≤ b → sweepWord s.boot.marks s.store.geometry (b - 1) = BitVec.ofNat 16 n) := by
  refine ⟨fun b all => ?_, fun b n low high free before => ⟨?_, fun pos => ?_⟩⟩
  · rw [State.sweepFrom, nextFree_eq_none all]
  · rw [State.sweepFrom, nextFree_eq_some low high free before]
    rfl
  · rw [sweepWord, Nat.sub_add_cancel pos, nextFree_eq_some low high free before]

/-- The end of the warm rebuild (R163). -/
theorem warmEnd_spec {s : State} (distinct : s.boot.marks.Nodup) (data : ∀ b ∈ s.boot.marks, s.isData b = true) :
    let u := s.warmEnd
    u.pool.freeCount + s.boot.marks.length = s.dataBlocks ∧ u.pool.spare = [] ∧ u.pool.stranded = 0
    ∧ u.pool.alert = .none ∧ u.pool.state = .inService ∧ u.boot.state = .release
    ∧ ∀ b, s.isData b = true → b ∉ s.boot.marks →
      (∃ h ∈ u.pool.freeHead, h ≤ b ∧ h ∉ s.boot.marks ∧ s.isData h = true)
      ∧ ∃ t ∈ u.pool.freeTail, b ≤ t ∧ t ∉ s.boot.marks ∧ s.isData t = true := by
  refine ⟨unmarked_length distinct data, rfl, rfl, rfl, rfl, rfl, fun b inside free => ?_⟩
  have listed : b ∈ s.unmarked := mem_unmarked.2 ⟨inside, free⟩
  obtain ⟨h, first, below, h_in⟩ := head_le_of_sorted (unmarked_sorted s) listed
  obtain ⟨t, last, above, t_in⟩ := le_last_of_sorted (unmarked_sorted s) listed
  exact ⟨⟨h, first, below, (mem_unmarked.1 h_in).symm⟩, t, last, above, (mem_unmarked.1 t_in).symm⟩

/-! ## The cold clear (R164) -/

theorem bootWritten_clear {s : State} {a : Nat} (n : Nat) (clearing : s.boot.task = .clear a) :
    s.bootWritten n =
      if a + n < s.store.geometry * 512 then { s with boot := { s.boot with task := .clear (a + n) } }
      else s.coldEnd := by
  unfold State.bootWritten
  rw [clearing]
  rfl

theorem page_emptyPool (s : State) (p : PageNo) : s.emptyPool.page p = PageEntry.freeEntry := by
  simp [State.emptyPool, State.page]

theorem clearWord_link {geometry b : Nat} (low : 16 ≤ b) (high : b < geometry) :
    clearWord geometry (1024 + b) = if b + 1 = geometry then 0xFFFF else BitVec.ofNat 16 (b + 1) := by
  have inside : 1024 + 16 ≤ 1024 + b ∧ 1024 + b < 1024 + geometry := by omega
  refine (if_pos inside).trans ?_
  have place : 1024 + b - 1024 + 1 = b + 1 := by omega
  by_cases last : b + 1 = geometry
  · rw [if_pos last]
    exact if_pos (by rw [← last]; rfl)
  · rw [if_neg last]
    refine (if_neg fun h => last ?_).trans (congrArg (BitVec.ofNat 16) place)
    have linkBase : Config.linkBase = 1024 := rfl
    omega

/-! ## FAIL-SAFE and RELEASE (R158, R165, R166) -/

theorem entryAdvance_boot (s : State) : s.entryAdvance.boot = s.boot :=
  (congrArg State.boot (entryAdvance_undozed s) :)

theorem placeRetain_boot (s : State) : s.placeRetain.boot = s.boot := entryAdvance_boot _

/-- PFAIL before READY (R158, R166). -/
theorem exec_pfailAssert_boot (s : State) :
    let pins : Pins := { s.pins with pfail := true }
    (s.boot.state = .memoryStart → exec .pfailAssert s = .next
      { s with
        pins := pins, boot := { s.boot with state := .failSafe, hostHold := true, task := .failOn } })
    ∧ (s.boot.state = .release → exec .pfailAssert s = .next
      { s with
        pins := pins, boot := { s.boot with state := .failSafe, hostHold := true, task := .failLive } })
    ∧ (s.boot.state = .romReplay ∨ s.boot.state = .warmRebuild ∨ s.boot.state = .coldClear →
      exec .pfailAssert s = .next { s with
        pins := pins, boot := { s.boot with state := .failSafe, hostHold := true, task := .none } }.placeRetain)
    ∧ (s.boot.state = .hold ∨ s.boot.state = .failSafe →
      exec .pfailAssert s = .next { s with pins := pins }) := by
  intro pins
  have run : exec .pfailAssert s = execPfailAssert s := rfl
  rw [run]
  unfold execPfailAssert State.failSafe
  refine ⟨fun found => ?_, fun found => ?_, fun found => ?_, fun found => ?_⟩
  · simp only [found, State.setBoot, pins]
  · simp only [found, State.setBoot, pins]
  · rcases found with found | found | found <;> simp only [found, State.setBoot, pins]
  · rcases found with found | found <;> simp only [found, pins]

/-- A retain request placed at ON, with a burst in progress or nothing left to do (R38, R41, R166). -/
theorem placeRetain_on {s : State} (on : s.store.state = .on) :
    (s.store.burst ≠ none → s.placeRetain = { s with
      store := { s.store with state := .entering, request := .retain } })
    ∧ (s.store.burst = none → s.store.backlog = 0 → s.power.level = none → s.placeRetain = { s with
      store :=
        { s.store with
          state := .selfRefresh, request := .retain, backlog := 0, refreshTimer := none
          scrubTimer := none } }) := by
  unfold State.placeRetain State.entryAdvance State.enterSelfRefresh
  refine ⟨fun busy => ?_, fun idle done before => ?_⟩
  · simp [on, busy]
  · simp [on, idle, done, before]

/-- The end of a header's burst. -/
theorem endBurst_header (s : State) (purpose : HeaderFor) (ws : List Word) (o : Bool) (g : Option PageNo) :
    s.endBurst { kind := .header purpose ws, orphan := o, page := g } []
      = { s with store := { s.store with dram := dramWriteWords s.store.dram 0 ws, burst := none } }.headerWritten
        purpose := rfl

/-- READY and RUN reached, before the supply, the scrub timer and the BOOT report (R165). -/
def State.unheld (s : State) : State :=
  { s with
    boot := { s.boot with state := .ready, task := .none, retained := false, hostHold := false }
    parser := { Parser.start with source := .port }
    power := { s.power with level := some .run, stutter := false, quietReceive := false, quietErrors := false }
    engines := { s.engines with scannerFault := s.pins.coverOpen, printerFault := s.pins.coverOpen } }

/-- The end of RELEASE (R165). -/
theorem releaseHost_spec (s : State) :
    let u := s.releaseHost
    u.boot.state = .ready ∧ u.boot.hostHold = false ∧ u.boot.retained = false
      ∧ u.power.level = some .run ∧ u.parser.source = .port ∧ u.parser.state = .head
      ∧ u.engines.scannerFault = s.pins.coverOpen ∧ u.engines.printerFault = s.pins.coverOpen := by
  intro u
  obtain ⟨head, on⟩ : ∃ head : Head, s.unheld.supplyOn = { s.unheld with head := head } := by
    unfold State.supplyOn
    split
    · exact ⟨_, rfl⟩
    · split <;> exact ⟨_, rfl⟩
  have level : s.unheld.supplyOn.startScrub.power.level = some .run := by rw [on]; rfl
  have released : u = s.unheld.supplyOn.startScrub.putReport s.unheld.bootReport false :=
    queueReport_run _ _ level
  rw [released, on]
  exact ⟨rfl, rfl, rfl, rfl, rfl, rfl, rfl, rfl⟩

/-- Settles O40: R161's and R162's tables as they stand, and the drop list, marks and pool by what each step leaves. -/
theorem bootGoesWarmColdOrFailSafe : Obligations.BootGoesWarmColdOrFailSafe := by
  refine ⟨coldReasonOf_spec, fun s xs o g reading => deliver_bootHeader xs o g reading, classify_spec,
    fun s e geometry closed readers owner pitch pitch' slot head tail blocks blocks' length lines bad => ?image,
    imageRead_second, fun s p e block left own x => ?walk, fun s distinct data => ?warm,
    fun s a n clearing => ⟨fun more => ?clears, fun done => ?cleared⟩, fun geometry b => clearWord_link, fun s => ?fail⟩
  case image =>
    exact classify_image geometry closed readers owner pitch pitch' slot head tail blocks blocks' length lines bad
  case walk =>
    intro u v
    obtain ⟨wrong, goes, ends⟩ := bootLinkRead_spec s p e block left own x
    obtain ⟨dropped, pages, marks⟩ := discard_frame s p.val
    refine ⟨fun h => ?_, goes, fun readable last at_tail final => ?_⟩
    · have same : u = s.discard p.val := wrong h
      exact ⟨same, same ▸ dropped, same ▸ pages, same ▸ marks⟩
    · have same : u = s.keepEntry p.val e own := ends readable last at_tail final
      rw [same]
      exact keepEntry_frame s p e own
  case warm =>
    intro u
    obtain ⟨count, spare, stranded, alert, state, boot, listed⟩ := warmEnd_spec distinct data
    obtain ⟨over_, next⟩ := sweepFrom_spec s
    exact ⟨count, spare, stranded, alert, state, boot, listed, over_, next⟩
  case clears => rw [bootWritten_clear n clearing, if_pos more]
  case cleared =>
    intro u
    have cleared : u = s.coldEnd := (bootWritten_clear n clearing).trans (if_neg (Nat.not_lt.2 done))
    rw [cleared]
    exact ⟨page_emptyPool s, rfl, rfl, rfl, rfl, rfl, rfl, rfl, rfl, rfl⟩
  case fail =>
    intro pins
    obtain ⟨start, release, middle, later⟩ := exec_pfailAssert_boot s
    refine ⟨start, release, fun found on => ⟨fun busy => ?_, fun idle done before => ?_⟩, later,
      fun found ws o g => ?_, fun found ws o g => ⟨?_, ?_⟩⟩
    · rw [middle found]
      exact congrArg Host.Outcome.next ((placeRetain_on (by exact on)).1 busy)
    · rw [middle found]
      exact congrArg Host.Outcome.next ((placeRetain_on (by exact on)).2 idle done before)
    · rw [endBurst_header]
      unfold State.headerWritten
      dsimp only
      rw [if_neg (by simp [found])]
      exact releaseHost_spec _
    · rw [endBurst_header]
      unfold State.headerWritten
      dsimp only
      rw [if_pos found]
      rfl
    · rw [endBurst_header]
      exact placeRetain_boot _

end Sys2Proof.Machine
end

section
/-! PROOF. The arbiter: what each client asks for, what is granted, and what a grant changes (R26 to R28, R38). -/

namespace Sys2Proof.Machine

/-! ## What a grant changes at once (R2, R28, R35) -/

theorem readerSlot_eq (s : State) (x : Reader) :
    s.readerSlot x = match x with
      | .print => s.printDec.slot
      | .line => s.line.slot
      | .host => s.hostOut.slot := by cases x <;> rfl

theorem readerPage_eq (s : State) (x : Reader) :
    s.readerPage x = (s.readerSlot x).bind fun r => (s.route r).page := by
  unfold State.readerPage
  cases s.readerSlot x <;> rfl

/-- The state with a burst in progress. -/
def State.bursting (s : State) (b : BurstKind) : State :=
  { s with store := { s.store with burst := some { kind := b, orphan := false, page := s.burstPage b } } }

theorem granted_spec (s : State) (b : BurstKind) :
    (∀ final, b = .refreshRow final →
      s.granted b = { s.bursting b with store := { (s.bursting b).store with backlog := s.store.backlog - 1 } })
    ∧ (b = .scrub → s.granted b = { s.bursting b with store := { (s.bursting b).store with scrubWaiting := false } })
    ∧ (∀ p ws half rest, b = .dirImage p false ws → s.pool.dirQueue = .image p none half :: rest →
      s.granted b = { s.bursting b with pool :=
        { s.pool with dirQueue := .image p (some (s.page p).image) half :: rest } })
    ∧ ((∀ final, b ≠ .refreshRow final) → b ≠ .scrub → (∀ p ws, b ≠ .dirImage p false ws) →
      s.granted b = s.bursting b) := by
  refine ⟨?_, ?_, ?_, fun row scrub image => ?_⟩
  · rintro final rfl
    rfl
  · rintro rfl
    rfl
  · rintro p ws half rest rfl queue
    simp only [State.granted, queue, if_pos]
    rfl
  · cases b
    case refreshRow final => exact absurd rfl (row final)
    case scrub => exact absurd rfl scrub
    case dirImage p half ws =>
      cases half
      · exact absurd rfl (image p ws)
      · rfl
    all_goals rfl

theorem ofNat_wordSum (ws : List Word) :
    BitVec.ofNat 16 (wordSum ws) = BitVec.ofNat 16 (ws.map BitVec.toNat).sum :=
  BitVec.eq_of_toNat_eq (by simp [wordSum])

theorem ofNat_mod_word (n : Nat) : BitVec.ofNat 16 (n % 65536) = BitVec.ofNat 16 n :=
  BitVec.eq_of_toNat_eq (by simp)

/-- A directory image is laid out as R25 gives it. -/
theorem image_layout (e : PageEntry) :
    let body : List Word :=
      ([[PageState.free, .opened, .closed, .dropping].idxOf e.state,
        [Origin.scan, .line, .host].idxOf e.origin, e.pitch, e.codeSlot, e.head, e.tail, e.blockCount,
        e.bitLength % 65536, e.bitLength / 65536, e.lineCount.getD 0, if e.lineCount = none then 0 else 1,
        e.badLines, (if e.truncated = true then 1 else 0) + (if e.damaged = true then 2 else 0), 0, 0] :
          List Nat).map (BitVec.ofNat 16)
    e.image = body ++ [BitVec.ofNat 16 (body.map BitVec.toNat).sum] := by
  intro body
  have state : e.state.ctorIdx = [PageState.free, .opened, .closed, .dropping].idxOf e.state := by
    cases e.state <;> rfl
  have origin : e.origin.ctorIdx = [Origin.scan, .line, .host].idxOf e.origin := by
    cases e.origin <;> rfl
  have counted : e.lineCount.isSome.toNat = if e.lineCount = none then 0 else 1 := by
    cases e.lineCount <;> rfl
  have flags : e.truncated.toNat + 2 * e.damaged.toNat
      = (if e.truncated = true then 1 else 0) + (if e.damaged = true then 2 else 0) := by
    cases e.truncated <;> cases e.damaged <;> rfl
  have same : e.imageBody = body := by
    simp only [PageEntry.imageBody, state, origin, counted, flags, List.map_cons, List.map_nil, body, ofNat_mod_word]
  rw [PageEntry.image, same, ofNat_wordSum]

/-! ## What each client asks for -/

theorem dirBurst_spec (s : State) :
    (s.pool.dirQueue = [] → s.dirBurst = none)
    ∧ (∀ b v rest, s.pool.dirQueue = .link b v :: rest → s.dirBurst = some (.dirLink b v))
    ∧ (∀ p words rest, s.pool.dirQueue = .image p words false :: rest →
      s.dirBurst = some (.dirImage p false ((words.getD (s.page p).image).take 8)))
    ∧ (∀ p words rest, s.pool.dirQueue = .image p words true :: rest →
      s.dirBurst = some (.dirImage p true ((words.getD (s.page p).image).drop 8))) := by
  refine ⟨fun queue => ?_, fun b v rest queue => ?_, fun p words rest queue => ?_, fun p words rest queue => ?_⟩
  all_goals simp [State.dirBurst, queue]

theorem bootBurst_spec (s : State) :
    let words (marker : Word) : List Word := [0x4C4A, 0x3420, BitVec.ofNat 16 s.store.geometry, marker]
    (s.boot.task = .releaseHeader ∨ s.boot.task = .failLive →
      s.bootBurst = some (.header .release (words 0x6C76)))
    ∧ (s.boot.task = .geometryHeader → s.bootBurst = some (.header .geometryClear (words 0x6C76)))
    ∧ (s.boot.task = .failClean → s.bootBurst = some (.header .failSafe (words 0xC1EA)))
    ∧ (s.boot.task = .clear 0 → s.bootBurst = some (.bootWrite 0 (words 0x6C76)))
    ∧ (s.boot.task = .none → s.power.level = some .enteringRetain → s.power.step = .retainHeader →
      s.bootBurst = some (.header .power (words 0xC1EA))) := by
  intro words
  refine ⟨fun task => ?_, fun task => ?_, fun task => ?_, fun task => ?_, fun task level step => ?_⟩
  · rcases task with task | task
    · simp only [State.bootBurst, task]
      rfl
    · simp only [State.bootBurst, task]
      rfl
  · simp only [State.bootBurst, task]
    rfl
  · simp only [State.bootBurst, task]
    rfl
  · simp only [State.bootBurst, task]
    rfl
  · simp only [State.bootBurst, task, level, step]
    rfl

/-- A refill is due (R13). -/
theorem refilling_iff (s : State) :
    s.refilling = true ↔ s.pool.state = .inService ∧ s.pool.spare.length < 4 ∧ 0 < s.pool.freeCount
      ∧ s.boot.state = .ready ∧ s.retaining = false ∧ s.store.state ≠ .selfRefresh := by
  simp only [State.refilling, Bool.and_eq_true, decide_eq_true_eq, beq_iff_eq, bne_iff_ne, Bool.not_eq_true',
    and_assoc]
  rfl

theorem linkReads_spec (s : State) :
    let due := s.pool.state = .inService ∧ s.pool.spare.length < 4 ∧ 0 < s.pool.freeCount
      ∧ s.boot.state = .ready ∧ s.retaining = false ∧ s.store.state ≠ .selfRefresh
    (∀ h, due → s.pool.freeHead = some h → s.waitingLink h = none → s.refillBurst = some (.refill h))
    ∧ (¬due ∨ s.pool.freeHead = none → s.refillBurst = none)
    ∧ (∀ h w, s.pool.freeHead = some h → s.waitingLink h = some w → s.refillBurst = none)
    ∧ (∀ b p h left, s.pool.rebuild = some b → b.at_ = .walking p h left →
      s.walkBurst = if 1 < left ∧ s.retaining = false ∧ s.waitingLink h = none then some (.walk h)
        else none) := by
  intro due
  refine ⟨fun h refills head link => ?_, fun idle => ?_, fun h w head link => ?_,
    fun b p h left rebuild walking => ?_⟩
  · simp [State.refillBurst, head, (refilling_iff s).2 refills, link]
  · unfold State.refillBurst
    rcases idle with idle | headless
    · have still : s.refilling = false := Bool.eq_false_iff.2 fun h => idle ((refilling_iff s).1 h)
      rw [still]
      split <;> rfl
    · rw [headless]
  · simp [State.refillBurst, head, link]
  · obtain ⟨at_, x, y⟩ := b
    dsimp only at walking
    subst walking
    simp [State.walkBurst, rebuild]

/-! ## The writers and the readers (R48, R56, R68, R137) -/

/-- The page a writer's slot fills. -/
def State.filled (s : State) (slot : Option RouteNo) : Option PageEntry :=
  slot.bind fun r => if (s.route r).live then (s.route r).page.map s.page else none

theorem openPage_eq (s : State) (slot : Option RouteNo) : s.openPage slot = s.filled slot := by
  cases slot <;> rfl

/-- The words a writer asks to write: eight, or to the block's end, or what is left at its own end. -/
def burstSize (w : Writer) (held : Nat) (last : Bool) : Nat :=
  if last then min 8 (min w.room held) else min 8 w.room

/-- The address of a writer's next word. -/
def burstPlace (e : PageEntry) (w : Writer) : Nat := 512 * e.tail + (512 - w.room)

theorem writeAddr_eq (e : PageEntry) (w : Writer) : writeAddr e w = burstPlace e w :=
  congrArg (· + (512 - w.room)) (Nat.mul_comm e.tail 512)

theorem wantScan_spec (s : State) :
    (s.filled s.coder.slot = none → s.wantScan = none)
    ∧ ∀ e, s.filled s.coder.slot = some e →
      let c := s.coder
      let k := burstSize c.writer c.queue.length (c.state == .ending)
      s.wantScan = if 0 < k ∧ k ≤ c.queue.length then
          some (.coderWrite (burstPlace e c.writer) (c.queue.take k))
        else none := by
  unfold State.wantScan
  rw [openPage_eq]
  refine ⟨fun shut => ?_, fun e fills => ?_⟩
  · rw [shut]
  · intro c k
    rw [fills]
    simp only [writeAddr_eq]
    rfl

theorem wantHostIn_spec (s : State) :
    (s.filled s.hostIn.slot = none → s.wantHostIn = none)
    ∧ ∀ e, s.filled s.hostIn.slot = some e →
      let h := s.hostIn
      let k := burstSize h.writer h.queue.length (h.finalTaken || s.hostFlushing)
      s.wantHostIn = if 0 < k ∧ k ≤ h.queue.length then
          some (.hostWrite (burstPlace e h.writer) (h.queue.take k))
        else none := by
  unfold State.wantHostIn
  rw [openPage_eq]
  refine ⟨fun shut => ?_, fun e fills => ?_⟩
  · rw [shut]
  · intro h k
    rw [fills]
    simp only [writeAddr_eq]
    rfl

theorem wantRx_spec (s : State) :
    (s.filled s.line.slot = none → s.wantRx = none)
    ∧ ∀ e, s.filled s.line.slot = some e →
      let l := s.line
      let bytes := l.rxFifo.length
      let k := burstSize l.writer ((bytes + 1) / 2) (l.rx == .flushing)
      let n := min (2 * k) bytes
      s.wantRx = if 0 < k ∧ (2 * k ≤ bytes ∨ l.rx = .flushing) then
          some (.lineWrite (burstPlace e l.writer) (wordsOfBytes (l.rxFifo.take n)) n)
        else none := by
  unfold State.wantRx
  rw [openPage_eq]
  refine ⟨fun shut => ?_, fun e fills => ?_⟩
  · rw [shut]
  · intro l bytes k n
    rw [fills]
    simp only [writeAddr_eq]
    rfl

/-- What a reader's slot and fetch ask for (R33, R56, R21). -/
theorem reader_spec (s : State) (x : Reader) (slot : Option RouteNo) (f : Fetch) :
    let want := if s.flowing slot then fetchBurst x f else none
    let k := min 8 (min (512 - f.offset) f.left)
    let moves := (∃ r, slot = some r ∧ (s.route r).live = true ∧ s.heldByDamage r = false)
      ∧ f.active = true ∧ f.left ≠ 0
    (¬moves → want = none)
    ∧ (moves → f.offset = 512 → want = some (.fetchLink x f.block))
    ∧ (moves → f.offset ≠ 512 →
      want = if f.queue.length + k ≤ 16 then some (.fetchWords x (512 * f.block + f.offset) k) else none) := by
  intro want k moves
  have flows : s.flowing slot = true ↔ ∃ r, slot = some r ∧ (s.route r).live = true ∧ s.heldByDamage r = false := by
    cases slot <;> simp [State.flowing]
  refine ⟨fun still => ?_, fun ⟨flow, active, left⟩ link => ?_, fun ⟨flow, active, left⟩ word => ?_⟩
  · by_cases flow : s.flowing slot = true
    · have idle : (!f.active || decide (f.left = 0)) = true := by
        simp only [moves, ← flows, flow, true_and, not_and_or, Decidable.not_not] at still
        simpa using still
      exact (if_pos flow).trans (if_pos idle)
    · exact if_neg flow
  all_goals
    have moving : ¬(!f.active || decide (f.left = 0)) = true := by simp [active, left]
  · exact (if_pos (flows.2 flow)).trans ((if_neg moving).trans (if_pos link))
  · refine (if_pos (flows.2 flow)).trans ((if_neg moving).trans ((if_neg word).trans ?_))
    rw [Nat.mul_comm 512]
    rfl

/-! ## ENTERING (R38, R41) -/

theorem urgentWaits_iff (s : State) :
    s.urgentWaits = true ↔ s.wantRx ≠ none ∨ s.wantTx ≠ none
      ∨ (s.wantPrint ≠ none ∧ s.head.ready.length ≤ s.power.watermark) := by
  simp only [State.urgentWaits, State.printUrgent, Bool.or_eq_true, Bool.and_eq_true, decide_eq_true_eq,
    Option.isSome_iff_ne_none, or_assoc]

/-- The requests that ENTERING grants, in their order (R38, R41). -/
theorem enteringOrder_spec (s : State) :
    let urgent := s.wantRx ≠ none ∨ s.wantTx ≠ none
      ∨ (s.wantPrint ≠ none ∧ s.head.ready.length ≤ s.power.watermark)
    let held := s.store.request = .retain ∨ ¬urgent
    (held → s.enteringOrder = none)
    ∧ (¬held → 7 ≤ s.store.backlog → s.enteringOrder = some (.refreshRow false))
    ∧ (¬held → s.store.backlog < 7 → s.enteringOrder = (s.wantRx <|> s.wantTx <|> s.wantPrint)) := by
  intro urgent held
  have held_iff : (s.store.request == .retain || !s.urgentWaits) = true ↔ held := by
    simp only [Bool.or_eq_true, beq_iff_eq, Bool.not_eq_true', Bool.eq_false_iff, ne_eq, urgentWaits_iff, held, urgent]
  refine ⟨fun h => if_pos (held_iff.2 h), fun h due => ?_, fun h few => ?_⟩
  · refine (if_neg (held_iff.not.2 h)).trans ?_
    rw [if_pos due]
    rfl
  · refine (if_neg (held_iff.not.2 h)).trans ?_
    rw [if_neg (Nat.not_le.2 few)]
    have waits : urgent := by
      by_contra none_
      exact h (.inr none_)
    cases rx : s.wantRx with
    | some b => rfl
    | none =>
      cases tx : s.wantTx with
      | some b => rfl
      | none =>
        have print := (waits.resolve_left (absurd rx)).resolve_left (absurd tx)
        have now : s.printUrgent = true := decide_eq_true print.2
        rw [now]
        rfl

/-- The final row of an entry (R38, R41). -/
theorem finalRow_iff (s : State) :
    let urgent := s.wantRx ≠ none ∨ s.wantTx ≠ none
      ∨ (s.wantPrint ≠ none ∧ s.head.ready.length ≤ s.power.watermark)
    s.store.request = .retain ∨ s.urgentWaits = false ↔ s.store.request = .retain ∨ ¬urgent := by
  intro urgent
  rw [Bool.eq_false_iff, ne_eq, urgentWaits_iff]

theorem entering_spec {s : State} (entering : s.store.state = .entering) :
    let urgent := s.wantRx ≠ none ∨ s.wantTx ≠ none
      ∨ (s.wantPrint ≠ none ∧ s.head.ready.length ≤ s.power.watermark)
    let held := s.store.request = .retain ∨ ¬urgent
    (s.store.burst = none → held →
      (0 < s.store.backlog → s.entryAdvance = s.granted (.refreshRow true))
      ∧ (s.store.backlog = 0 → s.entryAdvance = s.enterSelfRefresh))
    ∧ (s.store.burst ≠ none ∨ ¬held → s.entryAdvance = s)
    ∧ ∀ o g xs, let u := s.deliver { kind := .refreshRow true, orphan := o, page := g } xs
      (held → u = s.enterSelfRefresh) ∧ (¬held → u = s) := by
  intro urgent held
  have last := finalRow_iff s
  refine ⟨fun idle h => ?_, fun h => if_neg ?_, fun o g xs => ?_⟩
  · have advances : s.entryAdvance
        = if 0 < s.store.backlog then s.granted (.refreshRow true) else s.enterSelfRefresh :=
      if_pos ⟨entering, by simp [idle], last.2 h⟩
    exact ⟨fun some_ => advances.trans (if_pos some_), fun done => advances.trans (if_neg (by omega))⟩
  · rintro ⟨-, idle, h'⟩
    rcases h with busy | free
    · exact busy (Option.isNone_iff_eq_none.1 idle)
    · exact free (last.1 h')
  · intro u
    have final : u = s.finalRowDone := rfl
    rw [final]
    refine ⟨fun h => if_pos ⟨entering, last.2 h⟩, fun h => if_neg fun h' => h (last.1 h'.2)⟩

theorem enterSelfRefresh_spec (s : State) :
    let slept (p : Power) : State :=
      { s with
        store := { s.store with
          state := .selfRefresh, backlog := 0, refreshTimer := none, scrubTimer := none }
        power := p }
    (s.power.level = some .enteringDoze →
      s.enterSelfRefresh = { slept { s.power with level := some .doze, step := .none, asleep := true } with
        head := { s.head with sampleTimer := none } })
    ∧ (s.power.level = some .enteringRetain →
      s.enterSelfRefresh = { slept { s.power with level := some .retain, step := .none } with
        head := { s.head with sampleTimer := none } })
    ∧ (s.power.level ≠ some .enteringDoze → s.power.level ≠ some .enteringRetain →
      s.enterSelfRefresh = slept s.power) := by
  intro slept
  unfold State.enterSelfRefresh
  dsimp only
  refine ⟨fun level => ?_, fun level => ?_, fun doze retain => ?_⟩
  · rw [level]
  · rw [level]
  · split
    · exact absurd ‹_› doze
    · exact absurd ‹_› retain
    · rfl

/-! ## ON: the order of the priorities (R26, R28) -/

/-- A request above DIRECTORY is granted by R26's order. -/
theorem nextBurst_above {s : State} (on : s.store.state = .on) :
    (7 ≤ s.store.backlog → s.nextBurst = (some (.refreshRow false), s))
    ∧ (s.store.backlog < 7 →
      (∀ b, s.wantRx = some b → s.nextBurst = (some b, s))
      ∧ (∀ b, s.wantRx = none → s.wantTx = some b → s.nextBurst = (some b, s))
      ∧ (∀ b, s.wantRx = none → s.wantTx = none → s.wantPrint = some b → s.nextBurst = (some b, s))) := by
  unfold State.nextBurst State.aboveDirectory State.onOrder
  rw [on]
  refine ⟨fun due => ?_, fun few => ⟨fun b rx => ?_, fun b rx tx => ?_, fun b rx tx print => ?_⟩⟩
  · simp [due]
  · simp [Nat.not_le.2 few, rx]
  · simp [Nat.not_le.2 few, rx, tx]
  · simp [Nat.not_le.2 few, rx, tx, print]

/-- With no request above DIRECTORY its sources come next, then the other clients, refresh and scrub (R26). -/
theorem nextBurst_below {s : State} (on : s.store.state = .on) (few : s.store.backlog < 7) (rx : s.wantRx = none)
    (tx : s.wantTx = none) (print : s.wantPrint = none) :
    s.nextBurst = (s.dirSources[(s.choose s.dirSources.length).1]? <|> s.wantScan <|> s.wantHostIn <|> s.wantHostOut
      <|> (if 1 ≤ s.store.backlog then some (.refreshRow false) else none)
      <|> (if s.store.scrubWaiting then some .scrub else none), (s.choose s.dirSources.length).2) := by
  unfold State.nextBurst State.aboveDirectory State.onOrder
  rw [on]
  simp [Nat.not_le.2 few, rx, tx, print]

theorem choose_lt {s : State} {n : Nat} (pos : 0 < n) : (s.choose n).1 < n := by
  unfold State.choose
  split
  · exact pos
  · exact Nat.mod_lt _ pos

theorem nextBurst_directory {s : State} (on : s.store.state = .on) (few : s.store.backlog < 7)
    (rx : s.wantRx = none) (tx : s.wantTx = none) (print : s.wantPrint = none) (asks : s.dirSources ≠ []) :
    ∃ b ∈ s.dirSources, s.nextBurst.1 = some b := by
  have inside := choose_lt (s := s) (List.length_pos_of_ne_nil asks)
  refine ⟨_, List.getElem_mem inside, ?_⟩
  rw [nextBurst_below on few rx tx print, List.getElem?_eq_getElem inside]
  rfl

theorem nextBurst_rest {s : State} (on : s.store.state = .on) (few : s.store.backlog < 7)
    (rx : s.wantRx = none) (tx : s.wantTx = none) (print : s.wantPrint = none) (quiet : s.dirSources = []) :
    (∀ b, s.wantScan = some b → s.nextBurst = (some b, s))
    ∧ (∀ b, s.wantScan = none → s.wantHostIn = some b → s.nextBurst = (some b, s))
    ∧ (∀ b, s.wantScan = none → s.wantHostIn = none → s.wantHostOut = some b →
      s.nextBurst = (some b, s))
    ∧ (s.wantScan = none → s.wantHostIn = none → s.wantHostOut = none →
      (1 ≤ s.store.backlog → s.nextBurst = (some (.refreshRow false), s))
      ∧ (s.store.backlog = 0 → s.store.scrubWaiting = true →
        s.nextBurst = (some .scrub, s))) := by
  rw [nextBurst_below on few rx tx print, quiet]
  refine ⟨fun b scan => ?_, fun b scan hostIn => ?_, fun b scan hostIn hostOut => ?_,
    fun scan hostIn hostOut => ⟨fun due => ?_, fun done scrub => ?_⟩⟩
  · simp [State.choose, scan]
  · simp [State.choose, scan, hostIn]
  · simp [State.choose, scan, hostIn, hostOut]
  · simp [State.choose, scan, hostIn, hostOut, due]
  · simp [State.choose, scan, hostIn, hostOut, done, scrub]

/-! ## The grant and the burst's end (R23, R26) -/

theorem grantNext_idle {s t : State} {b : BurstKind} (idle : s.store.burst = none)
    (next : s.nextBurst = (some b, t)) :
    s.grantNext = if t.inStore b then some (t.granted b) else none := by
  unfold State.grantNext
  rw [idle, next]
  rfl

theorem grantNext_still {s : State} (still : s.store.burst ≠ none ∨ s.nextBurst.1 = none) :
    s.grantNext = some s := by
  unfold State.grantNext
  by_cases busy : s.store.burst.isSome = true
  · rw [if_pos busy]
  · have asks := still.resolve_left (fun h => busy (Option.isSome_iff_ne_none.2 h))
    rw [if_neg busy]
    split
    · rw [show s.nextBurst.1 = some _ from congrArg Prod.fst ‹_›] at asks
      cases asks
    · rfl

theorem exec_arbiterGrant (s : State) :
    exec .arbiterGrant s = match s.grantNext with
      | some t => .next (t.react.resume s.power.level)
      | none => .fault .outsideStore := rfl

theorem exec_burstEnd {flips : List StoreWord} {s : State} {b : Burst} (burst : s.store.burst = some b) :
    exec (.burstEnd flips) s = match ((s.endBurst b flips).react.resume s.power.level).grantNext with
      | some t => .next t
      | none => .fault .outsideStore := by
  change execBurstEnd flips s = _
  unfold execBurstEnd
  rw [burst] <;> rfl

/-- Settles O41: each client's request by its own definition, and the order by the first request that is there. -/
theorem grantsFollowThePriority : Obligations.GrantsFollowThePriority := by
  refine ⟨fun s b => ?granted, image_layout, fun s => ?boot, linkReads_spec, fun s => ?clients,
    fun s entering => ?entering, enterSelfRefresh_spec, fun s => ?grant, fun flips s => ⟨fun idle => ?_, ?ends⟩⟩
  case granted =>
    intro slot page u
    have same : s.bursting b = u := by
      cases b
      case fetchWords x a n =>
        simp only [State.bursting, State.burstPage, readerPage_eq, readerSlot_eq]
        rfl
      case fetchLink x h =>
        simp only [State.bursting, State.burstPage, readerPage_eq, readerSlot_eq]
        rfl
      all_goals rfl
    exact same ▸ granted_spec s b
  case boot =>
    obtain ⟨empty, link, first, second⟩ := dirBurst_spec s
    exact ⟨rfl, empty, link, first, second, bootBurst_spec s⟩
  case clients =>
    obtain ⟨noScan, scan⟩ := wantScan_spec s
    obtain ⟨noHost, host⟩ := wantHostIn_spec s
    obtain ⟨noRx, rx⟩ := wantRx_spec s
    refine ⟨noScan, noHost, noRx, scan, host, rx, fun x listed => ?_⟩
    simp only [List.mem_cons, List.not_mem_nil, or_false] at listed
    rcases listed with rfl | rfl | rfl
    · exact reader_spec s .print s.printDec.slot s.printDec.fetch
    · exact reader_spec s .line s.line.slot s.line.fetch
    · exact reader_spec s .host s.hostOut.slot s.hostOut.fetch
  case entering =>
    intro urgent held
    have next : s.nextBurst = (s.enteringOrder, s) := by
      unfold State.nextBurst
      rw [entering]
    obtain ⟨quiet, due, asked⟩ := enteringOrder_spec s
    obtain ⟨advance, still, ended⟩ := entering_spec entering
    rw [next]
    exact ⟨fun h => by rw [quiet h], fun h few => by rw [due h few], fun h few => by rw [asked h few], advance, still,
      ended⟩
  case grant =>
    obtain ⟨due, above⟩ := (⟨fun on => (nextBurst_above on).1, fun on => (nextBurst_above on).2⟩ :
      (s.store.state = .on → _) ∧ (s.store.state = .on → _))
    refine ⟨fun b u idle next inside => ?_, fun b u idle next outside => ?_, fun still => ?_, due,
      fun on few => ?_, fun init => ?_, fun asleep => ?_⟩
    · rw [exec_arbiterGrant, grantNext_idle idle next, inside]
      rfl
    · rw [exec_arbiterGrant, grantNext_idle idle next, outside]
      rfl
    · rw [exec_arbiterGrant, grantNext_still still]
    · obtain ⟨rx, tx, print⟩ := above on few
      exact ⟨rx, tx, print, fun noRx noTx noPrint =>
        ⟨nextBurst_directory on few noRx noTx noPrint, nextBurst_rest on few noRx noTx noPrint⟩⟩
    · unfold State.nextBurst
      rw [init]
    · unfold State.nextBurst
      rcases asleep with state | state <;> rw [state]
  · change execBurstEnd flips s = _
    unfold execBurstEnd
    rw [idle]
  case ends =>
    intro b burst u
    refine ⟨fun still => ?_, fun k v idle next inside => ?_⟩
    · rw [exec_burstEnd burst, show State.grantNext _ = some u from grantNext_still still]
    · rw [exec_burstEnd burst, show State.grantNext _ = some (v.granted k) from
        (grantNext_idle idle next).trans (if_pos inside)]

end Sys2Proof.Machine
end

section
/-! PROOF. What the end of each kind of burst does for its client (R28 to R37, R48, R56, R68, R137, R156). -/

namespace Sys2Proof.Machine

/-! ## The DAMAGED flag (R7, R21) -/

/-- A page's DAMAGED flag set, with its image write. -/
def State.flagged (s : State) (p : PageNo) : State :=
  { s.setPage p { s.page p with damaged := true } with
    pool := { s.pool with
      dirQueue := s.pool.dirQueue ++ if s.imageNeed p = 0 then [] else [.image p none false] } }

theorem setDamaged_eq (s : State) (p : PageNo) : s.setDamaged p = (s.flagged p).queueReport (.pageDamaged p) := by
  have need : (s.setPage p { s.page p with damaged := true }).imageNeed p = s.imageNeed p := rfl
  unfold State.setDamaged State.queueImage State.flagged
  rw [need]
  split
  · rw [List.append_nil]
    rfl
  · rfl

theorem flagDamaged_spec (s : State) (p : PageNo) (r : Option RouteNo) :
    let e := s.page p
    let due := (e.state = .closed ∨ e.state = .dropping) ∧ e.damaged = false ∧ (p, r) ∉ s.pool.damage
    (¬due → s.flagDamaged p r = s)
    ∧ (due → s.imageNeed p ≤ s.dirPlaces → s.flagDamaged p r = (s.flagged p).queueReport (.pageDamaged p))
    ∧ (due → s.dirPlaces < s.imageNeed p →
      s.flagDamaged p r = { s with pool := { s.pool with damage := s.pool.damage ++ [(p, r)] } }) := by
  intro e due
  refine ⟨fun idle => if_neg idle, fun flags room => ?_, fun flags full => ?_⟩
  · exact (if_pos flags).trans ((if_pos room).trans (setDamaged_eq s p))
  · exact (if_pos flags).trans (if_neg (Nat.not_le.2 full))

/-! ## Reads: the words offered to the log (R31) -/

/-- An offer changes the error log and the Report Queue alone. -/
theorem offer_changes (s : State) (c : LogClient) (a : Nat) (x : ReadWord) :
    ∃ log q, s.offer c a x = { s with store := { s.store with log := log }, reports := q } := by
  unfold State.offer
  split
  · exact ⟨_, _, rfl⟩
  · split
    · obtain ⟨q, same⟩ := queueReport_plain _ (.memory _) rfl
      exact ⟨_, q, same⟩
    · exact ⟨_, _, rfl⟩

theorem offerAll_changes (s : State) (c : Option LogClient) (a : Nat) (xs : List ReadWord) :
    ∃ log q, s.offerAll c a xs = { s with store := { s.store with log := log }, reports := q } := by
  unfold State.offerAll
  split
  · generalize (xs.mapIdx fun i x => (a + i, x)) = l
    induction l generalizing s with
    | nil => exact ⟨_, _, rfl⟩
    | cons x l ih =>
      obtain ⟨log, q, first⟩ := offer_changes s _ x.1 x.2
      obtain ⟨log', q', rest⟩ := ih (s.offer _ x.1 x.2)
      exact ⟨log', q', rest.trans (by rw [first])⟩
  · exact ⟨_, _, rfl⟩

/-- Clean words are offered to no one. -/
theorem offerAll_clean (s : State) (c : Option LogClient) (a : Nat) {xs : List ReadWord}
    (clean : ∀ x ∈ xs, x.cls = none) : s.offerAll c a xs = s := by
  unfold State.offerAll
  split
  · rename_i client
    have clean' : ∀ y ∈ xs.mapIdx fun i x => (a + i, x), y.2.cls = none := by
      intro y listed
      obtain ⟨i, inside, rfl⟩ := List.mem_mapIdx.1 listed
      exact clean _ (List.getElem_mem inside)
    revert clean'
    generalize (xs.mapIdx fun i x => (a + i, x)) = l
    intro clean'
    induction l with
    | nil => rfl
    | cons y l ih =>
      obtain ⟨b, x⟩ := y
      have still : s.offer client b x = s := by
        unfold State.offer
        rw [clean' (b, x) List.mem_cons_self]
      rw [List.foldl_cons]
      dsimp only
      rw [still]
      exact ih fun z listed => clean' z (List.mem_cons_of_mem _ listed)
  · rfl

/-! ## The end of a burst, told to its client -/

/-- The state with no burst in progress. -/
def State.idled (s : State) : State := { s with store := { s.store with burst := none } }

/-- A burst that reads nothing is delivered from the state it leaves. -/
theorem endBurst_blind {s : State} {b : Burst} (blind : b.kind.logClient = none) :
    s.endBurst b [] = (s.burstStores b.kind []).idled.deliver b [] := by
  unfold State.endBurst State.offerAll
  dsimp only
  rw [blind]
  rfl

theorem endBurst_fetch (s : State) (x : Reader) (a n : Nat) (o : Bool) (g : Option PageNo) :
    s.endBurst { kind := .fetchWords x a n, orphan := o, page := g } []
      = (s.offerAll (BurstKind.fetchWords x a n).logClient a (dramReadWords s.store.dram a n)).idled.deliver
        { kind := .fetchWords x a n, orphan := o, page := g } (dramReadWords s.store.dram a n) := by
  unfold State.endBurst
  cases x <;> simp only [List.take_nil] <;> rfl

/-! ## Rows (R28, R37, R38) -/

theorem rowDone_more {s : State} (more : 1 < s.store.initLeft) :
    s.rowDone = { s with store := { s.store with initLeft := s.store.initLeft - 1 } } :=
  if_neg (show ¬s.store.initLeft - 1 = 0 by omega)

theorem rowDone_last {s : State} (last : s.store.initLeft = 1) :
    s.rowDone = { s with store := { s.store with initLeft := 0 } }.storeOn := by
  refine (if_pos (show s.store.initLeft - 1 = 0 by omega)).trans ?_
  rw [last]

theorem endBurst_lastRow {s : State} (o : Bool) (g : Option PageNo) (last : s.store.initLeft = 1) :
    s.endBurst { kind := .initRow, orphan := o, page := g } []
      = ({ s with store := { s.store with burst := none, initLeft := 0 } } : State).storeOn :=
  rowDone_last (s := s.idled) last

/-- ON reached during boot, with no request standing (R37). -/
theorem storeOn_boot {s : State} (level : s.power.level = none) (request : s.store.request = .none)
    (boot : s.boot.state ≠ .ready) (task : s.boot.state ≠ .memoryStart → s.boot.task ≠ .failOn) :
    s.storeOn = { s with
      power := { s.power with request := .none }
      boot := if s.boot.state = .memoryStart then { s.boot with state := .romReplay } else s.boot
      store := { s.store with
        state := .on, backlog := 0, wakeTimer := none, refreshTimer := some (s.now + s.setup.refresh) } } := by
  unfold State.storeOn State.bootOn State.setBoot
  by_cases start : s.boot.state = .memoryStart
  · simp [request, level, start]
  · simp [boot, request, level, start, task start]

theorem finalRowDone_still {s : State}
    (goes : s.store.state ≠ .entering ∨ (s.store.request ≠ .retain ∧ s.urgentWaits = true)) :
    s.finalRowDone = s := by
  refine if_neg fun h => ?_
  rcases goes with other | ⟨request, urgent⟩
  · exact other h.1
  · rcases h.2 with retain | quiet
    · exact request retain
    · exact absurd (urgent.symm.trans quiet) (by decide)

theorem finalRowDone_sleeps {s : State} (entering : s.store.state = .entering)
    (done : s.store.request = .retain ∨ s.urgentWaits = false) (run : s.power.level = some .run) :
    s.finalRowDone = { s with store :=
      { s.store with
        state := .selfRefresh, backlog := 0, refreshTimer := none, scrubTimer := none } } := by
  refine (if_pos ⟨entering, done⟩).trans ?_
  unfold State.enterSelfRefresh
  dsimp only
  rw [run]

/-! ## Fetched words (R7, R34, R56) -/

theorem wordsFetched_clean {s : State} {x : Reader} {xs : List ReadWord} (clean : ∀ w ∈ xs, w.cls = none) :
    s.wordsFetched x xs =
      if (s.fetchOf x).active = true then s.setFetch x ((s.fetchOf x).receive (xs.map ReadWord.data)) else s := by
  refine if_neg fun h => ?_
  obtain ⟨w, listed, wrong⟩ := List.any_eq_true.1 h
  simp [clean w listed] at wrong

/-- A page that is to be flagged, with its place at hand, is flagged. -/
theorem page_flagDamaged {s : State} {p : PageNo} {r : Option RouteNo}
    (shut : (s.page p).state = .closed ∨ (s.page p).state = .dropping) (clean : (s.page p).damaged = false)
    (room : s.imageNeed p ≤ s.dirPlaces) (alone : ∀ y ∈ s.pool.damage, y.1 ≠ p) :
    ((s.flagDamaged p r).page p).damaged = true := by
  obtain ⟨-, flags, -⟩ := flagDamaged_spec s p r
  rw [flags ⟨shut, clean, fun listed => alone _ listed rfl⟩ room]
  have same : ((s.flagged p).queueReport (.pageDamaged p)).page p = (s.flagged p).page p :=
    (congrArg (fun u : State => u.page p) (queueReport_unwoken (s.flagged p) (.pageDamaged p)) :)
  rw [same]
  exact congrArg PageEntry.damaged (page_setPage_same s p _)

/-- The words a reader fetches from its page flag it where one is uncorrectable. -/
theorem page_wordsFetched {s : State} {x : Reader} {p : PageNo} {xs : List ReadWord}
    (spoilt : xs.any (fun w => w.cls = some .uncorrectable) = true) (reads : s.readerPage x = some p)
    (shut : (s.page p).state = .closed ∨ (s.page p).state = .dropping) (clean : (s.page p).damaged = false)
    (room : s.imageNeed p ≤ s.dirPlaces) (alone : ∀ y ∈ s.pool.damage, y.1 ≠ p) :
    ((s.wordsFetched x xs).page p).damaged = true := by
  have flags (t : State) (page : t.readerPage x = some p) (shut : (t.page p).state = .closed ∨ (t.page p).state = .dropping)
      (clean : (t.page p).damaged = false) (room : t.imageNeed p ≤ t.dirPlaces)
      (alone : ∀ y ∈ t.pool.damage, y.1 ≠ p) :
      ((t.readDamaged (t.readerPage x) (t.readerSlot x)).page p).damaged = true := by
    rw [page]
    exact page_flagDamaged shut clean room alone
  have fetched : s.wordsFetched x xs = (if (s.fetchOf x).active then
      s.setFetch x ((s.fetchOf x).receive (xs.map ReadWord.data)) else s).readDamaged
        ((if (s.fetchOf x).active then
          s.setFetch x ((s.fetchOf x).receive (xs.map ReadWord.data)) else s).readerPage x)
        ((if (s.fetchOf x).active then
          s.setFetch x ((s.fetchOf x).receive (xs.map ReadWord.data)) else s).readerSlot x) := if_pos spoilt
  rw [fetched]
  split
  · cases x <;> exact flags _ reads shut clean room alone
  · exact flags s reads shut clean room alone

/-! ## Link words (R33, R34) -/

theorem readerLink_passes {s : State} {x : Reader} {r : RouteNo} {v : Word} (slot : s.readerSlot x = some r)
    (data : s.isData v.toNat = true) (active : (s.fetchOf x).active = true) :
    s.readerLink x (some v) = s.setFetch x { s.fetchOf x with block := v.toNat, offset := 0 } := by
  have passes : s.linkPasses (some v) = true := data
  simp only [State.readerLink, slot]
  exact (if_pos passes).trans (if_pos active)

theorem readerLink_fails {s : State} {x : Reader} {r : RouteNo} {link : Option Word}
    (slot : s.readerSlot x = some r) (fails : s.linkPasses link = false) :
    s.readerLink x link = (match s.readerPage x with
      | some p => s.flagDamaged p (some r)
      | none => s).failRoute r .memory := by
  simp only [State.readerLink, slot, fails]
  rfl

/-! ## Scrub (R36) -/

/-- Scrub stores a corrected word anew and leaves the others. -/
theorem dramRead_scrubWords (xs : List ReadWord) {m : List (Nat × StoreWord)} (a : Nat) (wf : dramWf m = true)
    (i : Nat) (inside : i < xs.length) :
    dramRead (scrubWords m a xs) (a + i) =
      if xs[i].cls = some .corrected then encodeWord xs[i].data else dramRead m (a + i) := by
  induction xs generalizing m a i with
  | nil => exact absurd inside (Nat.not_lt_zero i)
  | cons x xs ih =>
    have wf' : dramWf (if x.cls = some .corrected then dramWrite m a (encodeWord x.data) else m) = true := by
      split
      · exact dramWrite_wf a _ wf
      · exact wf
    rw [scrubWords]
    cases i with
    | zero =>
      rw [scrubWords_other _ _ _ _ (.inl (by omega))]
      by_cases corrected : x.cls = some .corrected
      · simp only [corrected, List.getElem_cons_zero, if_true, Nat.add_zero]
        exact dramRead_dramWrite_same m a _ 0 wf
      · simp only [corrected, List.getElem_cons_zero, if_false]
    | succ i =>
      have next := ih (a + 1) wf' i (by simpa using inside)
      rw [show a + (i + 1) = a + 1 + i by omega, next, List.getElem_cons_succ]
      by_cases corrected : x.cls = some .corrected
      · rw [if_pos corrected, dramRead_dramWrite_other _ _ _ _ (by omega)]
      · rw [if_neg corrected]

/-- The end of a scrub burst, word by word (R36). -/
theorem endBurst_scrub {s : State} (o : Bool) (g : Option PageNo) (wf : dramWf s.store.dram = true) {i : Nat}
    (inside : i < 8) :
    let u := s.endBurst { kind := .scrub, orphan := o, page := g } []
    let a := s.store.scrubPos + i
    ((decodeWord (dramRead s.store.dram a)).cls = some .corrected →
      dramRead u.store.dram a = encodeWord (decodeWord (dramRead s.store.dram a)).data)
    ∧ ((decodeWord (dramRead s.store.dram a)).cls ≠ some .corrected →
      dramRead u.store.dram a = dramRead s.store.dram a)
    ∧ u.store.scrubPos
      = (if s.store.geometry * 512 ≤ s.store.scrubPos + 8 then 0 else s.store.scrubPos + 8) := by
  intro u a
  have dram : u.store.dram
      = scrubWords s.store.dram s.store.scrubPos (dramReadWords s.store.dram s.store.scrubPos 8) :=
    endBurst_dram s _ []
  have word : dramRead u.store.dram a =
      if (decodeWord (dramRead s.store.dram a)).cls = some .corrected then
        encodeWord (decodeWord (dramRead s.store.dram a)).data
      else dramRead s.store.dram a := by
    rw [dram, dramRead_scrubWords _ _ wf i (by simpa [dramReadWords] using inside)]
    simp only [dramReadWords, List.getElem_map, List.getElem_range, a]
  refine ⟨fun corrected => word.trans (if_pos corrected), fun other => word.trans (if_neg other), ?_⟩
  obtain ⟨log, q, offered⟩ := offerAll_changes s (some .scrub) s.store.scrubPos
    (dramReadWords s.store.dram s.store.scrubPos 8)
  have pos : u.store.scrubPos = (s.offerAll (some .scrub) s.store.scrubPos
      (dramReadWords s.store.dram s.store.scrubPos 8)).scrubbed.store.scrubPos := rfl
  rw [pos, offered]
  rfl

/-! ## The CLEAN header (R156) -/

/-- A retain request placed at ON with a refresh backlog: ENTERING, its final row granted (R38, R41). -/
theorem placeRetain_backlog {s : State} (on : s.store.state = .on) (idle : s.store.burst = none)
    (backlog : 0 < s.store.backlog) :
    let u := s.placeRetain
    u.boot = s.boot ∧ u.power = s.power ∧ u.store.state = .entering ∧ u.store.request = .retain
      ∧ u.store.dram = s.store.dram := by
  intro u
  have granted : u = ({ s with store := { s.store with state := .entering, request := .retain } } : State).granted
      (.refreshRow true) := by
    unfold u State.placeRetain State.entryAdvance
    simp [on, idle, backlog]
  rw [granted]
  exact ⟨rfl, rfl, rfl, rfl, rfl⟩

/-- Settles O42: each burst's end is its delivery, from the state its writes and reads leave. -/
theorem burstEndsServeTheirClients : Obligations.BurstEndsServeTheirClients := by
  refine ⟨fun s p r => ?flag, fun s o g => ⟨fun more => ?_, fun last ready start task level request => ?_,
    fun last start level request => ?_, ?_, fun goes => ?_, fun entering done run => ?_, fun k v rest queue => ?_,
    fun p ws rest queue => ?_, fun p ws rest queue => ?_, fun a ws => ?_, fun a ws n => ?_, fun a ws => ?_,
    fun a ws n k listed => ?_, fun x a n => ?clean, fun x a n p => ?spoilt, fun x h r xs slot => ?link,
    fun i inside wf => endBurst_scrub o g wf inside, fun ws on backlog => ?clean_header⟩⟩
  case flag =>
    intro e due flagged
    change _ ∧ (_ → _ → _ = (s.flagged p).queueReport (.pageDamaged p)) ∧ _
    exact flagDamaged_spec s p r
  · rw [endBurst_blind rfl]
    exact rowDone_more more
  · rw [endBurst_lastRow o g last, storeOn_boot (by exact level) (by exact request) (by exact ready)
      (fun _ => by exact task), if_neg start]
  · have unready : s.boot.state ≠ .ready := by simp [start]
    rw [endBurst_lastRow o g last, storeOn_boot (by exact level) (by exact request) (by exact unready)
      (fun h => absurd (by exact start) h), if_pos start]
  · rfl
  · rw [endBurst_blind rfl]
    exact finalRowDone_still goes
  · rw [endBurst_blind rfl]
    exact finalRowDone_sleeps entering done run
  · rw [endBurst_blind rfl]
    change State.dirWritten _ = _
    unfold State.dirWritten
    simp only [State.burstStores, State.writeWords, State.setDram, State.idled, queue]
    rfl
  · rw [endBurst_blind rfl]
    change (State.dirWritten _).pool.dirQueue = _
    unfold State.dirWritten
    simp only [State.burstStores, State.writeWords, State.setDram, State.idled, queue]
    rfl
  · rw [endBurst_blind rfl]
    change (State.dirWritten _).pool.dirQueue = _
    unfold State.dirWritten
    simp only [State.burstStores, State.writeWords, State.setDram, State.idled, queue]
    rfl
  · rfl
  · rfl
  · rfl
  · simp only [List.mem_cons, List.not_mem_nil, or_false] at listed
    rcases listed with rfl | rfl | rfl <;> rfl
  case clean =>
    intro xs idle clean
    rw [endBurst_fetch, endBurst_fetch, offerAll_clean s _ a clean]
    refine ⟨wordsFetched_clean clean, if_neg fun h => ?_⟩
    obtain ⟨w, listed, wrong⟩ := List.any_eq_true.1 h
    simp [clean w listed] at wrong
  case spoilt =>
    intro xs wrong run shut clean room alone
    have met : xs.any (fun w => w.cls = some .uncorrectable) = true := by simpa using wrong
    obtain ⟨log, q, offered⟩ := offerAll_changes s (BurstKind.fetchWords x a n).logClient a xs
    refine ⟨fun page => ?_, ?_⟩
    · rw [endBurst_fetch, offered]
      exact page_wordsFetched met (by cases x <;> exact page) shut clean room alone
    · rw [endBurst_fetch, offered]
      refine (congrArg (fun u : State => (u.page p).damaged) (if_pos met)).trans ?_
      exact page_flagDamaged shut clean room alone
  case link =>
    refine ⟨fun v link data active => ?_, fun fails => readerLink_fails slot fails⟩
    change s.readerLink x (s.linkOf h xs) = _
    rw [link, readerLink_passes slot data active]
  case clean_header =>
    intro u
    have placed := placeRetain_backlog (s := { s with
      store := { s.store with dram := dramWriteWords s.store.dram 0 ws, burst := none }
      boot := { s.boot with retained := true }
      power := { s.power with step := .retainRequest, request := .retain } }) on rfl backlog
    exact placed

end Sys2Proof.Machine
end

section
/-! PROOF. The Block Pool: allocation, the alert, opening, closing, refills and the rebuild (R3 to R6, R13 to R20). -/

namespace Sys2Proof.Machine

/-! ## The answer to a writer's ask (R14) -/

theorem askBlock_spec (s : State) (r : RouteNo) :
    (s.pool.state ≠ .inService → s.askBlock r = .wait)
    ∧ (s.pool.state = .inService →
      (0 < (s.route r).remainder ∨ 0 < s.available →
        s.askBlock r = if s.pool.spare = [] then .wait else .give)
      ∧ ((s.route r).remainder = 0 → s.available = 0 → s.askBlock r = .cannot)) := by
  refine ⟨fun out => if_pos out, fun service => ⟨fun has => ?_, fun reserved unreserved => ?_⟩⟩
  · refine (if_neg fun h => h service).trans ((if_pos has).trans ?_)
    simp only [List.isEmpty_iff]
  · exact (if_neg fun h => h service).trans (if_neg (by omega))

theorem freeEntry_iff (s : State) (p : PageNo) :
    s.freeEntry = some p ↔ (s.page p).state = .free ∧ ∀ q < p, (s.page q).state ≠ .free := by
  unfold State.freeEntry allFin
  rw [List.find?_eq_some_iff_getElem]
  constructor
  · rintro ⟨free, i, inside, at_, before⟩
    rw [List.getElem_finRange] at at_
    refine ⟨by simpa using free, fun q less => ?_⟩
    have index : q.val < i := by
      have val := congrArg Fin.val at_
      have less' : q.val < p.val := less
      simp only [Fin.val_cast] at val
      omega
    have found := before q.val index
    rw [List.getElem_finRange] at found
    simpa using found
  · rintro ⟨free, before⟩
    refine ⟨by simpa using free, p.val, by simp, by simp, fun j less => ?_⟩
    have later := before ⟨j, by omega⟩ (by exact less)
    simpa using later

/-! ## What follows a change of availability (R16, R17) -/

/-- The alert's part of a change of availability. -/
def State.alerted (s : State) (before : Nat) : State :=
  if s.available < before ∧ s.setup.lowMark ≤ before ∧ s.available < s.setup.lowMark ∧ s.pool.alert = .none then
    { s with pool := { s.pool with alert := .low } }.queueReport .poolLow
  else if before < s.available ∧ s.setup.lowMark < s.available ∧ s.pool.alert ≠ .none then
    { s with pool := { s.pool with alert := .none } }.queueReport .poolOk
  else s

/-- The writers that starve ask again, once there is a block. -/
def State.refed (s : State) : State :=
  let t := (s.unstarve s.coder.slot s.coder.writer.starved)
  let t := t.unstarve t.hostIn.slot t.hostIn.writer.starved
  { t with
    coder := { t.coder with writer := { t.coder.writer with starved := false } }
    hostIn := { t.hostIn with writer := { t.hostIn.writer with starved := false } } }

theorem availChange_eq (s : State) (before : Nat) :
    s.availChange before = if before = 0 ∧ 0 < s.available then (s.alerted before).refed else s.alerted before := rfl

theorem alerted_spec {s : State} {before : Nat} (run : s.power.level = some .run) :
    (s.available < before → s.setup.lowMark ≤ before → s.available < s.setup.lowMark → s.pool.alert = .none →
      s.alerted before = { s with
        pool := { s.pool with alert := .low }, reports := enqueue .poolLow false s.reports })
    ∧ (before < s.available → s.setup.lowMark < s.available → s.pool.alert ≠ .none →
      s.alerted before = { s with
        pool := { s.pool with alert := .none }, reports := enqueue .poolOk false s.reports })
    ∧ (s.available = before → s.alerted before = s)
    ∧ (s.available < before → s.pool.alert ≠ .none → s.alerted before = s)
    ∧ (s.available < before → before < s.setup.lowMark ∨ s.setup.lowMark ≤ s.available → s.alerted before = s)
    ∧ (before < s.available → s.available ≤ s.setup.lowMark → s.alerted before = s) := by
  have still (no_fall : ¬(s.available < before ∧ s.setup.lowMark ≤ before ∧ s.available < s.setup.lowMark
        ∧ s.pool.alert = .none))
      (no_rise : ¬(before < s.available ∧ s.setup.lowMark < s.available ∧ s.pool.alert ≠ .none)) :
      s.alerted before = s := (if_neg no_fall).trans (if_neg no_rise)
  refine ⟨fun fall mark low none_ => ?_, fun rise mark some_ => ?_, fun same => still (by omega) (by omega),
    fun fall some_ => still (fun h => some_ h.2.2.2) (by omega), fun fall mark => still (by omega) (by omega),
    fun rise mark => still (by omega) (by omega)⟩
  · exact (if_pos ⟨fall, mark, low, none_⟩).trans (queueReport_run _ _ (by exact run))
  · exact (if_neg (by omega)).trans ((if_pos ⟨rise, mark, some_⟩).trans (queueReport_run _ _ (by exact run)))

/-- Without a rise from 0 only the alert can change (R16, R17). -/
theorem availChange_alerted {s : State} {before : Nat} (some_ : 0 < before ∨ s.available = 0) :
    s.availChange before = s.alerted before :=
  if_neg (by omega)

theorem availChange_same {s : State} {before : Nat} (same : s.available = before) : s.availChange before = s := by
  rw [availChange_alerted (by omega)]
  exact (if_neg (by omega)).trans (if_neg (by omega))

/-- The route of a starved writer goes from STALLED to RUNNING, and no route's state otherwise. -/
theorem unstarve_state (s : State) (slot : Option RouteNo) (starved : Bool) (r : RouteNo) :
    ((s.unstarve slot starved).route r).state
      = if slot = some r ∧ starved = true ∧ (s.route r).state = .stalled then .running else (s.route r).state := by
  unfold State.unstarve
  cases slot with
  | none => simp
  | some q =>
    by_cases goes : starved = true ∧ (s.route q).state = .stalled
    · obtain ⟨reports, changes⟩ := routeTo_changes s q .running
      have record : ({ s.setRoute q { s.route q with state := .running } with reports := reports } : State).route r
          = if r = q then { s.route q with state := .running } else s.route r := route_setRoute s q r _
      simp only [goes, Bool.true_and, beq_self_eq_true, if_true]
      rw [changes, record]
      by_cases same : r = q
      · subst same
        simp [goes]
      · simp [same, Ne.symm same]
    · have stays : ¬(starved && (s.route q).state == .stalled) = true := by simpa using goes
      dsimp only
      rw [if_neg stays]
      refine (if_neg ?_).symm
      rintro ⟨same, h⟩
      exact goes (Option.some.inj same ▸ h)

theorem alerted_frame (s : State) (before : Nat) : ∃ al q, s.alerted before = { s with
    pool := { s.pool with alert := al }, reports := q } := by
  unfold State.alerted
  split
  · obtain ⟨q, same⟩ := queueReport_plain { s with pool := { s.pool with alert := .low } } .poolLow rfl
    exact ⟨.low, q, same⟩
  · split
    · obtain ⟨q, same⟩ := queueReport_plain { s with pool := { s.pool with alert := .none } } .poolOk rfl
      exact ⟨.none, q, same⟩
    · exact ⟨_, _, rfl⟩

/-- Blocks to be had again: the writers that starved are fed, their routes RUNNING (R16, R67). -/
theorem refed_spec (s : State) :
    s.refed.coder.writer.starved = false ∧ s.refed.hostIn.writer.starved = false
    ∧ ∀ r, (s.coder.slot = some r ∧ s.coder.writer.starved = true)
        ∨ (s.hostIn.slot = some r ∧ s.hostIn.writer.starved = true) →
      (s.route r).state = .stalled → (s.refed.route r).state = .running := by
  refine ⟨rfl, rfl, fun r starves stalled => ?_⟩
  have kept : (s.unstarve s.coder.slot s.coder.writer.starved).hostIn = s.hostIn := by
    obtain ⟨q, rs, same, -⟩ := unstarve_changes s s.coder.slot s.coder.writer.starved
    rw [same]
  have state : (s.refed.route r).state
      = (((s.unstarve s.coder.slot s.coder.writer.starved).unstarve s.hostIn.slot s.hostIn.writer.starved).route
          r).state := by
    rw [← kept]
    rfl
  rw [state, unstarve_state, unstarve_state]
  rcases starves with ⟨slot, starved⟩ | ⟨slot, starved⟩
  · simp [slot, starved, stalled]
  · simp [slot, starved, stalled]

/-! ## Opening, extending and closing a page (R3 to R6, R12) -/

/-- The image write that an entry's change queues, where none waits unbegun (R2). -/
def State.imageWrites (s : State) (p : PageNo) : List DirItem :=
  if s.imageNeed p = 0 then [] else [.image p none false]

theorem queueImage_writes (s : State) (p : PageNo) :
    s.queueImage p = { s with pool := { s.pool with dirQueue := s.pool.dirQueue ++ s.imageWrites p } } := by
  unfold State.queueImage State.imageWrites
  split
  · rw [List.append_nil]
  · rfl

/-- A link write is no image write. -/
theorem imageNeed_links {s t : State} {p : PageNo} {links : List DirItem}
    (queue : t.pool.dirQueue = s.pool.dirQueue ++ links)
    (plain : ∀ x ∈ links, DirItem.isFreshImage p x = false) : t.imageNeed p = s.imageNeed p := by
  have none_ : links.any (DirItem.isFreshImage p) = false := List.any_eq_false.2 fun x listed => by simp [plain x listed]
  simp only [State.imageNeed, queue, List.any_append, none_, Bool.or_false]

/-- A change of availability leaves the pages, the pool but its alert, and each record but its state. -/
theorem availChange_frame (s : State) (before : Nat) :
    (s.availChange before).pages = s.pages
    ∧ (∃ al, (s.availChange before).pool = { s.pool with alert := al })
    ∧ ∀ i : RouteNo, ∃ st, (s.availChange before).route i = { s.route i with state := st } := by
  obtain ⟨q, rs, al, a, b, same, states⟩ := availChange_changes s before
  rw [same]
  exact ⟨rfl, ⟨al, rfl⟩, states⟩

/-- An entry that takes the oldest spare block for a route, with its link writes (R4, R12, R14). -/
def State.entryTaken (s : State) (r : RouteNo) (p : PageNo) (e : PageEntry) (rest : List Nat)
    (links : List DirItem) : State :=
  { (s.setPage p e).setRoute r { s.route r with remainder := (s.route r).remainder - 1 } with
    pool := { s.pool with spare := rest, dirQueue := s.pool.dirQueue ++ links ++ s.imageWrites p } }

theorem queueImage_taken {s t : State} {r : RouteNo} {p : PageNo} {e : PageEntry} {b : Nat} {rest : List Nat}
    {links : List DirItem} (spare : s.pool.spare = b :: rest)
    (plain : ∀ x ∈ links, DirItem.isFreshImage p x = false)
    (taken : t = { (s.takeSpare r).setPage p e with
      pool := { (s.takeSpare r).pool with dirQueue := s.pool.dirQueue ++ links } }) :
    t.queueImage p = s.entryTaken r p e rest links := by
  subst taken
  have writes : State.imageWrites { (s.takeSpare r).setPage p e with
      pool := { (s.takeSpare r).pool with dirQueue := s.pool.dirQueue ++ links } } p = s.imageWrites p := by
    unfold State.imageWrites
    rw [imageNeed_links (s := s) rfl plain]
  have oldest : (s.takeSpare r).pool.spare = rest := congrArg List.tail spare
  rw [queueImage_writes, writes, State.entryTaken, ← oldest]
  rfl

/-- An extended page (R4). -/
theorem extendPage_eq {s : State} {b : Nat} {rest : List Nat} (r : RouteNo) (p : PageNo)
    (spare : s.pool.spare = b :: rest) :
    s.extendPage r p = (s.entryTaken r p { s.page p with tail := b, blockCount := (s.page p).blockCount + 1 } rest
      [.link (s.page p).tail (BitVec.ofNat 16 b), .link b 0xFFFF]).availChange s.available := by
  have oldest : s.pool.spare.headD 0 = b := by rw [spare]; rfl
  unfold State.extendPage
  dsimp only
  rw [oldest]
  refine congrArg (State.availChange · s.available) (queueImage_taken spare (by simp [DirItem.isFreshImage]) ?_)
  have links : (s.pool.dirQueue ++ [.link (s.page p).tail (BitVec.ofNat 16 b)]) ++ [.link b (BitVec.ofNat 16 Config.endWord)]
      = s.pool.dirQueue ++ [.link (s.page p).tail (BitVec.ofNat 16 b), .link b 0xFFFF] := by simp [Config.endWord]
  rw [← links]
  rfl

/-- The entry of a page opened for a route (R3). -/
def State.freshEntry (s : State) (r : RouteNo) (origin : Origin) (b : Nat) : PageEntry :=
  { PageEntry.freeEntry with
    state := .opened, origin := origin, pitch := (s.route r).pitch
    codeSlot := ((s.route r).code.map Fin.val).getD (s.route r).namedCode, head := b, tail := b
    blockCount := 1, lineCount := if origin = .host then none else some 0, owner := some r }

/-- An opened page (R3). -/
theorem openEntry_eq {s : State} {b : Nat} {rest : List Nat} (r : RouteNo) (p : PageNo) (origin : Origin)
    (spare : s.pool.spare = b :: rest) :
    s.openEntry r p origin =
      let t := s.entryTaken r p (s.freshEntry r origin b) rest [.link b 0xFFFF]
      ((t.setRoute r { t.route r with page := some p, lastCounts := none }).queueReport
        (.pageOpened p)).availChange s.available := by
  have oldest : s.pool.spare.headD 0 = b := by rw [spare]; rfl
  have taken := queueImage_taken (t := ((s.takeSpare r).setPage p (s.freshEntry r origin b)).queueLink b
      (BitVec.ofNat 16 Config.endWord)) spare (r := r) (p := p) (e := s.freshEntry r origin b)
    (links := [.link b 0xFFFF]) (by simp [DirItem.isFreshImage]) rfl
  rw [← taken]
  unfold State.openEntry State.freshEntry
  dsimp only
  rw [oldest]
  cases (s.route r).code <;> rfl

theorem page_entryTaken (s : State) (r : RouteNo) (p : PageNo) (e : PageEntry) (rest : List Nat)
    (links : List DirItem) :
    (s.entryTaken r p e rest links).page p = e ∧ ∀ q, q ≠ p → (s.entryTaken r p e rest links).page q = s.page q :=
  ⟨page_setPage_same s p e, fun _ other => page_setPage_other s e other⟩

theorem route_entryTaken (s : State) (r : RouteNo) (p : PageNo) (e : PageEntry) (rest : List Nat)
    (links : List DirItem) :
    (s.entryTaken r p e rest links).route r = { s.route r with remainder := (s.route r).remainder - 1 } :=
  route_setRoute_same s r _

theorem openEntry_spec {s : State} {b : Nat} {rest : List Nat} (r : RouteNo) (p : PageNo) (origin : Origin)
    (spare : s.pool.spare = b :: rest) :
    let u := s.openEntry r p origin
    u.page p = s.freshEntry r origin b
      ∧ (∀ q, q ≠ p → u.page q = s.page q)
      ∧ (u.route r).page = some p ∧ (u.route r).remainder = (s.route r).remainder - 1
      ∧ u.pool.spare = rest ∧ u.pool.freeCount = s.pool.freeCount
      ∧ u.pool.dirQueue = s.pool.dirQueue ++ [.link b 0xFFFF] ++ s.imageWrites p := by
  intro u
  let t := s.entryTaken r p (s.freshEntry r origin b) rest [.link b 0xFFFF]
  let v := t.setRoute r { t.route r with page := some p, lastCounts := none }
  obtain ⟨q, reported⟩ := queueReport_plain v (.pageOpened p) rfl
  have opened : u = (v.queueReport (.pageOpened p)).availChange s.available := openEntry_eq r p origin spare
  obtain ⟨pages, ⟨al, pool⟩, states⟩ := availChange_frame (v.queueReport (.pageOpened p)) s.available
  obtain ⟨st, record⟩ := states r
  rw [← opened] at pages pool record
  rw [reported] at pages pool record
  have page_eq (q : PageNo) : u.page q = t.page q := congrArg (fun x : Vector PageEntry 32 => x[q]) pages
  have route_eq : u.route r = { t.route r with page := some p, lastCounts := none, state := st } :=
    record.trans (congrArg (fun x : Route => { x with state := st })
      (route_setRoute_same t r { t.route r with page := some p, lastCounts := none }))
  obtain ⟨own, others⟩ := page_entryTaken s r p (s.freshEntry r origin b) rest [.link b 0xFFFF]
  refine ⟨(page_eq p).trans own, fun q other => (page_eq q).trans (others q other), by rw [route_eq], ?_, ?_, ?_, ?_⟩
  · rw [route_eq]
    exact congrArg Route.remainder (route_entryTaken s r p _ rest _)
  all_goals rw [pool]; rfl

theorem extendPage_spec {s : State} {b : Nat} {rest : List Nat} (r : RouteNo) (p : PageNo)
    (spare : s.pool.spare = b :: rest) :
    let u := s.extendPage r p
    u.page p = { s.page p with tail := b, blockCount := (s.page p).blockCount + 1 }
      ∧ (∀ q, q ≠ p → u.page q = s.page q)
      ∧ (u.route r).remainder = (s.route r).remainder - 1
      ∧ u.pool.spare = rest ∧ u.pool.freeCount = s.pool.freeCount
      ∧ u.pool.dirQueue = s.pool.dirQueue ++ [.link (s.page p).tail (BitVec.ofNat 16 b), .link b 0xFFFF]
        ++ s.imageWrites p := by
  intro u
  let t := s.entryTaken r p { s.page p with tail := b, blockCount := (s.page p).blockCount + 1 } rest
    [.link (s.page p).tail (BitVec.ofNat 16 b), .link b 0xFFFF]
  have extended : u = t.availChange s.available := extendPage_eq r p spare
  obtain ⟨pages, ⟨al, pool⟩, states⟩ := availChange_frame t s.available
  obtain ⟨st, record⟩ := states r
  rw [← extended] at pages pool record
  have page_eq (q : PageNo) : u.page q = t.page q := congrArg (fun x : Vector PageEntry 32 => x[q]) pages
  obtain ⟨own, others⟩ := page_entryTaken s r p { s.page p with tail := b, blockCount := (s.page p).blockCount + 1 }
    rest [.link (s.page p).tail (BitVec.ofNat 16 b), .link b 0xFFFF]
  refine ⟨(page_eq p).trans own, fun q other => (page_eq q).trans (others q other), ?_, ?_, ?_, ?_⟩
  · rw [record]
    exact congrArg Route.remainder (route_entryTaken s r p _ rest _)
  all_goals rw [pool]; rfl

/-- A closed page (R5, R6). -/
theorem closePage_spec (s : State) (r : RouteNo) (p : PageNo) (c : PageClose) :
    let u := s.closePage r p c
    u.page p = { s.page p with
        state := .closed, bitLength := c.bitLength, lineCount := c.lineCount, badLines := c.badLines
        truncated := (s.page p).truncated || c.truncated, owner := none }
      ∧ (∀ q, q ≠ p → u.page q = s.page q)
      ∧ u.routes = s.routes.set r { s.route r with page := none, lastPage := some p }
      ∧ (s.power.level = some .run →
        u.reports = enqueue (.pageClosed p c.truncated) false s.reports)
      ∧ u.pool.dirQueue = s.pool.dirQueue ++ s.imageWrites p := by
  intro u
  let e : PageEntry := { s.page p with
    state := .closed, bitLength := c.bitLength, lineCount := c.lineCount, badLines := c.badLines
    truncated := (s.page p).truncated || c.truncated, owner := none }
  let v : State := { (s.setPage p e).setRoute r { s.route r with page := none, lastPage := some p } with
    pool := { s.pool with dirQueue := s.pool.dirQueue ++ s.imageWrites p } }
  have closed : u = v.queueReport (.pageClosed p c.truncated) := by
    unfold u State.closePage
    dsimp only
    rw [queueImage_writes]
    rfl
  obtain ⟨q, reported⟩ := queueReport_plain v (.pageClosed p c.truncated) rfl
  refine ⟨?_, fun q' other => ?_, ?_, fun run => ?_, ?_⟩
  · rw [closed, reported]
    exact page_setPage_same s p e
  · rw [closed, reported]
    exact page_setPage_other s e other
  · rw [closed, reported]
    rfl
  · rw [closed, queueReport_run _ _ (by exact run)]
    rfl
  · rw [closed, reported]

/-! ## Asking for blocks (R3, R4, R14, R16) -/

theorem tryOpen_spec (s : State) (r : RouteNo) (k : RouteKind) :
    (s.freeEntry = none → s.askOpen r k = s.failRoute r .noPage)
    ∧ (s.askBlock r = .wait → s.tryOpen r k = s)
    ∧ (s.askBlock r = .cannot →
      s.tryOpen r k = if s.freeEntry = none then s.failRoute r .noPage else s.starve r k)
    ∧ (s.askBlock r = .give → s.freeEntry = none → 2 ≤ s.dirPlaces →
      s.tryOpen r k = s.failRoute r .noPage)
    ∧ (∀ p, s.askBlock r = .give → s.freeEntry = some p →
      (1 + s.imageNeed p ≤ s.dirPlaces →
        let u := s.openEntry r p k.origin
        s.tryOpen r k
          = u.setWriter k { u.writer k with opening := false, room := 512, written := 0 })
      ∧ (s.dirPlaces < 1 + s.imageNeed p → s.tryOpen r k = s)) := by
  unfold State.tryOpen State.askOpen
  refine ⟨fun full => ?_, fun waits => ?_, fun starves => ?_, fun gives full room => ?_,
    fun p gives free => ⟨fun room => ?_, fun none_ => ?_⟩⟩
  · rw [full]
  · rw [waits]
  · rw [starves]
    cases s.freeEntry <;> rfl
  · rw [gives, full]
    exact if_pos room
  · rw [gives, free]
    exact if_pos room
  · rw [gives, free]
    exact if_neg (Nat.not_le.2 none_)

theorem tryExtend_spec (s : State) (r : RouteNo) (k : RouteKind) (p : PageNo) :
    (s.askBlock r = .wait → s.tryExtend r k p = s)
    ∧ (s.askBlock r = .cannot → s.tryExtend r k p = s.starve r k)
    ∧ (s.askBlock r = .give →
      (2 + s.imageNeed p ≤ s.dirPlaces →
        let u := s.extendPage r p
        s.tryExtend r k p = u.setWriter k { u.writer k with room := 512 })
      ∧ (s.dirPlaces < 2 + s.imageNeed p → s.tryExtend r k p = s)) := by
  unfold State.tryExtend
  refine ⟨fun waits => ?_, fun starves => ?_, fun gives => ⟨fun room => ?_, fun none_ => ?_⟩⟩
  · rw [waits]
  · rw [starves]
  · rw [gives]
    exact if_pos room
  · rw [gives]
    exact if_neg (Nat.not_le.2 none_)

/-- The alert put to OUT, with its report (R16). -/
def State.poolOut (s : State) : State :=
  { s with pool := { s.pool with alert := .out }, reports := enqueue .poolOut false s.reports }

theorem starve_line {s : State} (r : RouteNo) (run : s.power.level = some .run) :
    s.starve r .lineReceive = s.poolOut.failRoute r .poolOut := by
  unfold State.starve
  dsimp only
  rw [if_pos rfl, queueReport_run _ _ (by exact run)]
  rfl

theorem starve_other {s : State} (r : RouteNo) {k : RouteKind} (writes : k = .scanStore ∨ k = .hostStore)
    (run : s.power.level = some .run) :
    let u := s.starve r k
    u.pool.alert = .out ∧ (u.writer k).starved = true
      ∧ ((s.route r).state = .running → (u.route r).state = .stalled)
      ∧ u.reports = (if (s.route r).state = .running
          then enqueue (.routeStalled r) false (enqueue .poolOut false s.reports)
          else enqueue .poolOut false s.reports) := by
  intro u
  let v : State := s.poolOut.setWriter k { s.poolOut.writer k with starved := true }
  have other : k ≠ .lineReceive := by rcases writes with rfl | rfl <;> decide
  have starved : u = if (v.route r).state = .running then v.routeTo r .stalled else v := by
    unfold u State.starve
    dsimp only
    rw [if_neg other, queueReport_run _ _ (by exact run)]
    rfl
  have fields : v.power = s.power ∧ v.route r = s.route r ∧ v.pool.alert = .out ∧ (v.writer k).starved = true
      ∧ v.reports = enqueue .poolOut false s.reports ∧ ∀ x, (v.setRoute r x).writer k = v.writer k := by
    rcases writes with rfl | rfl <;> exact ⟨rfl, rfl, rfl, rfl, rfl, fun _ => rfl⟩
  obtain ⟨power, record, alert, starves, reports, writer⟩ := fields
  have level : v.power.level = some .run := by rw [power, run]
  by_cases running : (s.route r).state = .running
  · have stalls : u = { v.setRoute r { v.route r with state := .stalled } with
        reports := enqueue (.routeStalled r) false v.reports } := by
      rw [starved, if_pos (by rw [record, running])]
      exact queueReport_run (v.setRoute r { v.route r with state := .stalled }) (.routeStalled r) level
    rw [stalls, if_pos running, ← reports]
    refine ⟨alert, ?_, fun _ => congrArg Route.state (route_setRoute_same v r _), rfl⟩
    rcases writes with rfl | rfl <;> exact starves
  · rw [starved, record, if_neg running, if_neg running]
    exact ⟨alert, starves, fun h => absurd h running, reports⟩

/-! ## Refills and stranding (R13, R18) -/

theorem remainders_eq (s : State) : s.remainders = ((allFin 4).map fun r => (s.route r).remainder).sum := by
  rw [State.remainders, routes_toList]
  rfl

theorem length_clampRemainders (total : Nat) (l : List Route) : (clampRemainders total l).length = l.length := by
  induction l generalizing total with
  | nil => rfl
  | cons x l ih => exact congrArg (· + 1) (ih _)

theorem sum_clampRemainders (total : Nat) (l : List Route) :
    ((clampRemainders total l).map Route.remainder).sum ≤ total := by
  induction l generalizing total with
  | nil => exact Nat.zero_le _
  | cons x l ih =>
    have rest := ih (total - min x.remainder total)
    have least : min x.remainder total ≤ total := Nat.min_le_right _ _
    simp only [clampRemainders, List.map_cons, List.sum_cons]
    omega

/-- The remainders after the clamp of R18 sum to at most the spare blocks. -/
theorem remainders_clamped (s : State) (total : Nat) :
    (({ s with routes := s.routes.mapIdx fun i x =>
      (clampRemainders total s.routes.toList).getD i x } : State)).remainders ≤ total := by
  have same : (s.routes.mapIdx fun i x => (clampRemainders total s.routes.toList).getD i x).toList
      = clampRemainders total s.routes.toList := by
    have length : (clampRemainders total s.routes.toList).length = 4 := by
      rw [length_clampRemainders]
      exact s.routes.size_toArray
    refine List.ext_getElem (by simp [length]) fun i inside inside' => ?_
    simp [List.getElem?_eq_getElem inside']
  unfold State.remainders
  dsimp only
  rw [same]
  exact sum_clampRemainders total s.routes.toList

theorem remainders_availChange (s : State) (before : Nat) : (s.availChange before).remainders = s.remainders := by
  obtain ⟨-, -, states⟩ := availChange_frame s before
  rw [remainders_eq, remainders_eq]
  refine congrArg List.sum (List.map_congr_left fun r _ => ?_)
  obtain ⟨st, record⟩ := states r
  rw [record]

/-- The stranding of the free list (R18). -/
theorem strand_spec (s : State) :
    let u := s.strand
    u.pool.stranded = s.pool.stranded + s.pool.freeCount ∧ u.pool.freeCount = 0
      ∧ u.pool.freeHead = none ∧ u.pool.freeTail = none ∧ u.pool.spare = s.pool.spare
      ∧ u.remainders ≤ s.pool.spare.length := by
  intro u
  let v : State := { s with
    pool := { s.pool with
      stranded := s.pool.stranded + s.pool.freeCount, freeCount := 0, freeHead := none, freeTail := none }
    routes := s.routes.mapIdx fun i x => (clampRemainders s.pool.spare.length s.routes.toList).getD i x }
  have stranded : u = (v.queueReport .poolStranded).availChange s.available := rfl
  obtain ⟨q, reported⟩ := queueReport_plain v .poolStranded rfl
  obtain ⟨-, ⟨al, pool⟩, -⟩ := availChange_frame (v.queueReport .poolStranded) s.available
  have clamped : u.remainders ≤ s.pool.spare.length := by
    rw [stranded, remainders_availChange, reported]
    exact remainders_clamped s s.pool.spare.length
  rw [← stranded, reported] at pool
  rw [pool]
  exact ⟨rfl, rfl, rfl, rfl, rfl, clamped⟩

theorem refill_spec {s : State} {h : Nat} (link : Option Word) (head : s.pool.freeHead = some h) :
    (∀ v : Word, link = some v → s.isData v.toNat = true → 1 < s.pool.freeCount →
      s.refill link = { s with pool :=
        { s.pool with
          spare := s.pool.spare ++ [h], freeCount := s.pool.freeCount - 1
          freeHead := some v.toNat } })
    ∧ (∀ v : Word, link = some v → s.pool.freeCount = 1 →
      s.refill link = { s with pool :=
        { s.pool with
          spare := s.pool.spare ++ [h], freeCount := 0, freeHead := none, freeTail := none } })
    ∧ (link = none ∨ (1 < s.pool.freeCount ∧ s.linkPasses link = false) → s.refill link = s.strand) := by
  unfold State.refill
  refine ⟨?_, ?_, ?_⟩
  · rintro v rfl data more
    have left : ¬s.pool.freeCount - 1 = 0 := by omega
    simp [data, left, head]
  · rintro v rfl one
    simp [one, head]
  · rintro (rfl | ⟨more, fails⟩)
    · rfl
    · have left : ¬s.pool.freeCount - 1 = 0 := by omega
      cases link with
      | none => rfl
      | some w =>
        have invalid : s.isData w.toNat = false := fails
        simp [invalid, left]

/-! ## The rebuild (R19, R20) -/

/-- An abandoned rebuild leaves the availability, so its report is the last (R20). -/
theorem abandonRebuild_eq (s : State) :
    s.abandonRebuild = { s with pool := { s.pool with state := .inService, rebuild := none } }.queueReport
      .poolStranded := by
  unfold State.abandonRebuild
  dsimp only
  obtain ⟨q, reported⟩ := queueReport_plain { s with pool := { s.pool with state := .inService, rebuild := none } }
    .poolStranded rfl
  refine availChange_same ?_
  rw [reported]
  rfl

theorem abandonRebuild_pool (s : State) : s.abandonRebuild.pool = { s.pool with state := .inService, rebuild := none } := by
  obtain ⟨q, reported⟩ := queueReport_plain { s with pool := { s.pool with state := .inService, rebuild := none } }
    .poolStranded rfl
  rw [abandonRebuild_eq, reported]

/-- The books of the blocks as an abandoned rebuild leaves them (R12, R20). -/
theorem abandonRebuild_books {s : State} {b : Rebuild} (rebuild : s.pool.rebuild = some b) (pages : s.PageBooks)
    (blocks : s.PoolBooks) :
    s.pool.freeCount = 0 ∧ s.pool.spare = [] ∧ s.pool.stranded + s.blocksHeld = s.dataBlocks := by
  obtain ⟨-, -, -, -, early, -, -, rebuilds⟩ := pages
  obtain ⟨sum, -, out, count, -⟩ := blocks
  have state := rebuilds (by rw [rebuild]; rfl)
  have ready : s.boot.state = .ready := by
    by_contra other
    obtain ⟨-, -, -, service, -⟩ := early other
    exact absurd (state.symm.trans service) (by decide)
  have total := (sum (.inr ready) (by rw [state]; decide)).1
  have spare := (out (by rw [state]; decide)).1
  have free := count state
  rw [free, spare] at total
  exact ⟨free, spare, by simpa using total⟩

theorem walkLink_spec {s : State} {b : Rebuild} {p h left : Nat} (rebuild : s.pool.rebuild = some b)
    (walking : b.at_ = .walking p h left) (goes : s.retaining = false) :
    (∀ v : Word, s.isData v.toNat = true → v.toNat ∉ b.marks →
      s.walkLink (some v) = s.setRebuild
        { b with
          marks := b.marks ++ [v.toNat]
          at_ := if left ≤ 2 then .entry (p + 1) else .walking p v.toNat (left - 1) })
    ∧ ∀ link, s.linkPasses link = false ∨ (∃ v : Word, link = some v ∧ v.toNat ∈ b.marks) →
      s.walkLink link = s.abandonRebuild := by
  obtain ⟨at_, marks, joined⟩ := b
  dsimp only at walking
  subst walking
  unfold State.walkLink State.walkTo
  refine ⟨fun v data fresh => ?_, fun link wrong => ?_⟩
  · have last : left - 1 ≤ 1 ↔ left ≤ 2 := by omega
    simp [rebuild, goes, data, fresh, last]
  · cases link with
    | none => simp [rebuild, goes]
    | some w =>
      by_cases data : s.isData w.toNat = true
      · have met : w.toNat ∈ marks := by
          rcases wrong with fails | ⟨v, same, met⟩
          · exact absurd (data.symm.trans fails) (by decide)
          · rwa [Option.some.inj same]
        simp [rebuild, goes, data, met]
      · simp [rebuild, goes, data]

theorem deliver_walk {s : State} {b : Rebuild} {p h left : Nat} (rebuild : s.pool.rebuild = some b)
    (walking : b.at_ = .walking p h left) (o : Bool) (g : Option PageNo) (xs : List ReadWord) :
    s.deliver { kind := .walk h, orphan := o, page := g } xs = s.walkLink (s.linkOf h xs) := by
  obtain ⟨at_, marks, joined⟩ := b
  dsimp only at walking
  subst walking
  unfold State.deliver
  simp only [rebuild, if_true]

/-! ## The moves of a rebuild (R19, R20) -/

theorem rebuildMove_entry {s : State} {b : Rebuild} {k : Nat} (at_ : b.at_ = .entry k) (goes : s.retaining = false) :
    (32 ≤ k → s.rebuildMove b = some (s.setRebuild { b with at_ := .sweeping 16 none none 0 }))
    ∧ ∀ p : PageNo, p.val = k →
      ((s.page p).state = .free → s.rebuildMove b = some (s.setRebuild { b with at_ := .entry (k + 1) }))
      ∧ ((s.page p).state ≠ .free → (s.page p).head ∈ b.marks → s.rebuildMove b = some s.abandonRebuild)
      ∧ ((s.page p).state ≠ .free → (s.page p).head ∉ b.marks →
        s.rebuildMove b = some (s.setRebuild
          { b with
            marks := b.marks ++ [(s.page p).head]
            at_ := if (s.page p).blockCount ≤ 1 then .entry (k + 1)
              else .walking k (s.page p).head (s.page p).blockCount })) := by
  have running : ¬s.retaining = true := by simp [goes]
  unfold State.rebuildMove
  rw [if_neg running, at_]
  refine ⟨fun done => ?_, fun p index => ?_⟩
  · dsimp only
    rw [asFin_eq_none done]
    rfl
  · have named : asFin 32 k = some p := by
      subst index
      exact dif_pos p.isLt
    dsimp only
    rw [named]
    refine ⟨fun free => if_pos free, fun used met => ?_, fun used fresh => ?_⟩
    · refine (if_neg used).trans (congrArg some (if_pos ?_))
      simp [met]
    · refine (if_neg used).trans (congrArg some (if_neg ?_))
      simp [fresh]

theorem rebuildMove_walking {s : State} {b : Rebuild} {p h left : Nat} (rebuild : s.pool.rebuild = some b)
    (at_ : b.at_ = .walking p h left) (goes : s.retaining = false) :
    (s.waitingLink h = none → s.rebuildMove b = none)
    ∧ ∀ w o g xs, s.waitingLink h = some w →
      s.rebuildMove b = some (s.deliver { kind := .walk h, orphan := o, page := g } xs) := by
  have running : ¬s.retaining = true := by simp [goes]
  have move : s.rebuildMove b = (s.waitingLink h).map fun w => s.walkLink (some w) := by
    unfold State.rebuildMove
    rw [if_neg running, at_]
  refine ⟨fun none_ => ?_, fun w o g xs waits => ?_⟩
  · rw [move, none_]
    rfl
  · have link : s.linkOf h xs = some w := by
      unfold State.linkOf
      rw [waits]
    rw [move, waits, deliver_walk rebuild at_, link]
    rfl

/-- The next block or chain of the new free list is linked behind the last, once there is a place (R19). -/
def State.chained (s : State) (last : Option Nat) (v : Word) (c : Rebuild) : Option State :=
  match last with
  | none => some (s.setRebuild c)
  | some l =>
    if 0 < s.dirPlaces then
      some ({ s with pool :=
        { s.pool with dirQueue := s.pool.dirQueue ++ [DirItem.link l v] } }.setRebuild c)
    else none

theorem rebuildMove_sweeping {s : State} {b : Rebuild} {next : Nat} {first last : Option Nat} {count : Nat}
    (at_ : b.at_ = .sweeping next first last count) (goes : s.retaining = false) :
    let free (n : Nat) : Prop := next ≤ n ∧ n < s.store.geometry ∧ n ∉ b.marks
    (∀ n, free n → (∀ m, m < n → ¬free m) →
      s.rebuildMove b = s.chained last (BitVec.ofNat 16 n)
        { b with at_ := .sweeping (n + 1) (first <|> some n) (some n) (count + 1) })
    ∧ ((∀ n, ¬free n) →
      (next ≤ s.store.geometry →
        s.rebuildMove b = s.chained last 0xFFFF { b with at_ := .sweeping (s.store.geometry + 1) first last count })
      ∧ (s.store.geometry < next →
        (∀ c cs, b.joined = c :: cs →
          s.rebuildMove b = s.chained last (BitVec.ofNat 16 c.head)
            { b with
              joined := cs
              at_ := .sweeping next (first <|> some c.head) (some c.tail) (count + c.count) })
        ∧ (b.joined = [] → s.rebuildMove b = some (s.endRebuild first last count)))) := by
  intro free
  have running : ¬s.retaining = true := by simp [goes]
  unfold State.rebuildMove
  rw [if_neg running, at_]
  dsimp only
  refine ⟨fun n is_free before => ?_, fun none_ => ?_⟩
  · obtain ⟨low, high, fresh⟩ := is_free
    have found : nextFree b.marks s.store.geometry next = some n :=
      nextFree_eq_some low high fresh fun m low' less => by
        by_contra unmarked
        exact before m less ⟨low', by omega, unmarked⟩
    rw [found]
    cases last <;> rfl
  · have found : nextFree b.marks s.store.geometry next = none :=
      nextFree_eq_none fun m low high => by
        by_contra unmarked
        exact none_ m ⟨low, high, unmarked⟩
    rw [found]
    refine ⟨fun inside => ?_, fun done => ⟨fun c cs joined => ?_, fun joined => ?_⟩⟩
    · refine (if_pos inside).trans ?_
      cases last <;> rfl
    · refine (if_neg (Nat.not_le.2 done)).trans ?_
      rw [joined]
      cases last <;> rfl
    · refine (if_neg (Nat.not_le.2 done)).trans ?_
      rw [joined]

/-- The end of a geometry clear (R164, R167). -/
theorem geometryEnd_spec {s : State} (run : s.power.level = some .run) :
    let u := s.geometryEnd
    (∀ p, u.page p = PageEntry.freeEntry) ∧ u.pool.state = .inService
      ∧ u.pool.freeHead = some 16 ∧ u.pool.freeTail = some (s.store.geometry - 1)
      ∧ u.pool.freeCount = s.dataBlocks ∧ u.pool.spare = [] ∧ u.pool.stranded = 0
      ∧ u.pool.alert = .none ∧ u.boot.task = .none
      ∧ u.reports = enqueue (.poolCleared s.dataBlocks) false s.reports := by
  intro u
  let v := (s.emptyPool.setBoot { s.emptyPool.boot with task := .none }).startScrub
  have ended : u = v.putReport (.poolCleared s.dataBlocks) false := queueReport_run v _ run
  rw [ended]
  exact ⟨page_emptyPool s, rfl, rfl, rfl, rfl, rfl, rfl, rfl, rfl, rfl⟩

/-- Settles O43: the writers' asks by R14's table, and what each of the pool's operations leaves. -/
theorem pagesTakeAndReturnTheirBlocks : Obligations.PagesTakeAndReturnTheirBlocks := by
  refine ⟨askBlock_spec, fun s r p b rest spare => ?blocks, fun s r k => ?asks, closePage_spec,
    fun s r run => ⟨fun k writes => starve_other r writes run, starve_line r run⟩, fun s before run => ?avail,
    fun s h o g xs service head some_ room => ?refill, fun s b p h left o g xs rebuild walking goes => ?walk,
    fun s b rebuild => ?abandon, fun s b rebuild goes => ?moves, fun s first last count => rfl,
    fun s o g ws task run => ?clear⟩
  case blocks =>
    intro image
    exact ⟨fun origin => openEntry_spec r p origin spare, extendPage_spec r p spare⟩
  case asks =>
    obtain ⟨full, waits, starves, gives, opens⟩ := tryOpen_spec s r k
    exact ⟨full, waits, starves, gives, opens, fun p => tryExtend_spec s r k p, freeEntry_iff s⟩
  case avail =>
    refine ⟨fun some_ => ?_, fun from_none now => ?_⟩
    · rw [availChange_alerted some_]
      exact alerted_spec run
    · have eq : s.availChange before = (s.alerted before).refed :=
        (availChange_eq s before).trans (if_pos ⟨from_none, now⟩)
      obtain ⟨al, q, alerted⟩ := alerted_frame s before
      rw [eq]
      obtain ⟨coder, host, states⟩ := refed_spec (s.alerted before)
      refine ⟨coder, host, fun r starves stalled => ?_⟩
      have same : (s.alerted before).coder = s.coder ∧ (s.alerted before).hostIn = s.hostIn
          ∧ (s.alerted before).route r = s.route r := by
        rw [alerted]
        exact ⟨rfl, rfl, rfl⟩
      obtain ⟨coder_eq, host_eq, route_eq⟩ := same
      refine states r ?_ (by rw [route_eq, stalled])
      rw [coder_eq, host_eq]
      exact starves
  case refill =>
    intro u
    have refills : u = s.refill (s.linkOf h xs) := if_pos ⟨service, head, some_, room⟩
    obtain ⟨more, one, wrong⟩ := refill_spec (s.linkOf h xs) head
    rw [refills]
    refine ⟨more, one, fun fails => ?_⟩
    rw [wrong fails]
    exact strand_spec s
  case walk =>
    intro u
    have walks : u = s.walkLink (s.linkOf h xs) := deliver_walk rebuild walking o g xs
    obtain ⟨passes, fails⟩ := walkLink_spec rebuild walking goes
    refine ⟨fun v link data fresh => ?_, fun wrong => ?_⟩
    · rw [walks, link]
      exact passes v data fresh
    · have abandoned : u = s.abandonRebuild := walks.trans (fails _ wrong)
      rw [abandoned, abandonRebuild_pool]
      exact ⟨rfl, rfl, rfl⟩
  case abandon =>
    intro u
    refine ⟨abandonRebuild_eq s, fun pages blocks => ?_⟩
    have pool : u.pool = { s.pool with state := .inService, rebuild := none } := abandonRebuild_pool s
    rw [pool]
    exact abandonRebuild_books rebuild pages blocks
  case moves =>
    exact ⟨fun k at_ => rebuildMove_entry at_ goes, fun p h left at_ => rebuildMove_walking rebuild at_ goes,
      fun next first last count at_ => rebuildMove_sweeping at_ goes⟩
  case clear =>
    intro u
    have ended : u = s.geometryEnd := if_pos task
    rw [ended]
    exact geometryEnd_spec run

end Sys2Proof.Machine
end

section
/-! PROOF. The page store's timers and the end of WAKING (R28, R35, R40). -/

namespace Sys2Proof.Machine

/-- RUN reached: the level, the supply, the converter and the reports (R149). -/
theorem completeRun_frame (s : State) : ∃ asleep head reports, s.completeRun = { s with
    power :=
      { s.power with level := some .run, step := .none, drivesOff := false, abandoned := false, asleep := asleep }
    head := head, reports := reports } := by
  have supply (t : State) : ∃ head, t.supplyOn = { t with head := head } := by
    unfold State.supplyOn
    split
    · exact ⟨_, rfl⟩
    · split <;> exact ⟨_, rfl⟩
  have converter (t : State) : ∃ asleep head, t.converterOn = { t with
      power := { t.power with asleep := asleep }, head := head } := by
    unfold State.converterOn
    split <;> exact ⟨_, _, rfl⟩
  unfold State.completeRun
  dsimp only
  split
  · obtain ⟨head, on⟩ := supply { s with
      power := { s.power with level := some .run, step := .none, drivesOff := false, abandoned := false } }
    rw [on]
    obtain ⟨asleep, head', on'⟩ := converter (State.clearWithheld { s with
      power := { s.power with level := some .run, step := .none, drivesOff := false, abandoned := false }
      head := head })
    rw [on']
    exact ⟨_, _, _, rfl⟩
  · obtain ⟨asleep, head', on'⟩ := converter (State.clearWithheld { s with
      power := { s.power with level := some .run, step := .none, drivesOff := false, abandoned := false } })
    rw [on']
    exact ⟨_, _, _, rfl⟩

theorem completeRun_store (s : State) : s.completeRun.store = s.store := by
  obtain ⟨asleep, head, reports, woken⟩ := completeRun_frame s
  rw [woken]

/-- ON reached from WAKING with no request standing (R40). -/
def State.storeWoken (s : State) : State :=
  { s with
    power := { s.power with request := .none }
    store := { s.store with
      state := .on, backlog := 0, wakeTimer := none, refreshTimer := some (s.now + s.setup.refresh)
      scrubTimer := if 0 < s.setup.scrub then some (s.now + 1000 * s.setup.scrub) else none } }

theorem storeOn_woken {s : State} (request : s.store.request = .none) (ready : s.boot.state = .ready)
    (task : s.boot.task = .none) (pool : s.pool.state ≠ .clearing) :
    s.storeOn = if s.power.level = some .waking then s.storeWoken.completeRun else s.storeWoken := by
  unfold State.storeOn State.bootOn State.startScrub State.storeWoken
  by_cases wakes : s.power.level = some .waking
  · simp [ready, pool, request, task, wakes, completeRun_store]
  · simp [ready, pool, request, task, wakes]

/-- Settles O44: the timers as they expire, and WAKING's end by what ON and RUN leave. -/
theorem storeTimersAndWaking : Obligations.StoreTimersAndWaking := by
  refine ⟨fun s => ⟨fun d runs => ?_, fun d runs => ?_, fun stopped => ?_, fun stopped => ?_⟩,
    fun s d waking timer request ready task pool => ?_⟩
  · change execRefreshTimerExpiry s = _
    unfold execRefreshTimerExpiry
    rw [runs]
    rfl
  · change execScrubTimerExpiry s = _
    unfold execScrubTimerExpiry
    rw [runs]
    rfl
  · change execRefreshTimerExpiry s = _
    unfold execRefreshTimerExpiry
    rw [stopped]
  · change execScrubTimerExpiry s = _
    unfold execScrubTimerExpiry
    rw [stopped]
  · intro now
    have ends : exec .wakingEnd s = .next ((s.reach d).storeOn.react.resume s.power.level) := by
      change execWakingEnd s = _
      unfold execWakingEnd
      rw [waking, timer]
    refine ⟨(s.reach d).storeOn, ends, ?_⟩
    rw [storeOn_woken (s := s.reach d) request ready task pool]
    by_cases wakes : s.power.level = some .waking
    · obtain ⟨asleep, head, reports, woken⟩ := completeRun_frame (s.reach d).storeWoken
      rw [if_pos (by exact wakes), woken, if_pos wakes]
      exact ⟨rfl, rfl, rfl, rfl, rfl, rfl, rfl⟩
    · rw [if_neg (by exact wakes), if_neg wakes]
      exact ⟨rfl, rfl, rfl, rfl, rfl, rfl, rfl⟩

end Sys2Proof.Machine
end

section
/-! PROOF. The decoders: what stands at a position, what it does to a decoder, and how lines are counted and handed
over (R50 to R57). -/

namespace Sys2Proof.Machine

/-! ## What stands at the position (R51 to R53) -/

theorem findAt_spec (table : List Byte) (d : Decoder) (bs : Bits) (final : Bool) :
    let sync := syncBits table
    (bs = [] → findAt table d bs final = if final then .runOut else .wait)
    ∧ (bs ≠ [] → sync <+: bs → findAt table d bs final = .sync sync.length)
    ∧ (bs ≠ [] → ¬sync <+: bs →
      (bs.length < sync.length → final = false → d.state ≠ .ended → findAt table d bs final = .wait)
      ∧ (sync.length ≤ bs.length ∨ final = true →
        (d.state = .seek →
          findAt table d bs final
            = if bs.head? = some false then .pass
              else if sync.length ≤ bs.length then .noMatch else .runOut)
        ∧ (d.state = .skip →
          findAt table d bs final = if sync.length ≤ bs.length then .pass else .runOut)
        ∧ (d.state = .synced ∨ d.state = .line →
          (∀ i n, matchCode table d.black bs = some (i, n) →
            findAt table d bs final = .code (codeValue i).1 (codeValue i).2 n)
          ∧ (matchCode table d.black bs = none →
            findAt table d bs final
              = if 16 ≤ bs.length then .noMatch else if final then .runOut else .wait)))) := by
  intro sync
  refine ⟨?_, fun some_ stands => ?_, fun some_ other => ⟨fun short more going => ?_, fun known =>
    ⟨fun seek => ?_, fun skip => ?_, fun state => ⟨fun i n found' => ?_, fun none_ => ?_⟩⟩⟩⟩
  · rintro rfl
    rfl
  · have long := stands.length_le
    simp [findAt, some_, stands, long, sync]
  all_goals
    have stand : ∀ enough : Bool, ¬(enough && sync.isPrefixOf bs) = true := fun enough => by simp [other]
    have begins : ¬bs.isEmpty = true := by simpa using some_
    have found : findAt table d bs final = _ := (if_neg begins).trans (if_neg (stand _))
    rw [found]
  · have few : ¬(syncBits table).length ≤ bs.length := Nat.not_le.2 short
    cases state : d.state
    case ended => exact absurd state going
    all_goals simp [few, more]
  all_goals
    have awake : ¬(!decide ((syncBits table).length ≤ bs.length) && !final) = true := by
      rcases known with long | last
      · simp [show (syncBits table).length ≤ bs.length from long]
      · simp [last]
  · rw [seek]
    refine (if_neg awake).trans ?_
    obtain ⟨b, rest, rfl⟩ := List.exists_cons_of_ne_nil some_
    cases b
    · rfl
    · simp [sync]
  · rw [skip]
    dsimp only
    by_cases long : sync.length ≤ bs.length
    · simp [long, sync]
    · have last : final = true := known.resolve_left long
      simp [long, last, sync]
  · rcases state with state | state <;> rw [state] <;> refine (if_neg awake).trans ?_ <;> rw [found']
  · rcases state with state | state <;> rw [state] <;> refine (if_neg awake).trans ?_ <;> rw [none_]

/-! ## The code that matches (R51) -/

/-- The bits of a colour's code number `i` (R169). -/
def colourCode (table : List Byte) (black : Bool) (i : Nat) : Bits :=
  tableItem table (3 * ((if black then 91 else 0) + i))

/-- The code number `i` of a colour stands at the front of the bits. -/
def codeFits (table : List Byte) (black : Bool) (bs : Bits) (i : Nat) : Prop :=
  colourCode table black i ≠ []
    ∧ colourCode table black i <+: bs

/-- The match among the first `k` codes of a colour. -/
def matchBelow (table : List Byte) (black : Bool) (bs : Bits) (k : Nat) : Option (Nat × Nat) :=
  ((List.range k).map fun i => (i, colourCode table black i)).foldl
    (fun best c =>
      if !c.2.isEmpty && c.2.isPrefixOf bs then
        match best with
        | some (_, n) => if c.2.length < n then some (c.1, c.2.length) else best
        | none => some (c.1, c.2.length)
      else best) none

/-- The match found is the shortest code that fits, the first of its length. -/
def shortestFit (table : List Byte) (black : Bool) (bs : Bits) (k i n : Nat) : Prop :=
  (i < k ∧ codeFits table black bs i) ∧ n = (colourCode table black i).length
    ∧ ∀ j < k, codeFits table black bs j → n < (colourCode table black j).length ∨ (n = (colourCode table black j).length ∧ i ≤ j)

theorem matchBelow_succ (table : List Byte) (black : Bool) (bs : Bits) (k : Nat) :
    let code := colourCode table black k
    (¬codeFits table black bs k → matchBelow table black bs (k + 1) = matchBelow table black bs k)
    ∧ (codeFits table black bs k → matchBelow table black bs k = none →
      matchBelow table black bs (k + 1) = some (k, code.length))
    ∧ ∀ i n, codeFits table black bs k → matchBelow table black bs k = some (i, n) →
      matchBelow table black bs (k + 1) = if code.length < n then some (k, code.length) else some (i, n) := by
  intro code
  have fits_iff : (!code.isEmpty && code.isPrefixOf bs) = true ↔ codeFits table black bs k := by
    simp [codeFits, code]
  have step : matchBelow table black bs (k + 1) =
      if !code.isEmpty && code.isPrefixOf bs then
        match matchBelow table black bs k with
        | some (_, n) => if code.length < n then some (k, code.length) else matchBelow table black bs k
        | none => some (k, code.length)
      else matchBelow table black bs k := by
    simp only [matchBelow, List.range_succ, List.map_append, List.foldl_append, List.map_cons, List.map_nil,
      List.foldl_cons, List.foldl_nil, code]
  refine ⟨fun no => ?_, fun fits none_ => ?_, fun i n fits found => ?_⟩
  · rw [step, if_neg (fits_iff.not.2 no)]
  · rw [step, if_pos (fits_iff.2 fits), none_]
  · rw [step, if_pos (fits_iff.2 fits), found]

theorem matchBelow_spec (table : List Byte) (black : Bool) (bs : Bits) (k : Nat) :
    (∀ i n, matchBelow table black bs k = some (i, n) → shortestFit table black bs k i n)
    ∧ (matchBelow table black bs k = none → ∀ i < k, ¬codeFits table black bs i) := by
  induction k with
  | zero => exact ⟨fun i n found => by simp [matchBelow] at found, fun _ i less => absurd less (Nat.not_lt_zero i)⟩
  | succ k ih =>
    obtain ⟨found_spec, none_spec⟩ := ih
    obtain ⟨stays, first, shorter⟩ := matchBelow_succ table black bs k
    by_cases fits : codeFits table black bs k
    · cases before : matchBelow table black bs k with
      | none =>
        rw [first fits before]
        refine ⟨fun i n found => ?_, nofun⟩
        obtain ⟨rfl, rfl⟩ := Prod.mk.inj (Option.some.inj found)
        refine ⟨⟨Nat.lt_succ_self _, fits⟩, rfl, fun j less fits' => ?_⟩
        rcases Nat.lt_succ_iff_lt_or_eq.1 less with less' | rfl
        · exact absurd fits' (none_spec before j less')
        · exact .inr ⟨rfl, Nat.le_refl _⟩
      | some x =>
        obtain ⟨i₀, n₀⟩ := x
        obtain ⟨⟨below, fits₀⟩, length, least⟩ := found_spec i₀ n₀ before
        rw [shorter i₀ n₀ fits before]
        refine ⟨fun i n found => ?_, fun none_ => ?_⟩
        · by_cases less : (colourCode table black k).length < n₀
          · rw [if_pos less] at found
            obtain ⟨rfl, rfl⟩ := Prod.mk.inj (Option.some.inj found)
            refine ⟨⟨Nat.lt_succ_self _, fits⟩, rfl, fun j below' fits' => ?_⟩
            rcases Nat.lt_succ_iff_lt_or_eq.1 below' with less' | rfl
            · have later := least j less' fits'
              exact .inl (by omega)
            · exact .inr ⟨rfl, Nat.le_refl _⟩
          · rw [if_neg less] at found
            obtain ⟨rfl, rfl⟩ := Prod.mk.inj (Option.some.inj found)
            refine ⟨⟨Nat.lt_succ_of_lt below, fits₀⟩, length, fun j below' fits' => ?_⟩
            rcases Nat.lt_succ_iff_lt_or_eq.1 below' with less' | rfl
            · exact least j less' fits'
            · omega
        · split at none_ <;> cases none_
    · rw [stays fits]
      refine ⟨fun i n found => ?_, fun none_ i less => ?_⟩
      · obtain ⟨⟨below, fits₀⟩, length, least⟩ := found_spec i n found
        refine ⟨⟨Nat.lt_succ_of_lt below, fits₀⟩, length, fun j below' fits' => ?_⟩
        rcases Nat.lt_succ_iff_lt_or_eq.1 below' with less' | rfl
        · exact least j less' fits'
        · exact absurd fits' fits
      · rcases Nat.lt_succ_iff_lt_or_eq.1 less with less' | rfl
        · exact none_spec none_ i less'
        · exact fits

/-- There is one shortest fit. -/
theorem shortestFit_unique {table : List Byte} {black : Bool} {bs : Bits} {k i n i' n' : Nat}
    (one : shortestFit table black bs k i n) (other : shortestFit table black bs k i' n') : i = i' ∧ n = n' := by
  obtain ⟨⟨below, fits⟩, length, least⟩ := one
  obtain ⟨⟨below', fits'⟩, length', least'⟩ := other
  have first := least i' below' fits'
  have second := least' i below fits
  omega

theorem matchBelow_iff (table : List Byte) (black : Bool) (bs : Bits) (k : Nat) :
    (∀ i n, matchBelow table black bs k = some (i, n) ↔ shortestFit table black bs k i n)
    ∧ (matchBelow table black bs k = none ↔ ∀ i < k, ¬codeFits table black bs i) := by
  obtain ⟨found_spec, none_spec⟩ := matchBelow_spec table black bs k
  refine ⟨fun i n => ⟨found_spec i n, fun fit => ?_⟩, none_spec, fun none_ => ?_⟩
  · cases found : matchBelow table black bs k with
    | none => exact absurd fit.1.2 (none_spec found i fit.1.1)
    | some x =>
      obtain ⟨i', n'⟩ := x
      obtain ⟨rfl, rfl⟩ := shortestFit_unique fit (found_spec i' n' found)
      rfl
  · cases found : matchBelow table black bs k with
    | none => rfl
    | some x =>
      obtain ⟨i', n'⟩ := x
      exact absurd (found_spec i' n' found).1.2 (none_ i' (found_spec i' n' found).1.1)

/-! ## What is found acts on the decoder (R50 to R54, R56) -/

theorem act_sync (d : Decoder) (count n : Nat) :
    (d.state = .synced → d.syncs + 1 = count →
      d.act count (.sync n)
        = ({ d with pos := d.pos + n, syncs := d.syncs + 1, state := .ended }, .ended true))
    ∧ (d.state = .synced → d.syncs + 1 ≠ count →
      d.act count (.sync n) = ({ d with pos := d.pos + n, syncs := d.syncs + 1 }, .none))
    ∧ (d.state ≠ .synced →
      d.act count (.sync n)
        = ({ pos := d.pos + n, state := .synced, syncs := 1, sum := 0, black := false, chunk := false },
          if d.state = .line then .bad else .none)) := by
  refine ⟨fun synced ends => ?_, fun synced goes => ?_, fun other => ?_⟩
  · simp [Decoder.act, synced, ends]
  · simp [Decoder.act, synced, goes]
  · cases state : d.state
    case synced => exact absurd state other
    all_goals
      simp only [Decoder.act, state]
      rfl

theorem act_code (d : Decoder) (count v : Nat) (chunk : Bool) (n : Nat) :
    ((chunk = true ∧ d.chunk = true) ∨ 1728 < d.sum + v →
      d.act count (.code v chunk n) = ({ d with pos := d.pos + 1, state := .skip }, .bad))
    ∧ ((chunk = false ∨ d.chunk = false) → d.sum + v ≤ 1728 →
      let t := { d with pos := d.pos + n, sum := d.sum + v, syncs := 0, chunk := chunk }
      d.act count (.code v chunk n)
        = if chunk then ({ t with state := .line }, .none)
          else if d.sum + v = 1728 then ({ t with state := .seek }, .good)
          else ({ t with state := .line, black := !d.black }, .none)) := by
  change (_ → d.takeCode v chunk n = _) ∧ (_ → _ → d.takeCode v chunk n = _)
  unfold Decoder.takeCode
  refine ⟨fun bad => ?_, fun single few => ?_⟩
  · by_cases twice : (chunk && d.chunk) = true
    · exact if_pos twice
    · have above : 1728 < d.sum + v := bad.resolve_left fun h => twice (by simp [h])
      exact (if_neg twice).trans (if_pos above)
  · have once : ¬(chunk && d.chunk) = true := by
      rcases single with single | single <;> simp [single]
    refine (if_neg once).trans ((if_neg (Nat.not_lt.2 few)).trans ?_)
    cases chunk
    · by_cases whole : d.sum + v = 1728
      · simp [whole, Config.lineDots]
      · simp [whole, Config.lineDots]
    · rfl

theorem printAct_eq (d : PrintDecoder) (count : Nat) (found : Found) :
    let m := d.dec.act count found
    d.act count found =
      ({ d with
          dec := m.1
          buffer := match found with
            | .sync _ => Dots.white
            | .code v _ _ =>
              if d.dec.black = true ∧ d.dec.sum < m.1.sum then Dots.paint d.buffer d.dec.sum v else d.buffer
            | _ => d.buffer
          fetch := { d.fetch with queue := d.fetch.queue.drop (m.1.pos / 16 - d.dec.pos / 16) } }, m.2) := by
  intro m
  cases found
  case code v chunk n =>
    have paints : (d.dec.black && decide (d.dec.sum < m.1.sum)) = true ↔ d.dec.black = true ∧ d.dec.sum < m.1.sum := by
      simp
    exact congrArg (fun buffer : Dots => (({ d with
      dec := m.1, buffer := buffer
      fetch := { d.fetch with queue := dropPassed d.fetch.queue d.dec.pos m.1.pos } } : PrintDecoder), m.2))
      (if_congr paints rfl rfl)
  all_goals rfl

/-! ## The Print Decoder's moves (R54, R57) -/

/-- The Print Decoder of a slot's route decodes. -/
def State.decodes (s : State) (r : RouteNo) : Prop :=
  (s.route r).live = true ∧ (s.route r).state ≠ .armed ∧ s.heldByDamage r = false

theorem decodes_iff (s : State) (r : RouteNo) :
    ((s.route r).live && (s.route r).state != .armed && !s.heldByDamage r) = true ↔ s.decodes r := by
  simp only [Bool.and_eq_true, bne_iff_ne, Bool.not_eq_true', State.decodes, and_assoc, ne_eq]

theorem printMove_spec {s : State} {r : RouteNo} (slot : s.printDec.slot = some r) :
    let table := s.storage (s.route r).code
    (s.decodes r → s.printDec.held = none → s.printDec.told = false →
      let m := s.printDec.act (endCount table) (s.printFinds table)
      s.printMove = some (r, m.1, m.2))
    ∧ (¬s.decodes r ∨ s.printDec.held ≠ none ∨ s.printDec.told = true → s.printMove = none) := by
  intro table
  have move : s.printMove = if ((s.route r).live && (s.route r).state != .armed && !s.heldByDamage r
        && s.printDec.held.isNone && !s.printDec.told) = true then
      some (r, (s.printDec.act (endCount table) (s.printFinds table)).1,
        (s.printDec.act (endCount table) (s.printFinds table)).2) else none := by
    unfold State.printMove
    rw [slot]
  have asks : ((s.route r).live && (s.route r).state != .armed && !s.heldByDamage r
      && s.printDec.held.isNone && !s.printDec.told) = true
        ↔ s.decodes r ∧ s.printDec.held = none ∧ s.printDec.told = false := by
    rw [Bool.and_eq_true, Bool.and_eq_true, decodes_iff, Option.isNone_iff_eq_none, Bool.not_eq_true', and_assoc]
  refine ⟨fun goes free untold => ?_, fun stops => ?_⟩
  · exact move.trans (if_pos (asks.2 ⟨goes, free, untold⟩))
  · refine move.trans (if_neg fun h => ?_)
    obtain ⟨goes, free, untold⟩ := asks.1 h
    rcases stops with still | held | told
    · exact still goes
    · exact held free
    · exact absurd (told.symm.trans untold) (by decide)

theorem placeHeld_spec (s : State) :
    (∀ dots, s.printDec.held = some dots →
      (0 < s.head.freeSlots →
        s.placeHeld = ({ s with printDec := { s.printDec with held := none } }.enterRing dots).pfReexamine)
      ∧ (s.head.freeSlots = 0 → s.placeHeld = s))
    ∧ (s.printDec.held = none → s.placeHeld = s) := by
  unfold State.placeHeld
  refine ⟨fun dots held => ⟨fun room => ?_, fun full => ?_⟩, fun none_ => ?_⟩
  · rw [held]
    exact if_pos room
  · rw [held]
    exact if_neg (by omega)
  · rw [none_]

theorem printPass_spec {s : State} {r : RouteNo} (slot : s.printDec.slot = some r) :
    (s.decodes r → s.printPass = s.placeHeld.printAdvance 320 (s.storage (s.route r).code))
    ∧ (¬s.decodes r → s.printPass = s) := by
  unfold State.printPass
  rw [slot]
  exact ⟨fun goes => if_pos ((decodes_iff s r).2 goes), fun stops => if_neg ((decodes_iff s r).not.2 stops)⟩

theorem printAdvance_succ (n : Nat) (s : State) (table : List Byte) :
    let m := s.printDec.act (endCount table) (s.printFinds table)
    (s.printDec.held = none → s.printDec.told = false → m.2 = .none → m.1.dec ≠ s.printDec.dec →
      State.printAdvance (n + 1) s table = State.printAdvance n { s with printDec := m.1 } table)
    ∧ (s.printDec.held ≠ none ∨ s.printDec.told = true ∨ m.2 ≠ .none ∨ m.1.dec = s.printDec.dec →
      State.printAdvance (n + 1) s table = s) := by
  intro m
  have step : State.printAdvance (n + 1) s table = if (s.printDec.held.isSome || s.printDec.told) = true then s
      else if m.2 = .none ∧ m.1.dec ≠ s.printDec.dec then State.printAdvance n { s with printDec := m.1 } table
      else s := rfl
  refine ⟨fun free untold goes moves => ?_, fun stops => ?_⟩
  · rw [step, if_neg (by simp [free, untold]), if_pos ⟨goes, moves⟩]
  · by_cases stands : (s.printDec.held.isSome || s.printDec.told) = true
    · rw [step, if_pos stands]
    · rw [step, if_neg stands, if_neg fun h => ?_]
      simp only [Bool.or_eq_true, Option.isSome_iff_ne_none, not_or, Decidable.not_not] at stands
      rcases stops with held | told | verdict | same
      · exact held stands.1
      · exact stands.2 told
      · exact verdict h.1
      · exact h.2 same

/-! ## Lines handed over and counted (R54, R55, R57) -/

theorem handLine_good (s : State) (r : RouteNo) (d : PrintDecoder) :
    let told := State.countLine { s with printDec := { d with prevGood := some d.buffer } } r true
    s.handLine r d true =
      if 0 < told.head.freeSlots then (told.enterRing d.buffer).pfReexamine
      else { told with printDec := { told.printDec with held := some d.buffer } } := rfl

theorem handLine_bad (s : State) (r : RouteNo) (d : PrintDecoder) :
    let told := State.countLine { s with printDec := d } r false
    let dots := s.printDec.prevGood.getD Dots.white
    s.handLine r d false =
      if 0 < told.head.freeSlots then (told.enterRing dots).pfReexamine
      else { told with printDec := { told.printDec with held := some dots } } := rfl

theorem countLine_good (s : State) (r : RouteNo) :
    s.countLine r true = s.setRoute r
      { s.route r with linesDone := min ((s.route r).linesDone + 1) 65535, consecBad := 0 } := rfl

/-- A record with a bad line counted (R55). -/
def Route.badLine (x : Route) : Route :=
  { x with
    linesDone := min (x.linesDone + 1) 65535, badLines := min (x.badLines + 1) 65535
    consecBad := min (x.consecBad + 1) 65535 }

/-- The limit of a record's bad lines is reached by one more, and not reported yet (R55). -/
def Route.atLimit (x : Route) : Prop :=
  0 < x.badLimit ∧ min (x.consecBad + 1) 65535 = x.badLimit ∧ x.badReported = false

theorem countLine_bad (s : State) (r : RouteNo) :
    let x := s.route r
    (¬x.atLimit → s.countLine r false = s.setRoute r x.badLine)
    ∧ (x.atLimit → x.kind ≠ some .printPage ∨ x.page = none → s.countLine r false
      = (s.setRoute r { x.badLine with badReported := true }).queueReport
        (.badLines r (min (x.badLines + 1) 65535) x.badLimit))
    ∧ (∀ p, x.atLimit → x.kind = some .printPage → x.page = some p → s.countLine r false
      = ((s.setRoute r { x.badLine with badReported := true }).flagDamaged p (some r)).queueReport
        (.badLines r (min (x.badLines + 1) 65535) x.badLimit)) := by
  intro x
  have limit : (!false && decide (0 < x.badLimit) && x.badLine.consecBad == x.badLimit && !x.badReported) = true
      ↔ x.atLimit := by
    simp [Route.atLimit, Route.badLine, and_assoc]
  have counted : s.countLine r false =
      if (!false && decide (0 < x.badLimit) && x.badLine.consecBad == x.badLimit && !x.badReported) = true then
        (match x.kind, x.page with
          | some .printPage, some p => (s.setRoute r { x.badLine with badReported := true }).flagDamaged p (some r)
          | _, _ => s.setRoute r { x.badLine with badReported := true }).queueReport
            (.badLines r x.badLine.badLines x.badLine.consecBad)
      else s.setRoute r x.badLine := by
    unfold State.countLine
    rfl
  refine ⟨fun below => counted.trans (if_neg (limit.not.2 below)), fun at_ other => ?_, fun p at_ kind page => ?_⟩
  · have same : x.badLine.consecBad = x.badLimit := at_.2.1
    rw [counted, if_pos (limit.2 at_), same]
    split
    · rename_i p kind page
      rcases other with other | none_
      · exact absurd kind other
      · rw [none_] at page
        cases page
    · rfl
  · have same : x.badLine.consecBad = x.badLimit := at_.2.1
    rw [counted, if_pos (limit.2 at_), same, kind, page]
    rfl

/-- Settles O45: each decoder function case by case, and the counted line by whether it meets the limit. -/
theorem decodersHandOverAndCountLines : Obligations.DecodersHandOverAndCountLines := by
  refine ⟨findAt_spec, fun table black bs => ?codes,
    fun d count => ⟨rfl, rfl, rfl, rfl, fun n => act_sync d count n, fun v chunk n => act_code d count v chunk n⟩,
    fun s table d count found => ⟨rfl, printAct_eq d count found⟩, fun s r slot => ?moves, printAdvance_succ,
    fun s r d => ⟨fun move => ?good, fun move => ?bad, fun pattern move => ?ended, fun slot kind live halt held t move =>
      ?check⟩, fun s r => ?counts⟩
  case codes =>
    intro code fits
    obtain ⟨found, none_⟩ := matchBelow_iff table black bs 91
    have same : matchCode table black bs = matchBelow table black bs 91 := rfl
    rw [same]
    refine ⟨fun i n => (found i n).trans ?_, none_.trans ?_⟩
    · exact and_congr_right fun _ => and_congr_right fun _ =>
        ⟨fun least j fits_j => least j fits_j.1 fits_j.2, fun least j below fits_j => least j ⟨below, fits_j⟩⟩
    · exact ⟨fun no i fits_i => no i fits_i.1 fits_i.2, fun no i below fits_i => no i ⟨below, fits_i⟩⟩
  case moves =>
    intro x decodes table
    obtain ⟨goes, stops⟩ := printMove_spec slot
    obtain ⟨held, free⟩ := placeHeld_spec s
    obtain ⟨pass, still⟩ := printPass_spec slot
    exact ⟨goes, stops, held, free, pass, still⟩
  case good =>
    intro told
    have hands : exec .decoderLine s = .next (s.handLine r d true).react := by
      change execDecoderLine s = _
      unfold execDecoderLine
      rw [move]
    rw [hands, handLine_good]
    exact congrArg Host.Outcome.next (apply_ite State.react _ _ _)
  case bad =>
    intro told dots
    have hands : exec .decoderLine s = .next (s.handLine r d false).react := by
      change execDecoderLine s = _
      unfold execDecoderLine
      rw [move]
    rw [hands, handLine_bad]
    exact congrArg Host.Outcome.next (apply_ite State.react _ _ _)
  case ended =>
    change Host.Outcome.next s.printEnded = _
    unfold State.printEnded
    rw [move]
  case check =>
    change Host.Outcome.next s.checkEnded = _
    have asks : ((s.route r).isKind .lineSend && (s.route r).live && (s.route r).halt != .finish
        && !s.heldByDamage r) = true := by
      simp [Route.isKind, kind, live, halt, held]
    unfold State.checkEnded
    rw [slot]
    dsimp only
    rw [if_pos asks, move]
  case counts =>
    intro x lines
    refine ⟨countLine_good s r, ?_⟩
    intro y
    obtain ⟨below, other, prints⟩ := countLine_bad s r
    refine ⟨fun h => below fun at_ => ?_, fun pos limit unreported kind => other ⟨pos, limit, unreported⟩ (.inl kind),
      fun p pos limit unreported kind page alone => ?_⟩
    · obtain ⟨pos, limit, unreported⟩ := at_
      rcases h with zero | off | reported
      · exact absurd zero (Nat.pos_iff_ne_zero.1 pos)
      · exact off limit
      · exact absurd (reported.symm.trans unreported) (by decide)
    · intro e u image full
      have counted : s.countLine r false = full (u.flagDamaged p (some r)) :=
        prints p ⟨pos, limit, unreported⟩ kind page
      obtain ⟨still, flags, waits⟩ := flagDamaged_spec u p (some r)
      have places : u.dirPlaces = s.dirPlaces := dirPlaces_setRoute rfl
      rw [← places, counted]
      refine ⟨fun h => congrArg full (still fun due => ?_), fun clean shut => ⟨fun room => ?_, fun full_ => ?_⟩⟩
      · obtain ⟨shut, clean, -⟩ := due
        rcases h with damaged | ⟨unclosed, undropped⟩
        · exact absurd (damaged.symm.trans clean) (by decide)
        · exact shut.elim unclosed undropped
      · exact congrArg full (flags ⟨shut, clean, alone⟩ room)
      · exact congrArg full (waits ⟨shut, clean, alone⟩ full_)

end Sys2Proof.Machine
end

section
/-! PROOF. Reception: the first sync, the bytes, the Check Decoder and the close (R136 to R139, R58). -/

namespace Sys2Proof.Machine

/-! ## Storing stops at a position (R139) -/

theorem flatMap_bits_take (l : List Byte) (n : Nat) :
    (l.take n).flatMap bitsOfByte = (l.flatMap bitsOfByte).take (8 * n) := by
  induction l generalizing n with
  | nil => simp
  | cons b l ih =>
    cases n with
    | zero => simp
    | succ n =>
      have whole : (bitsOfByte b).take (8 * (n + 1)) = bitsOfByte b :=
        List.take_of_length_le (by rw [bitsOfByte_length]; omega)
      rw [List.take_succ_cons, List.flatMap_cons, List.flatMap_cons, ih, List.take_append, bitsOfByte_length, whole,
        show 8 * (n + 1) - 8 = 8 * n by omega]

theorem length_flatMap_bits (l : List Byte) : (l.flatMap bitsOfByte).length = 8 * l.length := by
  induction l with
  | nil => rfl
  | cons b l ih => rw [List.flatMap_cons, List.length_append, bitsOfByte_length, ih, List.length_cons]; omega

/-- The first bits of a byte, zeros after them. -/
def cutByte (b : Byte) (n : Nat) : Byte :=
  byteOfBits ((bitsOfByte b).take n ++ List.replicate (8 - n) false)

theorem bitsOfByte_cutByte (b : Byte) {n : Nat} (few : n ≤ 8) :
    bitsOfByte (cutByte b n) = (bitsOfByte b).take n ++ List.replicate (8 - n) false :=
  bitsOfByte_byteOfBits (by rw [List.length_append, List.length_take, bitsOfByte_length, List.length_replicate]; omega)

/-- Bytes cut off within their last byte hold the bits before the cut, then zeros. -/
theorem flatMap_bits_cut (l : List Byte) {n last : Nat} (room : n < l.length) (few : last ≤ 8) :
    ((l.take (n + 1)).dropLast ++ [cutByte ((l.take (n + 1)).getLastD 0) last]).flatMap bitsOfByte
      = (l.flatMap bitsOfByte).take (8 * n + last) ++ List.replicate (8 - last) false := by
  have taken : l.take (n + 1) = l.take n ++ [l[n]] := by rw [List.take_succ_eq_append_getElem room]
  rw [taken, List.dropLast_concat, List.getLastD_concat, List.flatMap_append,
    List.flatMap_singleton, bitsOfByte_cutByte _ few, ← List.append_assoc]
  congr 1
  have split : l.flatMap bitsOfByte = (l.take n).flatMap bitsOfByte ++ (bitsOfByte l[n] ++ (l.drop (n + 1)).flatMap bitsOfByte) := by
    rw [← List.flatMap_cons, ← List.flatMap_append, List.getElem_cons_drop, List.take_append_drop]
  have first : ((l.take n).flatMap bitsOfByte).length = 8 * n := by
    rw [length_flatMap_bits, List.length_take, Nat.min_eq_left (Nat.le_of_lt room)]
  have whole : ((l.take n).flatMap bitsOfByte).take (8 * n + last) = (l.take n).flatMap bitsOfByte :=
    List.take_of_length_le (by rw [first]; omega)
  rw [split, List.take_append, first, whole, Nat.add_sub_cancel_left, List.take_append_of_le_length
    (by rw [bitsOfByte_length]; exact few)]

theorem stopAt_spec (l : LinePort) (p : StopPoint) :
    let gone := l.stored / 8 - l.rxFifo.length
    let t := l.stopAt p
    (8 * gone ≤ p.pos → p.pos ≤ 8 * (gone + l.rxFifo.length) →
      t.rxFifo.flatMap bitsOfByte
        = (l.rxFifo.flatMap bitsOfByte).take (p.pos - 8 * gone)
          ++ List.replicate ((8 - p.pos % 8) % 8) false)
    ∧ (p.pos < 8 * gone → t.rxFifo = [])
    ∧ { t with rxFifo := l.rxFifo }
      = { l with stop := some p, rx := .flushing, carrier := none, assembly := [], ahead := [] } := by
  intro gone t
  let keep := (p.pos + 7) / 8 - gone
  have fifo : t.rxFifo = if p.pos % 8 = 0 ∨ keep = 0 ∨ l.rxFifo.length < keep then l.rxFifo.take keep
      else (l.rxFifo.take keep).dropLast ++ [cutByte ((l.rxFifo.take keep).getLastD 0) (p.pos % 8)] := rfl
  refine ⟨fun low high => ?_, fun below => ?_, rfl⟩
  · rw [fifo]
    by_cases whole : p.pos % 8 = 0
    · have bits : 8 * keep = p.pos - 8 * gone := by omega
      rw [if_pos (.inl whole), whole, flatMap_bits_take, bits]
      simp
    · obtain ⟨n, keep_eq⟩ : ∃ n, keep = n + 1 := ⟨keep - 1, by omega⟩
      have bits : 8 * n + p.pos % 8 = p.pos - 8 * gone := by omega
      have rest : (8 - p.pos % 8) % 8 = 8 - p.pos % 8 := Nat.mod_eq_of_lt (by omega)
      rw [if_neg (by omega), keep_eq, flatMap_bits_cut _ (by omega) (by omega), bits, rest]
  · have none_ : keep = 0 := by omega
    rw [fifo, if_pos (.inr (.inl none_)), none_, List.take_zero]

/-! ## The Check Decoder of reception (R58, R139) -/

theorem rxLineEnd_spec (s : State) (r : RouteNo) (x : Nat) :
    let t := s.setRoute r { s.route r with lastLineEnd := x }
    let e : LineEnd := { pos := x, lines := (s.route r).linesDone, bad := (s.route r).badLines }
    let w := s.line.writer
    let ends := w.ends ++ [e]
    ((s.route r).halt = .finish →
      s.rxLineEnd r x = t.setLine (s.line.stopAt
        { pos := x, lines := e.lines, bad := e.bad, endPattern := false }))
    ∧ ((s.route r).halt ≠ .finish →
      (x ≤ 16 * w.written →
        s.rxLineEnd r x
          = t.setLine { s.line with writer :=
            { w with covered := e, ends := w.ends.drop (w.ends.length - 20) } })
      ∧ (16 * w.written < x →
        s.rxLineEnd r x
          = t.setLine { s.line with writer := { w with ends := ends.drop (ends.length - 20) } })) := by
  intro t e w ends
  have record : t.route r = { s.route r with lastLineEnd := x } := route_setRoute_same s r _
  have ended : s.rxLineEnd r x = if (s.route r).halt = .finish then
      t.setLine (s.line.stopAt { pos := x, lines := e.lines, bad := e.bad, endPattern := false })
    else t.setLine { s.line with writer :=
      { w.addEnd e with ends := (w.addEnd e).ends.drop ((w.addEnd e).ends.length - 20) } } := by
    have lines : (t.route r).linesDone = (s.route r).linesDone := by rw [record]
    have bad : (t.route r).badLines = (s.route r).badLines := by rw [record]
    have halt : (t.route r).halt = (s.route r).halt := by rw [record]
    unfold State.rxLineEnd
    dsimp only
    rw [halt, lines, bad]
    rfl
  refine ⟨fun finish => ended.trans (if_pos finish), fun goes => ⟨fun within => ?_, fun beyond => ?_⟩⟩
  · have found : w.addEnd e = { w with covered := e } := if_pos within
    rw [ended, if_neg goes, found]
  · have found : w.addEnd e = { w with ends := ends } := if_neg (Nat.not_le.2 beyond)
    rw [ended, if_neg goes, found]

/-- The line's verdict counted (R55, R58). -/
def State.judged (s : State) (r : RouteNo) (v : Verdict) : State :=
  match v with
  | .good => s.countLine r true
  | .bad => s.countLine r false
  | _ => s

/-- The Check Decoder past what it found (R58). -/
def State.examined (s : State) (d : Decoder) : State :=
  s.setLine { s.line with dec := d, ahead := s.line.ahead.drop (d.pos - s.line.dec.pos) }

theorem rxExamine_stops (n : Nat) {s : State} {r : RouteNo}
    (stops : s.line.stop ≠ none ∨ (s.route r).live = false
      ∨ findAt (s.storage (s.route r).code) s.line.dec s.line.ahead false = .wait) :
    State.rxExamine (n + 1) s r = s := by
  unfold State.rxExamine
  by_cases still : (s.line.stop.isSome || !(s.route r).live) = true
  · exact if_pos still
  · have waits : findAt (s.storage (s.route r).code) s.line.dec s.line.ahead false = .wait := by
      simp only [Bool.or_eq_true, Option.isSome_iff_ne_none, Bool.not_eq_true', not_or, Decidable.not_not] at still
      rcases stops with stop | dead | waits
      · exact absurd still.1 stop
      · exact absurd dead still.2
      · exact waits
    refine (if_neg still).trans ?_
    dsimp only
    exact if_pos waits

/-- What no sync is found at is a move without a line end. -/
theorem act_ended {d d' : Decoder} {count : Nat} {found : Found} (act : d.act count found = (d', .ended true)) :
    ∃ k, found = .sync k := by
  cases found with
  | sync k => exact ⟨k, rfl⟩
  | code v chunk n =>
    have verdict : (d.takeCode v chunk n).2 = .ended true := congrArg Prod.snd act
    unfold Decoder.takeCode at verdict
    split at verdict
    · cases verdict
    · split at verdict
      · cases verdict
      · dsimp only at verdict
        split at verdict
        · cases verdict
        · split at verdict <;> cases verdict
  | _ => cases congrArg Prod.snd act

/-- The sync that ends a line is noted (R4, R58). -/
def State.lineEnded (s : State) (r : RouteNo) (d : Decoder) (found : Found) : State :=
  match found with
  | .sync _ => if d.state = .synced then s else s.rxLineEnd r d.pos
  | _ => s

/-- The end pattern ends the page after it (R139). -/
def State.pageEnded (s : State) (r : RouteNo) (pos : Nat) (v : Verdict) : State :=
  match v with
  | .ended true =>
    s.setLine (s.line.stopAt
      { pos := pos, lines := (s.route r).linesDone, bad := (s.route r).badLines, endPattern := true })
  | _ => s

theorem rxExamine_goes (n : Nat) {s : State} {r : RouteNo} {found : Found} {d : Decoder} {v : Verdict}
    (open_ : s.line.stop = none) (live : (s.route r).live = true)
    (finds : findAt (s.storage (s.route r).code) s.line.dec s.line.ahead false = found)
    (act : s.line.dec.act (endCount (s.storage (s.route r).code)) found = (d, v)) (goes : found ≠ .wait) :
    State.rxExamine (n + 1) s r
      = State.rxExamine n ((((s.examined d).judged r v).lineEnded r s.line.dec found).pageEnded r d.pos v) r := by
  have awake : ¬(s.line.stop.isSome || !(s.route r).live) = true := by simp [open_, live]
  rw [State.rxExamine, if_neg awake]
  dsimp only
  rw [finds, act, if_neg goes]
  rfl

theorem pageEnded_plain {s : State} {r : RouteNo} {pos : Nat} {v : Verdict} (plain : v ≠ .ended true) :
    s.pageEnded r pos v = s := by
  unfold State.pageEnded
  split
  · exact absurd rfl plain
  · rfl

theorem lineEnded_plain {s : State} {r : RouteNo} {d : Decoder} {found : Found} (other : ∀ k, found ≠ .sync k) :
    s.lineEnded r d found = s := by
  unfold State.lineEnded
  split
  · exact absurd rfl (other _)
  · rfl

/-! ## Bytes received (R137, R138) -/

theorem rxDrop_bad {s : State} (r : RouteNo) (inside : s.line.dec.state = .line ∨ s.line.dec.state = .synced) :
    let n := min (s.line.dropped + 1) 65535
    s.rxDrop r = ((s.setLine { s.line with
        dropped := n, assembly := [], ahead := []
        dec := { s.line.dec with state := .skip, pos := s.line.stored } }).countLine r false).queueReport
      (.overrun r n) := by
  intro n
  unfold State.rxDrop State.setLine
  dsimp only
  rw [if_pos inside]
  rfl

theorem rxDrop_plain {s : State} (r : RouteNo) (line : s.line.dec.state ≠ .line) (synced : s.line.dec.state ≠ .synced) :
    s.rxDrop r = (s.setLine { s.line with
      dropped := min (s.line.dropped + 1) 65535, assembly := [] }).queueReport
      (.overrun r (min (s.line.dropped + 1) 65535)) := by
  unfold State.rxDrop State.setLine
  dsimp only
  rw [if_neg fun h => h.elim line synced]
  rfl

theorem rxBit_storing {s : State} {r : RouteNo} (b : Bool) (slot : s.line.slot = some r)
    (live : (s.route r).live = true) (storing : s.line.rx = .storing) : s.rxBit b = s.rxStore r b := by
  unfold State.rxBit
  rw [slot]
  dsimp only
  rw [if_neg (by simp [live]), storing]

/-- The bits of a byte that is not complete wait in the assembly (R137). -/
theorem rxBits_short {r : RouteNo} (bits : Bits) {s : State} (slot : s.line.slot = some r)
    (live : (s.route r).live = true) (storing : s.line.rx = .storing)
    (short : (s.line.assembly ++ bits).length < 8) :
    bits.foldl State.rxBit s = s.setLine { s.line with assembly := s.line.assembly ++ bits } := by
  induction bits generalizing s with
  | nil =>
    rw [List.append_nil]
    rfl
  | cons b rest ih =>
    have length : (s.line.assembly ++ [b]).length ≠ 8 := by
      simp only [List.length_append, List.length_cons, List.length_nil] at short ⊢
      omega
    have first : s.rxBit b = s.setLine { s.line with assembly := s.line.assembly ++ [b] } :=
      (rxBit_storing b slot live storing).trans (if_neg length)
    rw [List.foldl_cons, first, ih (by exact slot) (by exact live) (by exact storing)
      (by simpa [State.setLine] using short)]
    simp [State.setLine]

/-- The bits that complete a byte (R137). -/
theorem rxBits_byte {s : State} {r : RouteNo} (bits : Bits) (slot : s.line.slot = some r)
    (live : (s.route r).live = true) (storing : s.line.rx = .storing) (some_ : 1 ≤ bits.length)
    (eight : (s.line.assembly ++ bits).length = 8) :
    ∃ before : Bits, bits.foldl State.rxBit s
      = (s.setLine { s.line with assembly := before }).rxByteDone r (s.line.assembly ++ bits) := by
  have split : bits.dropLast ++ [bits.getLast (List.ne_nil_of_length_pos some_)] = bits :=
    List.dropLast_append_getLast _
  have short : (s.line.assembly ++ bits.dropLast).length < 8 := by
    rw [List.length_append] at eight
    rw [List.length_append, List.length_dropLast]
    omega
  refine ⟨s.line.assembly ++ bits.dropLast, ?_⟩
  have all : (s.line.assembly ++ bits.dropLast) ++ [bits.getLast (List.ne_nil_of_length_pos some_)]
      = s.line.assembly ++ bits := by rw [List.append_assoc, split]
  conv_lhs => rw [← split]
  rw [List.foldl_append, rxBits_short _ slot live storing short, List.foldl_cons, List.foldl_nil,
    rxBit_storing _ (by exact slot) (by exact live) (by exact storing)]
  unfold State.rxStore
  simp only [State.setLine, all]
  exact if_pos eight

theorem rxByteDone_full {s : State} {r : RouteNo} {bits before : Bits} (full : 32 ≤ s.line.rxFifo.length) :
    (s.setLine { s.line with assembly := before }).rxByteDone r bits = s.rxDrop r :=
  if_pos full

theorem rxByteDone_room {s : State} {r : RouteNo} {bits before : Bits} (room : s.line.rxFifo.length < 32) :
    (s.setLine { s.line with assembly := before }).rxByteDone r bits
      = State.rxExamine 40
        (s.setLine { s.line with
          rxFifo := s.line.rxFifo ++ [byteOfBits bits], stored := s.line.stored + 8, assembly := []
          ahead := s.line.ahead ++ bits.drop (s.line.dec.pos + s.line.ahead.length - s.line.stored) }) r :=
  if_neg (Nat.not_le.2 room)

/-! ## The first sync (R136) -/

/-- Bits cut into bytes, and the rest, are the bits. -/
theorem bits_of_bytes (bits : Bits) (n : Nat) (inside : 8 * n ≤ bits.length) :
    ((List.range n).map fun i => byteOfBits ((bits.drop (8 * i)).take 8)).flatMap bitsOfByte = bits.take (8 * n) := by
  induction n with
  | zero => simp
  | succ n ih =>
    have eight : ((bits.drop (8 * n)).take 8).length = 8 := by
      rw [List.length_take, List.length_drop]
      omega
    rw [List.range_succ, List.map_append, List.flatMap_append, ih (by omega), List.map_cons, List.map_nil,
      List.flatMap_singleton, bitsOfByte_byteOfBits eight, Nat.mul_succ, List.take_add]

/-- The line port as the first sync leaves it (R136). -/
def LinePort.synced (l : LinePort) (bits : Bits) : LinePort :=
  { l with
    rx := .storing, window := [], assembly := bits.drop (8 * (bits.length / 8))
    rxFifo := (List.range (bits.length / 8)).map fun i => byteOfBits ((bits.drop (8 * i)).take 8)
    stored := 8 * (bits.length / 8), ahead := [], writer := Writer.fresh, dropped := 0, stop := none
    dec := { Decoder.start with pos := bits.length, state := .synced, syncs := 1 } }

theorem synced_bits (l : LinePort) (bits : Bits) :
    (l.synced bits).rxFifo.flatMap bitsOfByte ++ (l.synced bits).assembly = bits := by
  unfold LinePort.synced
  dsimp only
  rw [bits_of_bytes bits _ (by omega), List.take_append_drop]

theorem firstSync_run {s : State} (r : RouteNo) (bits : Bits) (run : s.power.level = some .run) :
    s.firstSync r bits = ((s.setLine (s.line.synced bits)).routeTo r .running).askOpen r .lineReceive := by
  have awake : s.lineWake = s := by
    unfold State.lineWake
    rw [run]
  unfold State.firstSync
  rw [awake]
  rfl

theorem rxBit_rxSeek {s : State} {r : RouteNo} (b : Bool) (slot : s.line.slot = some r)
    (live : (s.route r).live = true) (seeking : s.line.rx = .seeking) : s.rxBit b = s.rxSeek r b := by
  unfold State.rxBit
  rw [slot]
  dsimp only
  rw [if_neg (by simp [live]), seeking]

theorem rxBit_seeking {s : State} {r : RouteNo} (b : Bool) (slot : s.line.slot = some r)
    (live : (s.route r).live = true) (seeking : s.line.rx = .seeking) (valid : s.pins.lineValid = true) :
    let sync := syncBits (s.storage (s.route r).code)
    let window := (s.line.window ++ [b]).drop ((s.line.window ++ [b]).length - 16)
    s.rxBit b = if (!sync.isEmpty && sync.isSuffixOf window) = true then s.firstSync r sync
      else s.setLine { s.line with window := window } := by
  intro sync window
  rw [rxBit_rxSeek b slot live seeking]
  exact if_pos valid

/-! ## The close (R5, R78, R139) -/

/-- Under CONTINUE the record of the next page (R78). -/
def Route.again (x : Route) : Route :=
  { x with
    linesDone := 0, badLines := 0, consecBad := 0, lastLineEnd := 0, badReported := false
    lastCounts := some (x.lastCounts.getD (x.linesDone, x.badLines)), received := true }

/-- A page closed and reported leaves the line port and the pins. -/
theorem closePage_line (s : State) (r : RouteNo) (p : PageNo) (c : PageClose) (x : Report) :
    ((s.closePage r p c).queueReport x).line = s.line ∧ ((s.closePage r p c).queueReport x).pins = s.pins := by
  have unreported := queueReport_unwoken (s.closePage r p c) x
  have unclosed := unpaged_closePage s r p c
  exact ⟨(congrArg State.line unreported :).trans (congrArg State.line unclosed :),
    (congrArg State.pins unreported :).trans (congrArg State.pins unclosed :)⟩

theorem routeTo_pins (s : State) (r : RouteNo) (x : RouteState) : (s.routeTo r x).pins = s.pins := by
  obtain ⟨q, changes⟩ := routeTo_changes s r x
  rw [changes]
  rfl

theorem rxAgain_eq (s : State) (r : RouteNo) (p : PageNo) (c : PageClose) :
    let t := (s.closePage r p c).queueReport (.pageDone r (some p) (s.route r).linesDone)
    let v := ((t.setRoute r (t.route r).again).setLine
      { LinePort.idlePort with
        slot := some r, rx := .seeking, txd := s.line.txd, dropped := s.line.dropped }).routeTo r .armed
    s.rxAgain r p c
      = if s.pins.lineValid then v.returnToDoze (some .lineReceive) else v.completeRoute r false none := by
  intro t v
  obtain ⟨line, pins⟩ := closePage_line s r p c (.pageDone r (some p) (s.route r).linesDone)
  have level : v.pins = s.pins := (routeTo_pins _ r .armed).trans pins
  have port : v = ((t.setRoute r (t.route r).again).setLine
      { LinePort.idlePort with
        slot := some r, rx := .seeking, txd := t.line.txd, dropped := t.line.dropped }).routeTo r .armed := by
    rw [show t.line = s.line from line]
  rw [← level, port]
  unfold State.rxAgain
  rfl

theorem rxPass_spec {s : State} {r : RouteNo} {stop : StopPoint} {p : PageNo} (slot : s.line.slot = some r)
    (stops : s.line.stop = some stop) (page : (s.route r).page = some p) :
    let x := s.route r
    let done := x.live = true ∧ s.line.rx = .flushing ∧ s.line.rxFifo = []
    let again := stop.endPattern = true ∧ x.continues = true ∧ x.halt ≠ .finish
    (¬done → s.rxPass = s)
    ∧ (done → ¬again → s.rxPass = s.completeRoute r false (some stop.close))
    ∧ (done → again →
      (s.imageNeed p ≤ s.dirPlaces → s.rxPass = s.rxAgain r p stop.close)
      ∧ (s.dirPlaces < s.imageNeed p → s.rxPass = s)) := by
  intro x done again
  have empty : s.line.rxFifo.isEmpty = true ↔ s.line.rxFifo = [] := List.isEmpty_iff
  have pass : s.rxPass = if x.live = true ∧ s.line.rx = .flushing ∧ s.line.rxFifo.isEmpty = true then
      if stop.endPattern = true ∧ x.continues = true ∧ x.halt ≠ .finish then
        if s.imageNeed p ≤ s.dirPlaces then s.rxAgain r p stop.close else s
      else s.completeRoute r false (some stop.close)
    else s := by
    unfold State.rxPass
    rw [slot, stops]
    dsimp only
    rw [page]
  rw [if_congr (and_congr_right fun _ => and_congr_right fun _ => empty) rfl rfl] at pass
  refine ⟨fun waits => pass.trans (if_neg waits), fun ends last => ?_, fun ends goes => ⟨fun room => ?_, fun full => ?_⟩⟩
  · exact pass.trans ((if_pos ends).trans (if_neg last))
  · exact pass.trans ((if_pos ends).trans ((if_pos goes).trans (if_pos room)))
  · exact pass.trans ((if_pos ends).trans ((if_pos goes).trans (if_neg (Nat.not_le.2 full))))

/-- Settles O46: reception bit by bit, the Check Decoder move by move. -/
theorem receptionStoresFromTheFirstSync : Obligations.ReceptionStoresFromTheFirstSync := by
  refine ⟨rxAgain_eq, fun n s r => ?examine, rxLineEnd_spec, stopAt_spec, fun s r stop p slot stops page =>
    rxPass_spec slot stops page, fun s r inside => ⟨rxDrop_bad r inside.symm.symm, fun bits slot live storing some_ eight
      full => ?drop⟩, fun bits s r slot live storing some_ => ?bytes, fun b s r slot live seeking valid run => ?seek⟩
  case examine =>
    intro d table found m u v
    refine ⟨rxExamine_stops n, fun open_ live goes => ⟨fun other => ?_, fun k sync => ⟨fun starts => ?_,
      fun synced none_ => ?_, fun synced ends => ?_⟩⟩⟩
    · have plain : m.2 ≠ .ended true := fun ends => by
        obtain ⟨k, sync⟩ := act_ended (Prod.ext rfl ends : m = (m.1, .ended true))
        exact other k sync
      rw [rxExamine_goes n open_ live rfl (Prod.eta m).symm goes, lineEnded_plain other, pageEnded_plain plain]
      rfl
    all_goals
      have act : d.act (endCount table) (.sync k) = (m.1, m.2) := congrArg (d.act (endCount table)) sync.symm
      have step := rxExamine_goes n open_ live (show findAt table d s.line.ahead false = .sync k from sync) act nofun
    · have plain : m.2 ≠ .ended true := by
        have verdict : (if d.state = .line then Verdict.bad else .none) = m.2 :=
          congrArg Prod.snd (((act_sync d (endCount table) k).2.2 starts).symm.trans act)
        rw [← verdict]
        split <;> nofun
      rw [step, pageEnded_plain plain]
      exact congrArg (State.rxExamine n · r) (if_neg starts)
    · rw [step, none_, pageEnded_plain (by decide)]
      exact congrArg (State.rxExamine n · r) (if_pos synced)
    · rw [step, ends, show State.lineEnded _ r s.line.dec (.sync k) = _ from if_pos synced]
      rfl
  case drop =>
    obtain ⟨before, done⟩ := rxBits_byte bits slot live storing some_ eight
    rw [rxByteDone_full full] at done
    exact congrArg (fun u : State => Host.Outcome.next (u.react.resume s.power.level)) done
  case bytes =>
    intro all
    refine ⟨fun short => ?_, fun eight room => ?_, fun eight full line synced => ?_⟩
    · exact congrArg (fun u : State => Host.Outcome.next (u.react.resume s.power.level))
        (rxBits_short bits slot live storing short)
    · obtain ⟨before, done⟩ := rxBits_byte bits slot live storing some_ eight
      rw [rxByteDone_room room] at done
      exact congrArg (fun u : State => Host.Outcome.next (u.react.resume s.power.level)) done
    · obtain ⟨before, done⟩ := rxBits_byte bits slot live storing some_ eight
      rw [rxByteDone_full full, rxDrop_plain r line synced] at done
      exact congrArg (fun u : State => Host.Outcome.next (u.react.resume s.power.level)) done
  case seek =>
    intro sync window
    have bit := rxBit_seeking b slot live seeking valid
    have exec_eq : exec (.firstSync [b]) s = .next (s.rxBit b).react := by
      change Host.Outcome.next ((s.rxBit b).react.resume s.power.level) = _
      rw [run, resume_run]
    rw [exec_eq, bit]
    refine ⟨fun unmatched => ?_, fun some_ matched => ⟨s.setLine (s.line.synced sync), ?_, rfl, rfl, rfl,
      synced_bits s.line sync, rfl⟩⟩
    · rw [if_neg]
      rcases unmatched with empty | other
      · simp [show syncBits (s.storage (s.route r).code) = [] from empty]
      · simp only [Bool.and_eq_true, not_and]
        intro _ h
        exact absurd (h.symm.trans other) (by decide)
    · rw [if_pos, firstSync_run r _ run]
      exact Bool.and_eq_true_iff.2 ⟨by simpa using some_, matched⟩

end Sys2Proof.Machine
end

section
/-! PROOF. LINE-VALID and the carrier timer (R78, R140), and sending (R59, R141 to R144). -/

namespace Sys2Proof.Machine

/-! ## LINE-VALID (R78, R136, R140) -/

theorem exec_lineValidChange {s : State} {level : Bool} (changes : s.pins.lineValid ≠ level) :
    exec (.lineValidChange level) s = .next ((s.lineValidTo level).react.resume s.power.level) :=
  congrArg Host.Outcome.next (if_neg changes)

/-- The pin alone, where no route of the line watches it (R140). -/
theorem lineValidTo_idle {s : State} (level : Bool)
    (idle : ∀ r, s.line.slot = some r → (s.route r).live = true → s.line.rx ≠ .storing ∧ s.line.rx ≠ .seeking) :
    s.lineValidTo level = { s with pins := { s.pins with lineValid := level } } := by
  unfold State.lineValidTo State.carrierWatch
  dsimp only
  cases slot : s.line.slot with
  | none => rfl
  | some r =>
    by_cases live : (s.route r).live = true
    · obtain ⟨storing, seeking⟩ := idle r slot live
      refine (if_pos live).trans ?_
      rw [if_neg storing, if_neg fun h => seeking h.1]
    · exact if_neg live

/-- A live route of the line watches the level (R140). -/
theorem lineValidTo_live {s : State} {r : RouteNo} (level : Bool) (slot : s.line.slot = some r)
    (live : (s.route r).live = true) :
    s.lineValidTo level = State.carrierWatch { s with pins := { s.pins with lineValid := level } } r level := by
  unfold State.lineValidTo
  dsimp only
  rw [slot]
  exact if_pos live

theorem carrierWatch_storing {s : State} (r : RouteNo) (level : Bool) (storing : s.line.rx = .storing) :
    s.carrierWatch r level = s.setLine { s.line with
      carrier := if level then none else some (s.now + 1000 * (s.route r).carrierMs) } := if_pos storing

theorem carrierWatch_seeking {s : State} (r : RouteNo) (seeking : s.line.rx = .seeking) :
    s.carrierWatch r true = s
    ∧ ((s.route r).received = false → s.carrierWatch r false = s.setLine { s.line with window := [] })
    ∧ ((s.route r).received = true →
      s.carrierWatch r false = (s.setLine { s.line with window := [] }).completeRoute r false none) := by
  have other : ¬s.line.rx = .storing := by simp [seeking]
  refine ⟨(if_neg other).trans (if_neg fun h => absurd h.2 (by decide)), fun first => ?_, fun received => ?_⟩
  all_goals refine (if_neg other).trans ((if_pos ⟨seeking, rfl⟩).trans ?_)
  · exact if_neg (by simpa [State.setLine, State.route] using first)
  · exact if_pos received

/-- Settles O47: the level's watch by the receive side's state. -/
theorem carrierTimerWatchesLineValid : Obligations.CarrierTimerWatchesLineValid := by
  refine ⟨fun s level changes idle => ?_, fun s r slot => ⟨fun live storing valid => ?_, fun live storing out => ?_,
    fun live seeking => ⟨fun valid => ?_, fun out => ?_⟩, fun level same => ?_, fun d runs => ?_, fun stopped => ?_⟩⟩
  · rw [exec_lineValidChange changes, lineValidTo_idle level idle]
  · rw [exec_lineValidChange (by simp [valid]), lineValidTo_live _ slot live, carrierWatch_storing r _ (by exact storing)]
    rfl
  · rw [exec_lineValidChange (by simp [out]), lineValidTo_live _ slot live, carrierWatch_storing r _ (by exact storing)]
    rfl
  · intro u
    obtain ⟨-, first, again⟩ := carrierWatch_seeking (s := { s with pins := { s.pins with lineValid := false } }) r
      seeking
    rw [exec_lineValidChange (by simp [valid]), lineValidTo_live _ slot live]
    refine ⟨fun unreceived => ?_, fun received => ?_⟩
    · rw [first unreceived]
      rfl
    · rw [again received]
      rfl
  · rw [exec_lineValidChange (by simp [out]), lineValidTo_live _ slot live,
      (carrierWatch_seeking r (by exact seeking)).1]
  · exact congrArg Host.Outcome.next (if_pos same)
  · change execCarrierTimerExpiry s = _
    unfold execCarrierTimerExpiry
    rw [slot, runs]
    rfl
  · change execCarrierTimerExpiry s = _
    unfold execCarrierTimerExpiry
    rw [slot, stopped]

/-! ## The Check Decoder looks ahead (R59, R141, R142) -/

/-- The line's marks at what the Check Decoder finds (R59, R142). -/
theorem note_spec (l : LinePort) (d d' : Decoder) (found : Found) (v : Verdict) (sync minBits : Nat) :
    (∀ n, found = .sync n →
      (d.state = .synced → l.note d d' found v sync minBits = l)
      ∧ (d.state ≠ .synced →
        l.note d d' found v sync minBits
          = { l with
              lineSync := none, lineEnd := none
              markAt := if d.state = .line ∨ d.state = .skip ∨ l.lineEnd ≠ none then
                  some (d.pos, l.fillMark minBits d.pos (l.lostSync d))
                else l.markAt }))
    ∧ ((∃ value chunk n, found = .code value chunk n) ∨ found = .noMatch →
      l.note d d' found v sync minBits
        = { l with
            lineSync := if d.state = .synced then some (d.pos - sync) else l.lineSync
            lineEnd := if found ≠ .noMatch ∧ v = .good then some d'.pos else l.lineEnd })
    ∧ (found = .wait ∨ found = .runOut ∨ found = .pass → l.note d d' found v sync minBits = l) := by
  refine ⟨?_, ?_, ?_⟩
  · rintro n rfl
    refine ⟨fun synced => if_pos synced, fun other => (if_neg other).trans ?_⟩
    have after : (decide (d.state = .line) || decide (d.state = .skip) || l.lineEnd.isSome) = true
        ↔ d.state = .line ∨ d.state = .skip ∨ l.lineEnd ≠ none := by
      simp only [Bool.or_eq_true, decide_eq_true_eq, Option.isSome_iff_ne_none, or_assoc]
    rw [← if_congr after rfl rfl]
  · rintro (⟨value, chunk, n, rfl⟩ | rfl)
    · unfold LinePort.note
      dsimp only
      by_cases synced : d.state = .synced <;> by_cases good : v = .good <;> simp [synced, good]
    · unfold LinePort.note
      dsimp only
      by_cases synced : d.state = .synced <;> simp [synced]
  · rintro (rfl | rfl | rfl) <;> rfl

theorem lostSync_iff (l : LinePort) (d : Decoder) :
    l.lostSync d = true ↔ d.state = .skip ∧ (l.lineEnd ≠ none ∨ l.lineSync = none) := by
  simp only [LinePort.lostSync, Bool.and_eq_true, Bool.or_eq_true, beq_iff_eq, Option.isSome_iff_ne_none,
    Option.isNone_iff_eq_none]

/-- The fill of a mark (R142). -/
theorem fillMark_spec (l : LinePort) (minBits x : Nat) :
    (∀ start, l.lineSync = some start →
      l.fillMark minBits x false = min 4800 (minBits - (l.lineEnd.getD x - start)))
    ∧ (l.lineSync = none → l.fillMark minBits x false = 0)
    ∧ ∃ k ≤ minBits, l.fillMark minBits x true = min 4800
      ((match l.lineSync with
        | some start => minBits - (l.lineEnd.getD x - start)
        | none => 0) + k) := by
  refine ⟨fun start sync => ?_, fun none_ => ?_, Config.lostSyncFill x % (minBits + 1), ?_, rfl⟩
  · simp only [LinePort.fillMark, sync]
    rfl
  · simp only [LinePort.fillMark, none_]
    rfl
  · exact Nat.le_of_lt_succ (Nat.mod_lt _ (Nat.succ_pos _))

/-- The mark a byte takes with it as it enters the tx FIFO (R142). -/
def LinePort.markOf (l : LinePort) (i : Nat) : Option (Nat × Nat) :=
  match l.markAt with
  | some (x, fill) => if x / 8 = l.entered + i then some (x, fill) else none
  | none => none

theorem enter_txFifo (l : LinePort) (bytes : List Byte) :
    (l.enter bytes).txFifo = l.txFifo ++ bytes.mapIdx fun i b => TxByte.mk b (l.markOf i) := rfl

theorem enter_spec (l : LinePort) (bytes : List Byte) :
    let u := l.enter bytes
    u.txFifo.map TxByte.byte = l.txFifo.map TxByte.byte ++ bytes
    ∧ (l.markAt = none → u.txFifo = l.txFifo ++ bytes.map fun b => { byte := b, mark := none })
    ∧ (∀ x fill, l.markAt = some (x, fill) →
      ∀ i (h : i < bytes.length), u.txFifo[l.txFifo.length + i]?
        = some { byte := bytes[i], mark := if x / 8 = l.entered + i then some (x, fill) else none })
    ∧ (∀ i < l.txFifo.length, u.txFifo[i]? = l.txFifo[i]?)
    ∧ { u with txFifo := l.txFifo }
      = { l with
          entered := l.entered + bytes.length, inUnderrun := l.inUnderrun && bytes.isEmpty
          markAt := l.markAt.filter fun m => decide (l.entered + bytes.length ≤ m.1 / 8)
          fetch :=
            { l.fetch with
              queue := l.fetch.queue.drop
                (8 * (l.entered + bytes.length) / 16 - 8 * l.entered / 16) } } := by
  intro u
  refine ⟨?_, fun none_ => ?_, fun x fill mark i inside => ?_, fun i inside => ?_, ?_⟩
  · rw [enter_txFifo, List.map_append]
    refine congrArg (l.txFifo.map TxByte.byte ++ ·) (List.ext_getElem (by simp) fun i _ _ => by simp)
  · have unmarked (i : Nat) : l.markOf i = none := by simp [LinePort.markOf, none_]
    rw [enter_txFifo]
    refine congrArg (l.txFifo ++ ·) (List.ext_getElem (by simp) fun i _ _ => by simp [unmarked])
  · rw [enter_txFifo, List.getElem?_append_right (Nat.le_add_right _ _), Nat.add_sub_cancel_left]
    simp [LinePort.markOf, mark, List.getElem?_eq_getElem inside]
  · rw [enter_txFifo, List.getElem?_append_left inside]
  · have markAt : u.markAt = l.markAt.filter fun m => decide (l.entered + bytes.length ≤ m.1 / 8) := by
      unfold u LinePort.enter
      cases mark : l.markAt with
      | none => rfl
      | some m =>
        obtain ⟨x, fill⟩ := m
        by_cases passed : x / 8 < l.entered + bytes.length
        · simp [Option.filter, passed]
        · simp [Option.filter, passed, Nat.not_lt.1 passed]
    rw [← markAt]
    rfl

/-- The verdict is the page's end. -/
def Verdict.isEnd : Verdict → Bool
  | .ended _ => true
  | _ => false

theorem isEnd_iff (v : Verdict) : v.isEnd = true ↔ v = .ended true ∨ v = .ended false := by
  cases v with
  | ended pattern => cases pattern <;> simp [Verdict.isEnd]
  | _ => simp [Verdict.isEnd]

/-- Where a verdict stops the send side: at the bit length where the bits run out (R54). -/
def LinePort.stopOf (l : LinePort) (d : Decoder) : Verdict → Nat
  | .ended false => l.bitLength
  | _ => d.pos

theorem stopOf_eq (l : LinePort) (d : Decoder) (v : Verdict) :
    l.stopOf d v = if v = .ended false then l.bitLength else d.pos := by
  cases v with
  | ended pattern => cases pattern <;> rfl
  | _ => rfl

/-- The bytes that a move passes (R141). -/
def LinePort.passed (l : LinePort) (d : Decoder) (v : Verdict) : Nat :=
  (if v.isEnd = true then (l.stopOf d v + 7) / 8 else l.stopOf d v / 8) - l.entered

theorem note_queue (l : LinePort) (d d' : Decoder) (found : Found) (v : Verdict) (sync minBits : Nat) :
    (l.note d d' found v sync minBits).fetch = l.fetch
    ∧ (l.note d d' found v sync minBits).entered = l.entered := by
  cases found with
  | sync n =>
    by_cases synced : d.state = .synced <;> simp [LinePort.note, synced]
  | code chunk n =>
    by_cases synced : d.state = .synced <;> by_cases good : v = .good <;> simp [LinePort.note, synced, good]
  | noMatch =>
    by_cases synced : d.state = .synced <;> simp [LinePort.note, synced]
  | pass => exact ⟨rfl, rfl⟩
  | wait => exact ⟨rfl, rfl⟩
  | runOut => exact ⟨rfl, rfl⟩

/-- The line port past a move, with its marks and the bytes passed (R141, R142). -/
def State.looked (s : State) (r : RouteNo) (found : Found) (d : Decoder) (v : Verdict) : LinePort :=
  let noted := s.line.note s.line.dec d found v (syncBits (s.storage (s.route r).code)).length (s.route r).minBits
  LinePort.enter { noted with dec := d } (bytesFrom noted.fetch.queue noted.entered (s.line.passed d v))

theorem looked_eq (s : State) (r : RouteNo) (found : Found) (d : Decoder) (v : Verdict) (n : Nat)
    (passed : s.line.passed d v = n) :
    s.looked r found d v = LinePort.enter
      { s.line.note s.line.dec d found v (syncBits (s.storage (s.route r).code)).length (s.route r).minBits with
        dec := d } (bytesFrom s.line.fetch.queue s.line.entered n) := by
  obtain ⟨queue, entered⟩ := note_queue s.line s.line.dec d found v (syncBits (s.storage (s.route r).code)).length
    (s.route r).minBits
  unfold State.looked
  dsimp only
  rw [passed, queue, entered]

theorem txMove_eq {s : State} {r : RouteNo} {last : Bool} {found : Found} {d : Decoder} {v : Verdict}
    (finds : findAt (s.storage (s.route r).code) s.line.dec
      (bitsAt s.line.fetch.queue s.line.dec.pos s.line.bitLength)
      (s.line.bitLength ≤ s.line.dec.pos + (bitsAt s.line.fetch.queue s.line.dec.pos s.line.bitLength).length) = found)
    (act : s.line.dec.act (endCount (s.storage (s.route r).code)) found = (d, v)) :
    s.txMove r last = if found = .wait ∨ s.line.dec.state = .ended ∨ v.isEnd ≠ last then none
      else if 32 < s.line.txFifo.length + s.line.passed d v then none
      else some ((s.setLine (if v.isEnd = true then
        { s.looked r found d v with endPos := some (s.line.stopOf d v), unterminated := v == .ended false }
        else s.looked r found d v)).countVerdict r v) := by
  unfold State.txMove
  dsimp only
  rw [finds, act]
  rfl

/-- The Check Decoder's next move in LINE-SEND (R59, R141). -/
theorem txMove_spec (s : State) (r : RouteNo) (last : Bool) :
    let l := s.line
    let table := s.storage (s.route r).code
    let bs := bitsAt l.fetch.queue l.dec.pos l.bitLength
    let found := findAt table l.dec bs (l.bitLength ≤ l.dec.pos + bs.length)
    let m := l.dec.act (endCount table) found
    let ends := m.2 = .ended true ∨ m.2 = .ended false
    let stop := if m.2 = .ended false then l.bitLength else m.1.pos
    let n := (if ends then (stop + 7) / 8 else stop / 8) - l.entered
    let waits := found = .wait ∨ l.dec.state = .ended ∨ (ends ↔ last = false)
      ∨ 32 < l.txFifo.length + n
    (waits → s.txMove r last = none)
    ∧ (¬waits →
      let noted := { l.note l.dec m.1 found m.2 (syncBits table).length (s.route r).minBits with dec := m.1 }
      let u := noted.enter (bytesFrom l.fetch.queue l.entered n)
      (last = false → s.txMove r last = some ((s.setLine u).countVerdict r m.2))
      ∧ (last = true → s.txMove r last = some (s.setLine
          { u with endPos := some stop, unterminated := decide (m.2 = .ended false) }))) := by
  intro l table bs found m ends stop n waits
  have move := txMove_eq (s := s) (r := r) (last := last) (found := found) (d := m.1) (v := m.2) rfl rfl
  have ends_iff : m.2.isEnd = true ↔ ends := isEnd_iff m.2
  have passed : l.passed m.1 m.2 = n :=
    congrArg (· - l.entered) (by
      rw [show l.stopOf m.1 m.2 = stop from stopOf_eq l m.1 m.2]
      exact if_congr ends_iff rfl rfl)
  have late : m.2.isEnd ≠ last ↔ (ends ↔ last = false) := by
    rw [← ends_iff]
    cases m.2.isEnd <;> cases last <;> decide
  rw [show s.line.passed m.1 m.2 = n from passed] at move
  refine ⟨fun still => ?_, fun goes => ?_⟩
  · rw [move]
    rcases still with wait | ended | other | full
    · exact if_pos (.inl wait)
    · exact if_pos (.inr (.inl ended))
    · exact if_pos (.inr (.inr (late.2 other)))
    · rw [if_pos full, ite_self]
  · intro noted u
    have looked : s.looked r found m.1 m.2 = u := looked_eq s r found m.1 m.2 n passed
    have begins : ¬(found = .wait ∨ s.line.dec.state = .ended ∨ m.2.isEnd ≠ last) := fun h =>
      goes (h.imp_right fun h => h.imp_right fun h => .inl (late.1 h))
    have room : ¬32 < s.line.txFifo.length + n := fun full => goes (.inr (.inr (.inr full)))
    rw [if_neg begins, if_neg room, looked] at move
    have in_time : m.2.isEnd = last := not_not.1 fun h => begins (.inr (.inr h))
    refine ⟨fun more => ?_, fun final => ?_⟩
    · rw [move, if_neg (by rw [in_time, more]; decide)]
    · have is_end : m.2.isEnd = true := in_time.trans final
      rw [move, if_pos is_end]
      have counted (t : State) : t.countVerdict r m.2 = t := by
        rcases ends_iff.1 is_end with h | h <;> rw [h] <;> rfl
      rw [counted, stopOf_eq]
      rfl

/-! ## PRIMING, the passes and the end (R141, R144) -/

theorem txPrime_spec (s : State) :
    (s.line.tx = .priming → 32 ≤ s.line.txFifo.length ∨ s.line.endPos ≠ none →
      s.txPrime = s.setLine { s.line with tx := .sending })
    ∧ (s.line.tx ≠ .priming ∨ (s.line.txFifo.length < 32 ∧ s.line.endPos = none) → s.txPrime = s) := by
  refine ⟨fun priming full => if_pos ⟨priming, full.imp_right Option.isSome_iff_ne_none.2⟩, fun still => if_neg ?_⟩
  rintro ⟨priming, full⟩
  rcases still with other | ⟨room, more⟩
  · exact other priming
  · rcases full with full | ended
    · exact absurd room (Nat.not_lt.2 full)
    · exact Option.isSome_iff_ne_none.1 ended more

theorem txPass_spec {s : State} {r : RouteNo} (slot : s.line.slot = some r) :
    let sends := (s.route r).kind = some .lineSend ∧ (s.route r).live = true ∧ s.line.tx ≠ .idle
      ∧ (s.route r).halt ≠ .finish ∧ s.heldByDamage r = false
    (sends → s.txPass = ((s.txAdvance 320 r).txPrime).txEnd r) ∧ (¬sends → s.txPass = s) := by
  intro sends
  have sends_iff : ((s.route r).isKind .lineSend && (s.route r).live && s.line.tx != .idle
      && (s.route r).halt != .finish && !s.heldByDamage r) = true ↔ sends := by
    simp only [Bool.and_eq_true, bne_iff_ne, Bool.not_eq_true', Route.isKind, beq_iff_eq, ne_eq, and_assoc, sends]
  unfold State.txPass
  rw [slot]
  exact ⟨fun h => if_pos (sends_iff.2 h), fun h => if_neg (sends_iff.not.2 h)⟩

theorem txAdvance_succ (n : Nat) (s : State) (r : RouteNo) :
    (∀ t, s.txMove r false = some t → State.txAdvance (n + 1) s r = State.txAdvance n t r)
    ∧ (s.txMove r false = none → State.txAdvance (n + 1) s r = s) := by
  refine ⟨fun t move => ?_, fun none_ => ?_⟩
  · rw [State.txAdvance, move]
  · rw [State.txAdvance, none_]

/-! ## The transmit clock (R142 to R144) -/

theorem txLast_iff (s : State) (r : RouteNo) :
    s.txLast r = true ↔ s.line.endPos = some (s.line.sent + 1)
      ∨ ((s.route r).halt = .finish ∧ s.line.endPos = none ∧ s.line.txBit = 7 ∧ s.line.txFifo.length = 1) := by
  simp only [State.txLast, Bool.or_eq_true, Bool.and_eq_true, beq_iff_eq, Option.isNone_iff_eq_none, and_assoc]

theorem txNext_zero {s : State} (still : s.line.slot = none ∨ s.line.tx ≠ .sending) : s.txNext = .zero := by
  unfold State.txNext
  split
  · rename_i r slot sending
    rcases still with none_ | other
    · rw [none_] at slot
      cases slot
    · exact absurd sending other
  · rfl

theorem txNext_dead {s : State} {r : RouteNo} (slot : s.line.slot = some r) (dead : (s.route r).live = false) :
    s.txNext = .zero := by
  by_cases sending : s.line.tx = .sending
  · unfold State.txNext
    rw [slot, sending]
    exact if_neg (by simp [dead])
  · exact txNext_zero (.inr sending)

/-- The fill of a byte's mark that stands at the bit to go out (R142). -/
def TxByte.fillAt (t : TxByte) (sent : Nat) : Nat :=
  match t.mark with
  | some (x, n) => if x = sent then n else 0
  | none => 0

theorem fillAt_marked {t : TxByte} {sent n : Nat} (mark : t.mark = some (sent, n)) : t.fillAt sent = n := by
  unfold TxByte.fillAt
  rw [mark]
  exact if_pos rfl

theorem fillAt_unmarked {t : TxByte} {sent : Nat} (none_ : ∀ n, t.mark = some (sent, n) → n = 0) :
    t.fillAt sent = 0 := by
  cases mark : t.mark with
  | none => simp only [TxByte.fillAt, mark]
  | some m =>
    obtain ⟨x, n⟩ := m
    by_cases here : x = sent
    · subst here
      exact (fillAt_marked mark).trans (none_ n mark)
    · simp only [TxByte.fillAt, mark, if_neg here]

theorem txNext_front {s : State} {r : RouteNo} {t : TxByte} {rest : List TxByte} (slot : s.line.slot = some r)
    (sending : s.line.tx = .sending) (live : (s.route r).live = true) (done : s.line.fill = 0)
    (fifo : s.line.txFifo = t :: rest) :
    s.txNext = if 0 < t.fillAt s.line.sent then .fill (some (t.fillAt s.line.sent))
      else .bit ((bitsOfByte t.byte).getD s.line.txBit false) (s.txLast r) := by
  unfold State.txNext
  rw [slot, sending]
  dsimp only
  rw [if_pos live, if_neg (by omega), fifo]
  rfl

theorem txNext_sending {s : State} {r : RouteNo} (slot : s.line.slot = some r) (sending : s.line.tx = .sending)
    (live : (s.route r).live = true) :
    (0 < s.line.fill → s.txNext = .fill none)
    ∧ (s.line.fill = 0 → s.line.txFifo = [] → s.txNext = .empty)
    ∧ ∀ t rest, s.line.fill = 0 → s.line.txFifo = t :: rest →
      (∀ n, t.mark = some (s.line.sent, n) → 0 < n → s.txNext = .fill (some n))
      ∧ ((∀ n, t.mark = some (s.line.sent, n) → n = 0) →
        s.txNext = .bit ((bitsOfByte t.byte).getD s.line.txBit false) (s.txLast r)) := by
  refine ⟨fun fills => ?_, fun done empty => ?_, fun t rest done fifo => ?_⟩
  · unfold State.txNext
    rw [slot, sending]
    dsimp only
    rw [if_pos live, if_pos fills]
  · unfold State.txNext
    rw [slot, sending]
    dsimp only
    rw [if_pos live, if_neg (by omega), empty]
  · rw [txNext_front slot sending live done fifo]
    refine ⟨fun n mark pos => ?_, fun none_ => ?_⟩
    · rw [fillAt_marked mark, if_pos pos]
    · rw [fillAt_unmarked none_, if_neg (Nat.lt_irrefl 0)]

theorem sendBit_eq (l : LinePort) (b : Bool) :
    l.sendBit b = { l with
      txd := b, sent := l.sent + 1
      txBit := if l.txBit = 7 then 0 else l.txBit + 1
      txFifo := if l.txBit = 7 then l.txFifo.drop 1 else l.txFifo } := by
  unfold LinePort.sendBit
  by_cases last : l.txBit = 7
  · simp [last]
  · simp [last]

theorem txClock_bit {s : State} {b : Bool} (last : Bool) (next : s.txNext = .bit b last) :
    (last = false → s.txClock = s.setLine (s.line.sendBit b))
    ∧ ∀ r, last = true → s.line.slot = some r →
      s.txClock = (s.setLine (s.line.sendBit b)).completeRoute r s.line.unterminated none := by
  unfold State.txClock
  rw [next]
  refine ⟨?_, ?_⟩
  · rintro rfl
    dsimp only
    cases s.line.slot <;> rfl
  · rintro r rfl slot
    dsimp only
    rw [slot]
    rfl

/-- Settles O48: the Check Decoder's look-ahead by its move, the transmit clock by what is next. -/
theorem transmitClocksSendThePage : Obligations.TransmitClocksSendThePage := by
  refine ⟨txMove_spec, fun s r => ⟨rfl, rfl, rfl⟩, fun l d d' found v sync minBits => ?_, enter_spec, fun s r => ?_,
    fun s => ⟨txNext_zero, fun r slot => ⟨txNext_dead slot, fun sending live => txNext_sending slot sending live,
      txLast_iff s r⟩⟩, fun s => ⟨fun next => ?_, fun next => ?_, fun n next => ?_, fun next under => ?_,
      fun b next => ?_, fun b r next slot => ?_, fun r next fresh slot => ?_⟩⟩
  · obtain ⟨syncs, codes, others⟩ := note_spec l d d' found v sync minBits
    exact ⟨syncs, codes, others, lostSync_iff l d, fillMark_spec l minBits⟩
  · obtain ⟨primes, stays⟩ := txPrime_spec s
    refine ⟨primes, stays, fun sending ended => if_pos ⟨sending, ended⟩, fun still => if_neg fun h => ?_,
      fun slot => txPass_spec slot, fun n => txAdvance_succ n s r⟩
    exact still.elim (absurd h.1) (absurd h.2)
  · change Host.Outcome.next s.txClock.react = _
    unfold State.txClock
    rw [next]
    rfl
  · change Host.Outcome.next s.txClock.react = _
    unfold State.txClock
    rw [next]
    rfl
  · change Host.Outcome.next s.txClock.react = _
    unfold State.txClock
    rw [next]
    rfl
  · change Host.Outcome.next s.txClock.react = _
    unfold State.txClock
    rw [next]
    dsimp only
    rw [if_pos under]
    rfl
  · change Host.Outcome.next s.txClock.react = _
    rw [(txClock_bit false next).1 rfl, sendBit_eq]
    rfl
  · have ends : exec .lineSendEnd s = .next s.txClock.react := by
      change execLineSendEnd s = _
      unfold execLineSendEnd
      rw [next]
    rw [ends, (txClock_bit true next).2 r rfl slot, sendBit_eq]
    rfl
  · have begins : exec .underrun s = .next s.txClock.react := congrArg Host.Outcome.next (if_pos ⟨next, fresh⟩)
    rw [begins]
    unfold State.txClock
    rw [next]
    dsimp only
    rw [if_neg (by simp [fresh]), slot]
    rfl

end Sys2Proof.Machine
end

section
/-! PROOF. O53: the target of a step event is the lowest ceiling of its motion (R115, R117). -/

namespace Sys2Proof.Machine

/-! ## The lowest and the largest of a list -/

theorem foldl_min_spec (l : List Nat) : ∀ a : Nat,
    l.foldl min a ≤ a ∧ (∀ c ∈ l, l.foldl min a ≤ c) ∧ l.foldl min a ∈ a :: l := by
  induction l with
  | nil => exact fun a => ⟨Nat.le_refl _, by simp, by simp⟩
  | cons b l ih =>
    intro a
    obtain ⟨below, lowest, among⟩ := ih (min a b)
    simp only [List.foldl_cons, List.mem_cons, forall_eq_or_imp] at *
    refine ⟨by omega, ⟨by omega, lowest⟩, ?_⟩
    rcases among with same | later
    · omega
    · exact .inr (.inr later)

theorem foldl_max_spec (l : List PlannedLine) : ∀ a : Nat,
    a ≤ l.foldl (fun n x => max n x.plan.burn) a
    ∧ (∀ x ∈ l, x.plan.burn ≤ l.foldl (fun n x => max n x.plan.burn) a)
    ∧ (l.foldl (fun n x => max n x.plan.burn) a = a
      ∨ ∃ x ∈ l, x.plan.burn = l.foldl (fun n x => max n x.plan.burn) a) := by
  induction l with
  | nil => exact fun a => ⟨Nat.le_refl _, by simp, .inl rfl⟩
  | cons y l ih =>
    intro a
    obtain ⟨above, largest, among⟩ := ih (max a y.plan.burn)
    simp only [List.foldl_cons, List.mem_cons, forall_eq_or_imp, exists_eq_or_imp] at *
    refine ⟨by omega, ⟨by omega, largest⟩, ?_⟩
    rcases among with same | later
    · omega
    · exact .inr (.inr later)

theorem largestBurn_spec (h : Head) :
    let lines := h.current.toList ++ h.ready
    (∀ l ∈ lines, l.plan.burn ≤ h.largestBurn)
    ∧ (lines = [] → h.largestBurn = 0)
    ∧ (lines ≠ [] → ∃ l ∈ lines, l.plan.burn = h.largestBurn) := by
  intro lines
  obtain ⟨-, largest, among⟩ := foldl_max_spec lines 0
  refine ⟨largest, fun none_ => ?_, fun some_ => ?_⟩
  · change lines.foldl _ 0 = 0
    rw [none_]
    rfl
  · rcases among with zero | found
    · obtain ⟨x, rest, eq⟩ := List.exists_cons_of_ne_nil some_
      have x_in : x ∈ lines := eq ▸ List.mem_cons_self
      exact ⟨x, x_in, Nat.le_antisymm (largest x x_in) ((Nat.le_of_eq zero).trans (Nat.zero_le _))⟩
    · exact found

theorem towards_spec (index target : Nat) :
    (index < target → towards index target = index + 1)
    ∧ (target < index → towards index target + 1 = index) ∧ (index = target → towards index target = index) := by
  unfold towards
  refine ⟨fun low => if_pos low, fun high => ?_, fun same => ?_⟩
  · rw [if_neg (by omega), if_pos high]
    omega
  · rw [if_neg (by omega), if_neg (by omega)]

theorem highestIndex_spec (ramp : Ramp) (spl time : Nat) :
    (∀ i < ramp.periods.length, time ≤ ramp.periods.getD i 0 * spl →
      (∀ j, i < j → j < ramp.periods.length → ramp.periods.getD j 0 * spl < time) →
      highestIndex ramp spl time = i)
    ∧ ((∀ j < ramp.periods.length, ramp.periods.getD j 0 * spl < time) → highestIndex ramp spl time = 0) := by
  unfold highestIndex
  refine ⟨fun i inside long above => ?_, fun short => ?_⟩
  · obtain ⟨n, length⟩ : ∃ n, ramp.periods.length = i + 1 + n := ⟨_, (Nat.add_sub_of_le inside).symm⟩
    have none_above : ((List.range n).map (i + 1 + ·)).filter
        (fun i => decide (time ≤ ramp.periods.getD i 0 * spl)) = [] := by
      rw [List.filter_eq_nil_iff]
      intro j there
      obtain ⟨k, k_lt, rfl⟩ := List.mem_map.1 there
      have := above (i + 1 + k) (by omega) (by have := List.mem_range.1 k_lt; omega)
      simpa using this
    rw [length, List.range_add, List.filter_append, none_above, List.append_nil, List.range_succ,
      List.filter_append, List.filter_cons_of_pos (by simpa using long), List.filter_nil, List.getLastD_concat]
  · rw [List.filter_eq_nil_iff.2 fun j there => by simpa using short j (List.mem_range.1 there)]
    rfl

theorem ceilings_lines_pf (s : State) (r c : Nat) (lines : s.pf.motion = .lines) :
    c ∈ s.ceilings .pf r ↔
      c = (s.rampInUse .pf).z + r + s.head.ready.length * s.splOf .pf
      ∨ c = (if s.head.largestBurn = 0 then (s.rampInUse .pf).periods.length - 1
          else highestIndex (s.rampInUse .pf) (s.splOf .pf) s.head.largestBurn)
      ∨ (c = (s.rampInUse .pf).z
          ∧ (s.headHot = true ∨ s.pins.paperOut = true ∨ s.head.supply ≠ .settled)) := by
  have unready : (s.headHot || s.pins.paperOut || !s.headSettled) = true
      ↔ s.headHot = true ∨ s.pins.paperOut = true ∨ s.head.supply ≠ .settled := by
    simp [State.headSettled, or_assoc]
  unfold State.ceilings
  dsimp only
  rw [show (s.motor .pf).motion = .lines from lines, ← unready]
  by_cases limited : (s.headHot || s.pins.paperOut || !s.headSettled) = true <;> simp [limited]

theorem ceilings_lines_sf (s : State) (r c : Nat) (lines : s.sf.motion = .lines) :
    c ∈ s.ceilings .sf r ↔
      c = (s.rampInUse .sf).z + r + s.scanFree * s.splOf .sf
      ∨ c = highestIndex (s.rampInUse .sf) (s.splOf .sf) s.scanPeriod := by
  unfold State.ceilings
  dsimp only
  rw [show (s.motor .sf).motion = .lines from lines]
  simp

/-- Settles O53: each ceiling by the motion, the target by folding the least over them. -/
theorem targetIsTheLowestCeiling : Obligations.TargetIsTheLowestCeiling := by
  unfold Obligations.TargetIsTheLowestCeiling
  refine ⟨fun s m r => ?_, fun s m r => ⟨fun motion => ?_, fun motion => ?_, fun owner motion => ?_⟩,
    ceilings_lines_pf, ceilings_lines_sf, highestIndex_spec, fun s => largestBurn_spec s.head, fun s r claimed => ?_⟩
  · obtain ⟨top, lowest, among⟩ := foldl_min_spec (s.ceilings m r) (s.topOf m)
    exact ⟨top, lowest, among, towards_spec⟩
  · unfold State.ceilings
    dsimp only
    rw [motion]
  · unfold State.ceilings
    dsimp only
    rw [motion]
  · unfold State.ceilings
    dsimp only
    rw [motion]
  · unfold State.scanPeriod
    rw [claimed]
    exact Nat.max_comm _ _

end Sys2Proof.Machine
end

section
/-! PROOF. O49: line starts claim or skip, and a completed readout fills its ring (R82 to R85, R92, R93, R98). -/

namespace Sys2Proof.Machine

/-! ## The dots of a readout (R82) -/

theorem testBit_natOfBools (bs : List Bool) : ∀ i,
    (bs.foldr (fun (b : Bool) n => 2 * n + b.toNat) 0).testBit i = bs.getD i false := by
  induction bs with
  | nil => simp
  | cons b bs ih =>
    intro i
    rw [List.foldr_cons]
    cases i with
    | zero => cases b <;> simp [Nat.testBit_zero]
    | succ i =>
      rw [List.getD_cons_succ, ← ih, Nat.testBit_succ]
      congr 1
      cases b
      · simp
      · simp; omega

theorem getLsbD_groupOfBools (bs : List Bool) (i : Nat) (inside : i < 216) :
    (groupOfBools bs).getLsbD i = bs.getD i false := by
  unfold groupOfBools
  rw [BitVec.getLsbD_ofNat, testBit_natOfBools]
  simp [inside, List.getD_eq_getElem?_getD]

theorem dot_dotsOfBools (bs : List Bool) (x : Nat) (inside : x < 1728) :
    Dots.dot (dotsOfBools bs) x = bs.getD x false := by
  have group : (dotsOfBools bs)[x / 216]?.getD 0 = groupOfBools (bs.drop (216 * (x / 216))) := by
    have bound : x / 216 < 8 := by omega
    generalize x / 216 = g at bound
    interval_cases g <;> rfl
  unfold Dots.dot
  rw [group, getLsbD_groupOfBools _ _ (Nat.mod_lt _ (by decide)), List.getD_eq_getElem?_getD, List.getElem?_drop,
    Nat.div_add_mod, ← List.getD_eq_getElem?_getD]

theorem dot_thresholdLine (shade samples : List Byte) (x : Nat) (h : x < samples.length)
    (full : samples.length = 1728) :
    Dots.dot (thresholdLine shade samples) x
      = decide ((samples[x]'h).toNat < (shade.getD (x / 64) 0).toNat) := by
  have inside : x < Config.lineDots := Nat.lt_of_lt_of_eq h full
  unfold thresholdLine
  rw [dot_dotsOfBools _ _ inside]
  simp [List.getD_eq_getElem?_getD, inside, h, shadeThreshold]

/-! ## A completed readout (R82, R84, R98) -/

theorem enterRing_spec (s : State) (dots : Dots) :
    (s.enterRing dots).head.ready
      = s.head.ready ++ [{ dots := dots, plan := planOf s.heat s.head.theta s.head.volts dots s.head.history }]
    ∧ (s.enterRing dots).head.history = dots
    ∧ (s.enterRing dots).power = { s.power with watermark := s.setup.watermark }
    ∧ { s.enterRing dots with head := s.head, power := s.power } = s := ⟨rfl, rfl, rfl, rfl⟩

theorem exec_captureComplete {s : State} {r : RouteNo} {d : Nat} (samples : List Byte)
    (claimed : s.engines.scanner = some r) (timed : s.scanner.captureTimer = some d) :
    exec (.captureComplete samples) s
      = .next (if s.capturing then ((s.reach d).capture r samples).react else s) := by
  change execCaptureComplete samples s = _
  unfold execCaptureComplete
  rw [claimed, timed]

theorem capture_scan {s : State} (r : RouteNo) (samples : List Byte) (scan : s.copying = false) :
    s.capture r samples = { s with scanner := { s.scanner with
      capturing := false, captureTimer := none
      ready := s.scanner.ready ++ [thresholdLine (s.storage (s.route r).shade) samples] } } :=
  if_neg fun copy => Bool.noConfusion (scan.symm.trans copy)

theorem capture_copy {s : State} (r : RouteNo) (samples : List Byte) (copy : s.copying = true) :
    s.capture r samples = ({ s with
      scanner := { s.scanner with capturing := false, captureTimer := none }
      head := { s.head with capturing := false } }.enterRing
        (thresholdLine (s.storage (s.route r).shade) samples)).pfReexamine :=
  if_pos (show State.copying _ = true from copy)

/-! ## Line starts (R83 to R85, R92, R93) -/

theorem isKind_iff (x : Route) (k : RouteKind) : x.isKind k = true ↔ x.kind = some k := beq_iff_eq

theorem copying_claimed {s : State} {r : RouteNo} (claimed : s.engines.scanner = some r) :
    s.copying = true ↔ (s.route r).kind = some .copy := by
  unfold State.copying
  rw [claimed]
  exact isKind_iff _ _

theorem scanFree_claimed {s : State} {r : RouteNo} (claimed : s.engines.scanner = some r) :
    s.scanFree = if (s.route r).kind = some .copy then s.head.capacity - (s.head.ready.length + s.head.capturing.toNat)
      else 4 - (s.scanner.coding.toNat + s.scanner.ready.length + s.scanner.capturing.toNat) :=
  if_congr (copying_claimed claimed) rfl rfl

theorem spaced_iff (s : State) :
    s.spaced = true ↔ s.scanner.firstStart = true ∨ ∀ t, s.scanner.lastStart = some t → t + s.scanPeriod ≤ s.now := by
  unfold State.spaced
  cases s.scanner.lastStart <;> simp

/-- A line's mark as its page's last, unless it has one: by the trail's end, or by the maximum (R92, R93). -/
theorem marked_eq (u : State) (trailEnd full : Prop) [Decidable trailEnd] [Decidable full] :
    (if trailEnd then u.setScanner (u.scanner.markLast .normal)
      else if full then u.setScanner (u.scanner.markLast .cutShort) else u)
    = u.setScanner { u.scanner with
        mark := if u.scanner.mark ≠ .none then u.scanner.mark
          else if trailEnd then .normal else if full then .cutShort else .none
        lastLine := u.scanner.lastLine || decide (trailEnd ∨ full) } := by
  have unmarked : (if u.scanner.mark ≠ .none then u.scanner.mark else .none) = u.scanner.mark := by
    by_cases fresh : u.scanner.mark = .none <;> simp [fresh]
  by_cases ends : trailEnd
  · simp [ends, Scanner.markLast]
  · by_cases cut : full
    · simp [ends, cut, Scanner.markLast]
    · simp only [ends, cut, if_false, or_self, decide_false, Bool.or_false, unmarked]
      rfl

/-- The trail's count at a line start (R92). -/
def Scanner.counted (c : Scanner) : Scanner :=
  { c with trailLeft := if c.phase = .trail then c.trailLeft - 1 else c.trailLeft }

theorem lineStart_claims {s : State} {r : RouteNo} (room : 0 < s.scanFree) (spaced : s.spaced = true) :
    s.lineStart r
      = let u := (s.setScanner s.scanner.counted).claimSlot
        let v := u.setScanner { u.scanner with
          mark := if u.scanner.mark ≠ .none then u.scanner.mark
            else if s.scanner.phase = .trail ∧ s.scanner.counted.trailLeft = 0 then .normal
            else if 0 < (s.route r).maxLines ∧ u.scanner.captured = (s.route r).maxLines then .cutShort else .none
          lastLine := u.scanner.lastLine || decide ((s.scanner.phase = .trail ∧ s.scanner.counted.trailLeft = 0)
            ∨ (0 < (s.route r).maxLines ∧ u.scanner.captured = (s.route r).maxLines)) }
        if (v.route r).kind = some .scanStore ∧ v.scanner.pageAsked = false then
          (v.setScanner { v.scanner with pageAsked := true }).askOpen r .scanStore
        else v := by
  dsimp only
  rw [← marked_eq]
  unfold State.lineStart
  simp only [beq_iff_eq, Bool.and_eq_true, isKind_iff]
  exact if_pos ⟨room, spaced⟩

/-- A line start that finds no slot, or comes too soon (R85). -/
theorem lineStart_skips {s : State} {r : RouteNo} (late : ¬(0 < s.scanFree ∧ s.spaced = true)) :
    s.lineStart r
      = let u := (s.setScanner s.scanner.counted).skipLine r
        if s.scanner.phase = .trail ∧ s.scanner.counted.trailLeft = 0 then u.setScanner (u.scanner.markLast .normal)
        else u := by
  unfold State.lineStart
  simp only [beq_iff_eq, Bool.and_eq_true]
  exact if_neg late

theorem queueReport_setScanner (s : State) (c : Scanner) (x : Report) (plain : x.isError = false) :
    (s.setScanner c).queueReport x = (s.queueReport x).setScanner c := by
  unfold State.queueReport
  simp only [plain]
  change (if (!s.dozing) = true then _ else _) = _
  by_cases awake : (!s.dozing) = true
  · rw [if_pos awake, if_pos awake]
    rfl
  · rw [if_neg awake, if_neg awake]
    rfl

theorem skipLine_eq (s : State) (c : Scanner) (r : RouteNo) :
    let k := min ((s.route r).skipped + 1) 65535
    (s.setScanner c).skipLine r
      = ((s.setRoute r { s.route r with skipped := k }).queueReport (.skip r k)).setScanner
        { c with firstStart := false } :=
  queueReport_setScanner (s.setRoute r { s.route r with skipped := min ((s.route r).skipped + 1) 65535 })
    { c with firstStart := false } _ rfl

theorem lineStart_spec (s : State) (r : RouteNo) (claimed : s.engines.scanner = some r) :
    let x := s.route r
    let c := s.scanner
    let left := if c.phase = .trail then c.trailLeft - 1 else c.trailLeft
    let trailEnd := c.phase = .trail ∧ left = 0
    let free := if x.kind = some .copy then s.head.capacity - (s.head.ready.length + s.head.capturing.toNat)
      else 4 - (c.coding.toNat + c.ready.length + c.capturing.toNat)
    let spaced := c.firstStart = true ∨ ∀ t, c.lastStart = some t → t + s.scanPeriod ≤ s.now
    let n := min (c.captured + 1) 65535
    let mark : LastMark :=
      if c.mark ≠ .none then c.mark
      else if trailEnd then .normal
      else if 0 < x.maxLines ∧ n = x.maxLines then .cutShort
      else .none
    let claimed : Scanner :=
      { c with
        trailLeft := left, captureTimer := some (s.now + 864), lastStart := some s.now
        firstStart := false, captured := n, capturing := true, mark := mark
        lastLine := c.lastLine || decide (trailEnd ∨ (0 < x.maxLines ∧ n = x.maxLines)) }
    (0 < free → spaced →
      (x.kind = some .copy →
        s.lineStart r = { s.setRoute r { x with linesDone := min (x.linesDone + 1) 65535 } with
          scanner := claimed
          head :=
            { s.head with
              capturing := true, nextSlot := (s.head.nextSlot + 1) % s.head.capacity } })
      ∧ (x.kind ≠ some .copy →
        let u := s.setScanner { claimed with nextSlot := (c.nextSlot + 1) % 4 }
        (x.kind ≠ some .scanStore ∨ c.pageAsked = true → s.lineStart r = u)
        ∧ (x.kind = some .scanStore → c.pageAsked = false →
          s.lineStart r
            = (u.setScanner { u.scanner with pageAsked := true }).askOpen r .scanStore)))
    ∧ ((free = 0 ∨ ¬spaced) →
      let k := min (x.skipped + 1) 65535
      s.lineStart r = ((s.setRoute r { x with skipped := k }).queueReport (.skip r k)).setScanner
        { c with
          trailLeft := left, firstStart := false
          mark := if c.mark = .none ∧ trailEnd then .normal else c.mark
          lastLine := c.lastLine || decide trailEnd }) := by
  intro x c left trailEnd free spaced n mark claims
  have free_eq : s.scanFree = free := scanFree_claimed claimed
  refine ⟨fun room apart => ?_, fun late => ?_⟩
  · have start := lineStart_claims (r := r) (free_eq ▸ room) ((spaced_iff s).2 apart)
    refine ⟨fun copy => ?_, fun scan => ?_⟩
    · have slot : (s.setScanner s.scanner.counted).claimSlot
          = { s.setRoute r { x with linesDone := min (x.linesDone + 1) 65535 } with
              scanner := { c with
                trailLeft := left, captureTimer := some (s.now + 864), lastStart := some s.now
                firstStart := false, captured := n, capturing := true }
              head := { s.head with
                capturing := true, nextSlot := (s.head.nextSlot + 1) % s.head.capacity } } := by
        unfold State.claimSlot
        rw [show (s.setScanner s.scanner.counted).engines.scanner = some r from claimed]
        exact if_pos ((copying_claimed claimed).2 copy)
      rw [start, slot]
      refine if_neg fun asks => ?_
      have kind : ((s.setRoute r { x with linesDone := min (x.linesDone + 1) 65535 }).route r).kind
          = some .scanStore := asks.1
      rw [route_setRoute_same] at kind
      exact absurd (kind.symm.trans copy) (by decide)
    · intro u
      have slot : (s.setScanner s.scanner.counted).claimSlot
          = s.setScanner { c with
              trailLeft := left, captureTimer := some (s.now + 864), lastStart := some s.now
              firstStart := false, captured := n, capturing := true, nextSlot := (c.nextSlot + 1) % 4 } := by
        unfold State.claimSlot
        rw [show (s.setScanner s.scanner.counted).engines.scanner = some r from claimed]
        exact if_neg fun copy => scan ((copying_claimed claimed).1 copy)
      rw [start, slot]
      refine ⟨fun asked => if_neg fun asks => ?_, fun store fresh => if_pos ⟨store, fresh⟩⟩
      rcases asked with other | asked
      · exact other asks.1
      · exact absurd (asked.symm.trans asks.2) (by decide)
  · intro k
    rw [lineStart_skips (s := s) (r := r) fun ⟨room, apart⟩ => late.elim (fun none_ => by omega)
      fun soon => soon ((spaced_iff s).1 apart), skipLine_eq,
      show s.scanner.counted = { c with trailLeft := left } from rfl]
    by_cases ends : trailEnd
    · refine (if_pos ends).trans (congrArg (State.setScanner _) ?_)
      by_cases fresh : c.mark = .none <;> simp [Scanner.markLast, ends, fresh]
    · refine (if_neg ends).trans (congrArg (State.setScanner _) ?_)
      simp [ends]

/-- Settles O49: line starts by the slot and the scan period, readouts by their samples and their ring. -/
theorem capturesFillTheirRing : Obligations.CapturesFillTheirRing := by
  unfold Obligations.CapturesFillTheirRing
  refine ⟨lineStart_spec, dot_thresholdLine, fun samples s r d claimed timed => ?_, enterRing_spec⟩
  intro dots
  rw [exec_captureComplete samples claimed timed]
  have held (b : Bool) (is : (if s.copying then s.head.capturing else s.scanner.capturing) = b) :
      s.capturing = b := is
  refine ⟨fun scan capturing => ?_, fun copy capturing => ?_, fun idle => ?_⟩
  · rw [held true (by simp [scan, capturing]), if_pos rfl, capture_scan r samples (by exact scan)]
    rfl
  · rw [held true (by simp [copy, capturing]), if_pos rfl, capture_copy r samples (by exact copy)]
    rfl
  · rw [held false idle]
    rfl

end Sys2Proof.Machine
end

section
/-! PROOF. O50: the document sensors and the passage of a sheet (R77, R87, R90 to R96). -/

namespace Sys2Proof.Machine

/-! ## The feed's phases (R89 to R92, R96) -/

theorem beginFeed_spec (s : State) (r : RouteNo) :
    let fed := s.setScanner
      { s.scanner with
        phase := .feedIn, shortLead := false, captured := 0, mark := .none, lastLine := false
        sheetOut := false, pageAsked := false }
    (s.pins.docEdge = true → s.beginFeed r = fed.startLead r)
    ∧ (s.pins.docEdge = false →
      ((s.route r).jam = 0 → s.beginFeed r = fed.jam r)
      ∧ ((s.route r).jam ≠ 0 → s.beginFeed r = fed.restart .sf (.move .feedIn) ((s.route r).jam - 1))) := by
  intro fed
  have out (level : s.pins.docEdge = false) : ¬fed.pins.docEdge = true := fun on =>
    Bool.noConfusion (level.symm.trans on)
  exact ⟨fun on => if_pos on, fun level => ⟨fun zero => (if_neg (out level)).trans (if_pos zero),
    fun steps => (if_neg (out level)).trans (if_neg steps)⟩⟩

theorem startLead_spec (s : State) (r : RouteNo) :
    let led := s.setScanner { s.scanner with phase := .lead, shortLead := false, trailLeft := (s.route r).trail }
    (s.sf.state = .moving →
      s.startLead r = { led with sf := { s.sf with motion := .lines, left := (s.route r).lead, overrun := false } })
    ∧ (s.sf.state ≠ .moving →
      ((s.route r).lead = 0 → s.startLead r = led.scanLineEnd r)
      ∧ ((s.route r).lead ≠ 0 → s.startLead r = led.restart .sf .lines ((s.route r).lead - 1))) :=
  ⟨fun moving => if_pos moving, fun still => ⟨fun zero => (if_neg still).trans (if_pos zero),
    fun steps => (if_neg still).trans (if_neg steps)⟩⟩

theorem feedInDone_spec (s : State) (r : RouteNo) :
    ((s.route r).halt = .finish ∧ s.sf.taken < (s.route r).jam → s.feedInDone r = s.haltRoute r)
    ∧ ((s.route r).halt ≠ .finish ∨ (s.route r).jam ≤ s.sf.taken → s.feedInDone r = s.jam r) :=
  ⟨fun short => if_pos short, fun full => if_neg fun ⟨finish, steps⟩ =>
    full.elim (fun other => other finish) fun all => absurd steps (Nat.not_lt.2 all)⟩

theorem edgeOn_spec (s : State) (r : RouteNo) :
    (s.scanner.phase = .feedIn →
      ((s.route r).halt ≠ .finish → s.edgeOn r = s.startLead r)
      ∧ ((s.route r).halt = .finish →
        s.edgeOn r = { s with
          scanner := { s.scanner with phase := .eject, lastLine := true }
          sf := { s.sf with motion := .move .eject, left := (s.route r).eject, overrun := false } }))
    ∧ (s.scanner.phase ≠ .feedIn → s.edgeOn r = s) :=
  ⟨fun feed => ⟨fun goes => (if_pos feed).trans (if_neg goes), fun finish => (if_pos feed).trans (if_pos finish)⟩,
    fun other => if_neg other⟩

theorem edgeOff_capture {s : State} (r : RouteNo) (capture : s.scanner.phase = .capture)
    (more : s.scanner.lastLine = false) (goes : (s.route r).halt ≠ .finish) :
    ((s.route r).trail ≠ 0 →
      s.edgeOff r = s.setScanner { s.scanner with phase := .trail, trailLeft := (s.route r).trail })
    ∧ ((s.route r).trail = 0 →
      let u := s.setScanner
        { s.scanner with
          phase := .trail, trailLeft := 0, lastLine := true
          mark := if s.scanner.mark = .none then .normal else s.scanner.mark }
      s.edgeOff r = if s.sf.state = .waitRoom then u.beginEject r else u) := by
  unfold State.edgeOff
  rw [capture]
  dsimp only
  rw [if_neg (by simp [more, goes])]
  refine ⟨fun trail => if_neg trail, fun zero => ?_⟩
  refine (if_pos zero).trans ?_
  rw [zero]
  rfl

theorem edgeOff_last {s : State} (r : RouteNo) (capture : s.scanner.phase = .capture)
    (last : s.scanner.lastLine = true ∨ (s.route r).halt = .finish) : s.edgeOff r = s := by
  unfold State.edgeOff
  rw [capture]
  exact if_pos (by simpa using last)

theorem edgeOff_lead {s : State} (r : RouteNo) (lead : s.scanner.phase = .lead) :
    s.edgeOff r = s.setScanner { s.scanner with shortLead := true } := by
  unfold State.edgeOff
  rw [lead]

theorem edgeOff_other {s : State} (r : RouteNo) (lead : s.scanner.phase ≠ .lead)
    (capture : s.scanner.phase ≠ .capture) : s.edgeOff r = s := by
  unfold State.edgeOff
  split
  · exact absurd ‹_› lead
  · exact absurd ‹_› capture
  · rfl

/-- No wake is due where the level stands (R149). -/
theorem resume_same (s : State) : s.resume s.power.level = s := by
  by_cases run : s.power.level = some .run
  · rw [run]
    exact resume_run s
  · exact if_neg (by simp [run])

/-! ## The sensors' events (R87, R148) -/

theorem exec_docEdgeChange {s : State} {level : Bool} (changes : s.pins.docEdge ≠ level) :
    exec (.docEdgeChange level) s = .next (s.docEdgeTo level) := congrArg Host.Outcome.next (if_neg changes)

theorem exec_docInChange {s : State} {level : Bool} (changes : s.pins.docIn ≠ level) :
    exec (.docInChange level) s = .next ((s.docInTo level).resume s.power.level) :=
  congrArg Host.Outcome.next (if_neg changes)

theorem docEdgeTo_live {s : State} {r : RouteNo} (level : Bool) (sensing : s.sensing = true)
    (claimed : s.engines.scanner = some r) (live : (s.route r).live = true) :
    let u := { s with pins := { s.pins with docEdge := level } }.queueReport (.sensor .docEdge level)
    s.docEdgeTo level = (if level then u.edgeOn r else u.edgeOff r).react := by
  intro u
  obtain ⟨q, eq⟩ := queueReport_plain { s with pins := { s.pins with docEdge := level } } (.sensor .docEdge level) rfl
  have u_claimed : u.engines.scanner = some r := by rw [show u = _ from eq]; exact claimed
  have u_live : (u.route r).live = true := by rw [show u = _ from eq]; exact live
  unfold State.docEdgeTo
  refine (if_pos sensing).trans (congrArg State.react ?_)
  rw [show State.queueReport _ _ = u from rfl, u_claimed]
  exact if_pos u_live

theorem docEdgeTo_free {s : State} (level : Bool) (sensing : s.sensing = true) (free : s.engines.scanner = none) :
    s.docEdgeTo level
      = ({ s with pins := { s.pins with docEdge := level } }.queueReport (.sensor .docEdge level)).react := by
  obtain ⟨q, eq⟩ := queueReport_plain { s with pins := { s.pins with docEdge := level } } (.sensor .docEdge level) rfl
  unfold State.docEdgeTo
  refine (if_pos sensing).trans (congrArg State.react ?_)
  rw [eq]
  dsimp only
  rw [free]

theorem docEdge_blind {s : State} (blind : s.sensing = false) (level : Bool) :
    exec (.docEdgeChange level) s = .next { s with pins := { s.pins with docEdge := level } } := by
  by_cases same : s.pins.docEdge = level
  · subst same
    exact congrArg Host.Outcome.next (if_pos rfl)
  · rw [exec_docEdgeChange same]
    exact congrArg Host.Outcome.next (if_neg fun sees => Bool.noConfusion (blind.symm.trans sees))

theorem docIn_blind {s : State} (blind : s.sensing = false) (level : Bool) :
    exec (.docInChange level) s = .next { s with pins := { s.pins with docIn := level } } := by
  by_cases same : s.pins.docIn = level
  · subst same
    exact congrArg Host.Outcome.next (if_pos rfl)
  · rw [exec_docInChange same, show s.docInTo level = { s with pins := { s.pins with docIn := level } } from
      if_neg fun sees => Bool.noConfusion (blind.symm.trans sees)]
    exact congrArg Host.Outcome.next (resume_same { s with pins := { s.pins with docIn := level } })

theorem docIn_seen {s : State} (level : Bool) (sensing : s.sensing = true) :
    s.docInTo level
      = (if level then ({ s with pins := { s.pins with docIn := level } }.queueReport
            (.sensor .docIn level)).takeWake .docIn
          else { s with pins := { s.pins with docIn := level } }.queueReport (.sensor .docIn level)).react :=
  if_pos sensing

/-! ## The end of a sheet (R77, R95) -/

theorem sheetPass_spec (s : State) (r : RouteNo) (claimed : s.engines.scanner = some r) :
    let x := s.route r
    let ended := x.kind = some .scanStore ∧ x.live = true ∧ s.scanner.sheetOut = true ∧ x.page = none
      ∧ s.coder.writer.opening = false
    let told := if s.scanner.pageAsked then s.queueReport (.pageDone r x.lastPage x.linesDone) else s
    (¬ended → s.sheetPass = s)
    ∧ (ended → x.halt = .finish → s.sheetPass = s.haltRoute r)
    ∧ (ended → x.halt ≠ .finish →
      (x.continues = false ∨ s.pins.docIn = false → s.sheetPass = s.completeRoute r false none)
      ∧ (x.continues = true → s.pins.docIn = true →
        s.sheetPass = (told.setRoute r
          { x with
            linesDone := 0, badLines := 0, consecBad := 0, lastLineEnd := 0, badReported := false
            lastCounts := some (x.lastCounts.getD (x.linesDone, x.badLines)), skipped := 0 }).beginFeed r)) := by
  intro x ended told
  have ended_iff : (x.isKind .scanStore && x.live && s.scanner.sheetOut && x.page.isNone
      && !s.coder.writer.opening) = true ↔ ended := by
    simp [ended, isKind_iff, and_assoc]
  unfold State.sheetPass
  rw [claimed]
  refine ⟨fun no => if_neg fun h => no (ended_iff.1 h), fun yes finish => (if_pos (ended_iff.2 yes)).trans (if_pos finish),
    fun yes goes => ⟨fun last => ?_, fun more doc => ?_⟩⟩
  · refine (if_pos (ended_iff.2 yes)).trans ((if_neg goes).trans (if_neg fun ⟨more, doc⟩ => ?_))
    rcases last with last | last
    · exact Bool.noConfusion (last.symm.trans more)
    · exact Bool.noConfusion (last.symm.trans doc)
  · refine (if_pos (ended_iff.2 yes)).trans ((if_neg goes).trans ((if_pos ⟨more, doc⟩).trans ?_))
    have record : told.route r = x := by
      unfold told
      split
      · obtain ⟨q, eq⟩ := queueReport_plain s (.pageDone r x.lastPage x.linesDone) rfl
        rw [eq]
        rfl
      · rfl
    change (told.setRoute r { (told.route r).nextPage with skipped := 0 }).beginFeed r = _
    rw [record]
    rfl

/-- Settles O50: the feed's phases, the end of a sheet and the events of the two sensors. -/
theorem documentSensorsAreReported : Obligations.DocumentSensorsAreReported := by
  unfold Obligations.DocumentSensorsAreReported
  refine ⟨fun s r => ?_, sheetPass_spec, fun s => ⟨fun sensing out => ?_, fun sensing on => ?_,
    fun sensing free level changes => ?_, fun run ready out r claimed live feed goes => ?_,
    fun blind level => ⟨docIn_blind blind level, docEdge_blind blind level⟩⟩⟩
  · intro x c fed led
    obtain ⟨atEdge, clear⟩ := beginFeed_spec s r
    obtain ⟨moving, still⟩ := startLead_spec s r
    obtain ⟨short, full⟩ := feedInDone_spec s r
    obtain ⟨feed, other⟩ := edgeOn_spec s r
    refine ⟨atEdge, clear, moving, still, rfl, short, full, feed, other, edgeOff_lead r, edgeOff_capture r,
      edgeOff_last r, edgeOff_other r, fun sensing claimed live => ⟨fun out => ?_, fun on => ?_⟩⟩
    · rw [exec_docEdgeChange (by simp [out]), docEdgeTo_live true sensing claimed live]
      rfl
    · rw [exec_docEdgeChange (by simp [on]), docEdgeTo_live false sensing claimed live]
      rfl
  · rw [exec_docInChange (by simp [out]), docIn_seen true sensing]
    rfl
  · rw [exec_docInChange (by simp [on]), docIn_seen false sensing]
    rfl
  · rw [exec_docEdgeChange changes, docEdgeTo_free level sensing free]
  · have sensing : s.sensing = true := by simp [State.sensing, run, ready]
    rw [exec_docEdgeChange (by simp [out]), docEdgeTo_live true sensing claimed live,
      queueReport_run _ _ (by exact run)]
    refine congrArg (fun t => Host.Outcome.next (State.react t)) ?_
    exact ((edgeOn_spec (State.putReport { s with pins := { s.pins with docEdge := true } } (.sensor .docEdge true)
      false) r).1 feed).1 goes

end Sys2Proof.Machine
end

section
/-! PROOF. O51: the arming of routes, and the timers of the lamp, the supply and the converter (R66, R88, R104 to
R106). -/

namespace Sys2Proof.Machine

/-! ## Arming (R66) -/

theorem armed_iff (s : State) (x : Route) :
    s.armed x = true ↔
      (x.kind = some .scanStore ∧ s.pins.docIn = true ∧ s.scanner.lamp = .warm)
      ∨ (x.kind = some .copy ∧ s.pins.docIn = true ∧ s.scanner.lamp = .warm ∧ s.head.supply = .settled)
      ∨ (x.kind = some .printPage ∧ s.head.supply = .settled) := by
  unfold State.armed
  cases kind : x.kind with
  | none => simp
  | some k => cases k <;> simp [State.headSettled, and_assoc]

theorem armRoute_waits {s : State} {r : RouteNo}
    (waits : (s.route r).state ≠ .armed ∨ (s.route r).live = false ∨ s.armed (s.route r) = false) :
    s.armRoute r = s := by
  refine if_neg fun ⟨armed, live, ready⟩ => ?_
  rcases waits with other | dead | unready
  · exact other armed
  · exact Bool.noConfusion (dead.symm.trans live)
  · exact Bool.noConfusion (unready.symm.trans ready)

theorem armRoute_goes {s : State} {r : RouteNo} (armed : (s.route r).state = .armed)
    (live : (s.route r).live = true) (ready : s.armed (s.route r) = true) :
    let u := s.routeTo r .running
    let placed : State :=
      { u with pf := { u.pf with state := if u.headHot then .waitCool else .waitData, motion := .lines } }
    ((s.route r).kind = some .scanStore → s.armRoute r = u.beginFeed r)
    ∧ ((s.route r).kind = some .copy → s.armRoute r = placed.beginFeed r)
    ∧ ∀ p, (s.route r).kind = some .printPage → (s.route r).page = some p →
      s.armRoute r = { placed with printDec :=
        { PrintDecoder.idleDecoder with
          slot := some r
          fetch :=
            { active := true, block := (u.page p).head, offset := 0
              left := ((u.page p).bitLength + 15) / 16, queue := [] }
          bitLength := (u.page p).bitLength } } := by
  intro u placed
  refine ⟨fun kind => ?_, fun kind => ?_, fun p kind page => ?_⟩ <;>
    refine (if_pos ⟨armed, live, ready⟩).trans ?_
  · rw [kind]
  · rw [kind]
    rfl
  · rw [kind, page]
    rfl

/-- Settles O51: the arming condition, what an ARMED route's start does, and the three timers' expiries. -/
theorem lampSupplyAndConverterTimers : Obligations.LampSupplyAndConverterTimers := by
  unfold Obligations.LampSupplyAndConverterTimers
  refine ⟨armed_iff, fun s r => ⟨armRoute_waits, armRoute_goes, rfl⟩, fun s => ⟨fun d timed => ?_, fun d timed => ?_,
    fun stopped => ?_, fun stopped => ?_⟩, fun value s d timed => ⟨fun theta => ?_, fun volts => ?_⟩⟩
  · change execLampWarm s = _
    unfold execLampWarm
    rw [timed]
    rfl
  · change execHeadSettled s = _
    unfold execHeadSettled
    rw [timed]
    rfl
  · change execLampWarm s = _
    unfold execLampWarm
    rw [stopped]
  · change execHeadSettled s = _
    unfold execHeadSettled
    rw [stopped]
  · change execConverterSample value s = _
    unfold execConverterSample
    rw [timed]
    exact congrArg (fun t => Host.Outcome.next (State.react t)) (if_pos theta)
  · change execConverterSample value s = _
    unfold execConverterSample
    rw [timed]
    exact congrArg (fun t => Host.Outcome.next (State.react t))
      (if_neg fun theta => Bool.noConfusion (volts.symm.trans theta))

end Sys2Proof.Machine
end

section
/-! PROOF. O52: PF takes a line, and its burn runs phase by phase (R107 to R112, R118). -/

namespace Sys2Proof.Machine

/-! ## Taking a line (R107, R112, R119, R121) -/

theorem burnOf_eq (now : Nat) (r : RouteNo) (p : Plan) :
    burnOf now r p =
      { stage := if p.phases = [] then .complete else .loading
        phases := p.phases, gap := p.gap
        timer := if p.phases = [] then none else some (now + p.load), slot := r } := by
  cases phases : p.phases <;> simp [burnOf, phases]

theorem takeLine_eq {s : State} (r : RouteNo) {l : PlannedLine} {rest : List PlannedLine}
    (ready : s.head.ready = l :: rest) :
    let taken : State :=
      { s with
        power := { s.power with watermark := s.setup.watermark }
        head :=
          { s.head with
            ready := rest, current := some l
            burn := some
              { stage := if l.plan.phases = [] then .complete else .loading
                phases := l.plan.phases, gap := l.plan.gap
                timer := if l.plan.phases = [] then none else some (s.now + l.plan.load), slot := r } } }
    s.takeLine r
      = if s.power.level = some .run ∧ rest.length ≤ s.setup.watermark then taken.withdrawOrdinary else taken := by
  intro taken
  unfold State.takeLine
  rw [ready]
  dsimp only
  rw [burnOf_eq]
  rfl

theorem copying_withdrawOrdinary (s : State) : s.withdrawOrdinary.copying = s.copying := by
  unfold State.withdrawOrdinary State.storeWithdraw State.startExit
  split
  · dsimp only
    split <;> split <;> rfl
  · rfl

theorem copying_takeLine (s : State) (r : RouteNo) : (s.takeLine r).copying = s.copying := by
  cases ready : s.head.ready with
  | nil =>
    unfold State.takeLine
    rw [ready]
  | cons l rest =>
    rw [takeLine_eq r ready]
    split
    · exact copying_withdrawOrdinary _
    · rfl

theorem pfTake_eq (s : State) (r : RouteNo) :
    let u := s.takeLine r
    let first := u.splOf .pf - 1
    let moved := if u.pf.state = .moving then u.stepEvent .pf first else u.restart .pf .lines first
    s.pfTake r = if s.copying then moved.roomRaised else moved := by
  intro u first moved
  have copying : moved.copying = s.copying := by
    refine Eq.trans ?_ (copying_takeLine s r)
    unfold moved
    split <;> rfl
  rw [← copying]
  rfl

/-! ## The line's last step (R110, R118) -/

theorem burnDone_iff (h : Head) :
    h.burnDone = true ↔ h.current = none ∨ ∀ b, h.burn = some b → b.stage = .complete := by
  unfold Head.burnDone
  cases h.current <;> cases h.burn <;> simp

theorem pfLineExpiry_runs {s : State} (r : RouteNo) (burns : s.head.burnDone = false) :
    let u := { s with pf := { s.pf with stretched := true, timer := none } }
    (s.pf.index ≤ (s.rampInUse .pf).z → s.pfLineExpiry r = u)
    ∧ ∀ l, (s.rampInUse .pf).z < s.pf.index → s.head.current = some l →
      s.pfLineExpiry r = u.queueReport (.stretch r s.pf.index l.plan.burn) := by
  intro u
  have runs : ¬s.head.burnDone = true := by simp [burns]
  refine ⟨fun low => (if_neg runs).trans (if_neg ?_), fun l high current => (if_neg runs).trans ((if_pos ?_).trans ?_)⟩
  · have rests : s.mayRest .pf = true := decide_eq_true low
    rw [rests]
    decide
  · have moves : s.mayRest .pf = false := decide_eq_false (Nat.not_le.2 high)
    rw [moves]
    rfl
  · rw [current]
    rfl

theorem burnComplete_stretched {s : State} {r : RouteNo} (claimed : s.engines.printer = some r)
    (stretched : s.pf.stretched = true) (moving : s.pf.state = .moving) : s.burnComplete = s.pfLineEnd r := by
  unfold State.burnComplete
  rw [claimed]
  exact if_pos (by simp [stretched, moving])

theorem burnComplete_still {s : State}
    (still : s.engines.printer = none ∨ s.pf.stretched = false ∨ s.pf.state ≠ .moving) : s.burnComplete = s := by
  unfold State.burnComplete
  split
  · rename_i r claimed
    refine if_neg fun waits => ?_
    obtain ⟨stretched, moving⟩ : s.pf.stretched = true ∧ s.pf.state = .moving := by simpa using waits
    rcases still with free | short | other
    · exact absurd (free.symm.trans claimed) (by simp)
    · exact Bool.noConfusion (short.symm.trans stretched)
    · exact other moving
  · rfl

/-! ## The strobe timer (R108, R109) -/

theorem exec_strobe_burn {s : State} {b : Burn} {d : Nat} (burn : s.head.burn = some b) (timer : b.timer = some d)
    (alone : s.head.cutOff = []) :
    exec .strobeTimerExpiry s = .next ((s.reach d).strobeExpiry b).react := by
  change execStrobeTimerExpiry s = _
  unfold execStrobeTimerExpiry
  have first : s.head.firstCut = none := by
    unfold Head.firstCut
    rw [alone]
    rfl
  have running : s.head.running = some (b, d) := by
    unfold Head.running
    rw [burn]
    dsimp only
    rw [timer]
    rfl
  rw [first, running]

theorem exec_strobe_cut {s : State} {c : CutPhase} (alone : s.head.cutOff = [c])
    (earlier : ∀ b d, s.head.burn = some b → b.timer = some d → c.ends ≤ d) :
    exec .strobeTimerExpiry s = .next ((s.reach c.ends).cutNext 0 c).react := by
  change execStrobeTimerExpiry s = _
  unfold execStrobeTimerExpiry
  have first : s.head.firstCut = some (0, c) := by
    unfold Head.firstCut
    rw [alone]
    rfl
  rw [first]
  cases running : s.head.running with
  | none => rfl
  | some bd =>
    obtain ⟨b, d⟩ := bd
    obtain ⟨burn, timer⟩ : s.head.burn = some b ∧ b.timer = some d := by
      unfold Head.running at running
      split at running
      · rename_i b' burn
        obtain ⟨d', timer, same⟩ := Option.map_eq_some_iff.1 running
        obtain ⟨rfl, rfl⟩ := Prod.mk.inj same
        exact ⟨burn, timer⟩
      · exact absurd running (by simp)
    exact if_pos (earlier b d burn timer)

/-- What the burn's part of an expiry leaves, its stage not complete (R108). -/
theorem strobeExpiry_going {s t : State} {b : Burn} (next : s.strobeNext b = t)
    (going : ∀ c, t.head.burn = some c → c.stage ≠ .complete) : s.strobeExpiry b = t := by
  unfold State.strobeExpiry
  rw [next]
  dsimp only
  split
  · exact if_neg (going _ ‹_›)
  · rfl

theorem strobeExpiry_load {s : State} {b : Burn} {p : Phase} {rest : List Phase} (loading : b.stage = .loading)
    (phases : b.phases = p :: rest) :
    (s.headReady = true →
      s.strobeExpiry b = { s with head := { s.head with
        burn := some { b with stage := .firing, timer := some (s.now + p.width) } } })
    ∧ (s.headReady = false → s.strobeExpiry b = { s with head := { s.head with burn := none } }) := by
  have next : s.strobeNext b = s.nextPhase b := by
    unfold State.strobeNext
    rw [loading]
  refine ⟨fun ready => strobeExpiry_going (next.trans ?_) ?_, fun cold => strobeExpiry_going (next.trans ?_) ?_⟩
  · unfold State.nextPhase
    rw [phases]
    exact if_pos ready
  · rintro c ⟨⟩
    simp
  · unfold State.nextPhase
    rw [phases]
    exact if_neg (by simp [cold])
  · simp

theorem strobeExpiry_width {s : State} {b : Burn} {p : Phase} {rest : List Phase} (firing : b.stage = .firing)
    (phases : b.phases = p :: rest) :
    s.strobeExpiry b = { (if p.overBudget then s.countOver b.slot else s) with head := { s.head with
      burn := some { b with stage := .gap, timer := some (s.now + b.gap) } } } := by
  refine strobeExpiry_going ?_ ?_
  · unfold State.strobeNext
    rw [firing]
    dsimp only
    rw [phases]
    cases lone : p.overBudget
    · simp only [lone, Bool.false_eq_true, if_false]
    · simp only [lone, if_true]
      rfl
  · rintro c ⟨⟩
    simp

theorem strobeExpiry_gap {s : State} {b : Burn} {p : Phase} (gap : b.stage = .gap) :
    (b.phases = [p] →
      s.strobeExpiry b = { s with head := { s.head with
        burn := some { b with stage := .complete, phases := [], timer := none } } }.burnComplete)
    ∧ ∀ q rest, b.phases = p :: q :: rest → s.headReady = true →
      s.strobeExpiry b = { s with head := { s.head with
        burn := some { b with stage := .firing, phases := q :: rest, timer := some (s.now + q.width) } } } := by
  have next : s.strobeNext b = s.nextPhase { b with phases := b.phases.drop 1 } := by
    unfold State.strobeNext
    rw [gap]
  refine ⟨fun phases => ?_, fun q rest phases ready => strobeExpiry_going (next.trans ?_) ?_⟩
  · unfold State.strobeExpiry
    rw [next, phases]
    rfl
  · rw [phases]
    exact if_pos ready
  · rintro c ⟨⟩
    simp

theorem cutNext_spec (s : State) (c : CutPhase) (alone : s.head.cutOff = [c]) :
    (c.driven = true → s.cutNext 0 c =
      { (match c.slot, c.overBudget with
          | some r, true => s.countOver r
          | _, _ => s) with
        head := { s.head with cutOff := [{ c with driven := false, ends := s.now + c.gap }] } })
    ∧ (c.driven = false → s.cutNext 0 c = { s with head := { s.head with cutOff := [] } }) := by
  refine ⟨fun driven => (if_pos driven).trans ?_, fun gap => (if_neg (by simp [gap])).trans ?_⟩
  · cases c.slot <;> cases c.overBudget <;> simp [alone, State.countOver]
  · rw [alone]
    rfl

/-! ## The strobe lines (R108, R109) -/

theorem mem_strobes (h : Head) (g : Nat) :
    g ∈ h.strobes ↔
      (∃ (b : Burn) (p : Phase) (rest : List Phase), h.burn = some b ∧ b.stage = .firing
        ∧ b.phases = p :: rest ∧ g ∈ p.groups)
      ∨ ∃ c ∈ h.cutOff, c.driven = true ∧ g ∈ c.groups := by
  unfold Head.strobes
  rw [List.mem_append]
  refine or_congr ?_ (by simp [and_assoc])
  cases h.burn with
  | none => simp
  | some b =>
    by_cases firing : b.stage = .firing
    · cases phases : b.phases <;> simp [firing, phases]
    · simp [firing]

theorem strobes_firing {h : Head} {b : Burn} {p : Phase} {rest : List Phase} (burn : h.burn = some b)
    (firing : b.stage = .firing) (phases : b.phases = p :: rest) (alone : h.cutOff = []) : h.strobes = p.groups := by
  simp [Head.strobes, burn, firing, phases, alone]

theorem strobes_between {h : Head} {b : Burn} (burn : h.burn = some b) (other : b.stage ≠ .firing)
    (alone : h.cutOff = []) : h.strobes = [] := by
  simp [Head.strobes, burn, other, alone]

theorem strobes_none {h : Head} (burn : h.burn = none) (alone : h.cutOff = []) : h.strobes = [] := by
  simp [Head.strobes, burn, alone]

theorem strobes_cutBurn {h : Head} {b : Burn} {d : Nat} (burn : h.burn = some b) (timer : b.timer = some d) (g : Nat) :
    g ∈ h.cutBurn.strobes ↔ g ∈ h.strobes := by
  rw [mem_strobes, mem_strobes]
  simp only [Head.cutBurn, burn, Option.bind_some, List.mem_append, Option.mem_toList]
  cases stage : b.stage <;> cases phases : b.phases <;> simp [Burn.cutPhase, stage, phases, timer, or_comm]

/-- Settles O52: a line is taken, its burn goes on from expiry to expiry, and ends where PF waits for it. -/
theorem burnsRunPhaseByPhase : Obligations.BurnsRunPhaseByPhase := by
  unfold Obligations.BurnsRunPhaseByPhase
  refine ⟨fun s r => ⟨fun l rest => takeLine_eq r, ⟨fun scan => ?_, fun copy => ?_⟩, fun done => if_pos done,
      pfLineExpiry_runs r, burnDone_iff s.head, burnComplete_stretched, burnComplete_still⟩,
    fun s b d burn timer alone => ?_,
    fun h => ⟨mem_strobes h, fun b p rest => strobes_firing, fun b => strobes_between, strobes_none,
      fun b d burn timer => ⟨rfl, strobes_cutBurn burn timer⟩⟩,
    fun s c alone earlier => ?_⟩
  · rw [pfTake_eq, scan]
    rfl
  · rw [pfTake_eq, copy]
    rfl
  · intro now
    rw [exec_strobe_burn burn timer alone]
    refine ⟨fun p rest loading phases => ?_, fun p rest firing phases => ?_, fun p gap phases => ?_,
      fun p q rest gap phases ready => ?_⟩
    · obtain ⟨ready, cold⟩ := strobeExpiry_load (s := s.reach d) loading phases
      exact ⟨fun h => congrArg (fun t => Host.Outcome.next (State.react t)) (ready h),
        fun h => congrArg (fun t => Host.Outcome.next (State.react t)) (cold h)⟩
    · rw [strobeExpiry_width firing phases]
      cases p.overBudget <;> rfl
    · rw [(strobeExpiry_gap (p := p) gap).1 phases]
      rfl
    · rw [(strobeExpiry_gap gap).2 q rest phases (by exact ready)]
      rfl
  · intro now
    rw [exec_strobe_cut alone earlier]
    obtain ⟨driven, gap⟩ := cutNext_spec (s.reach c.ends) c alone
    refine ⟨fun h => ?_, fun h => ?_⟩
    · rw [driven h]
      cases c.slot <;> cases c.overBudget <;> rfl
    · rw [gap h]
      rfl

end Sys2Proof.Machine
end

section
/-! PROOF. O54: steps, moves, run-downs and holds (R90 to R94, R113 to R126). -/

namespace Sys2Proof.Machine

/-! ## A step, a rest, a move (R115, R116, R123, R126) -/

theorem restMotor_eq (s : State) (m : MotorName) (state : MotorState) (motion : Motion) :
    let mo := s.motor m
    let ramp := s.rampInUse m
    s.restMotor m state motion = s.setMotor m
      { mo with
        state := state, motion := motion, timer := none, left := 0, overrun := false, stretched := false
        hold := if 0 < ramp.hold then .hold else .off
        holdTimer := if 0 < ramp.hold then some (s.now + ramp.hold * 10000) else none } := by
  intro mo ramp
  have held : holdAfter s.now (s.rampInUse m)
      = (if 0 < ramp.hold then .hold else .off, if 0 < ramp.hold then some (s.now + ramp.hold * 10000) else none) := by
    unfold holdAfter
    by_cases holds : 0 < (s.rampInUse m).hold <;> simp [holds, ramp]
  unfold State.restMotor
  rw [held]

theorem mayRest_iff (s : State) (m : MotorName) : s.mayRest m = true ↔ (s.motor m).index ≤ (s.rampInUse m).z :=
  decide_eq_true_iff

theorem moveStep_spec (s : State) (m : MotorName) (left : Nat) :
    let mo := s.motor m
    let spent := mo.overrun = true ∨ left = 0
    (¬spent → s.moveStep m left = (s.stepEvent m (left - 1), false))
    ∧ (spent → mo.index ≤ (s.rampInUse m).z → s.moveStep m left = (s.restMotor m .idle .none, true))
    ∧ (spent → (s.rampInUse m).z < mo.index →
      s.moveStep m left = ((s.setMotor m { mo with overrun := true }).stepEvent m 0, false)) := by
  intro mo spent
  have spent_iff : ((s.motor m).overrun || left == 0) = true ↔ spent := by simp [spent, mo]
  refine ⟨fun more => if_neg fun h => more (spent_iff.1 h), fun out low => (if_pos (spent_iff.2 out)).trans ?_,
    fun out high => (if_pos (spent_iff.2 out)).trans ?_⟩
  · exact if_pos ((mayRest_iff s m).2 low)
  · exact if_neg fun rests => absurd ((mayRest_iff s m).1 rests) (Nat.not_le.2 high)

theorem stepEvent_eq (s : State) (m : MotorName) (left : Nat) :
    let mo := s.motor m
    let index := towards mo.index (s.target m left)
    s.stepEvent m left = s.setMotor m
      { mo with
        state := .moving, phase := if mo.back then (mo.phase + 7) % 8 else (mo.phase + 1) % 8
        left := left, index := index, stretched := false
        taken := match mo.motion with
          | .move _ => mo.taken + 1
          | _ => mo.taken
        timer := some (s.now + (s.rampInUse m).periods.getD index 0) } := rfl

/-! ## A step timer's expiry, by the motion (R115, R118, R123, R125) -/

theorem stepExpiry_none {s : State} {m : MotorName} (motion : (s.motor m).motion = .none) : s.stepExpiry m = s := by
  unfold State.stepExpiry
  dsimp only
  rw [motion]

theorem stepExpiry_runDown {s : State} {m : MotorName} (motion : (s.motor m).motion = .runDown) :
    ((s.rampInUse m).z < (s.motor m).index → s.stepExpiry m = s.stepEvent m 0)
    ∧ ((s.motor m).index ≤ (s.rampInUse m).z →
      s.stepExpiry m = s.setMotor m { (s.restMotor m .idle .none).motor m with claim := none, copy := none }) := by
  unfold State.stepExpiry
  dsimp only
  rw [motion]
  refine ⟨fun high => if_neg fun rests => absurd ((mayRest_iff s m).1 rests) (Nat.not_le.2 high),
    fun low => (if_pos ((mayRest_iff s m).2 low)).trans ?_⟩
  rw [restMotor_eq, setMotor_setMotor]

theorem stepExpiry_move {s : State} {m : MotorName} {owner : MoveOwner} (motion : (s.motor m).motion = .move owner) :
    let x := s.moveStep m (s.motor m).left
    s.stepExpiry m = if x.2 then x.1.moveDone m owner else x.1 := by
  unfold State.stepExpiry
  dsimp only
  rw [motion]

theorem stepExpiry_lines {s : State} {m : MotorName} (motion : (s.motor m).motion = .lines) :
    (0 < (s.motor m).left → s.stepExpiry m = s.stepEvent m ((s.motor m).left - 1))
    ∧ ((s.motor m).left = 0 → ∀ r,
      (m = .pf → s.engines.printer = some r → s.stepExpiry m = s.pfLineExpiry r)
      ∧ (m = .sf → s.engines.scanner = some r → s.stepExpiry m = s.scanLineEnd r)) := by
  unfold State.stepExpiry
  dsimp only
  rw [motion]
  refine ⟨fun more => if_pos more, fun last r => ⟨fun pf claimed => ?_, fun sf claimed => ?_⟩⟩
  · subst pf
    refine (if_neg (by omega)).trans ?_
    rw [show s.motorRoute .pf = some r from claimed]
  · subst sf
    refine (if_neg (by omega)).trans ?_
    rw [show s.motorRoute .sf = some r from claimed]

theorem stepExpiry_step {s : State} {m : MotorName} (motion : (s.motor m).motion = .lines)
    (more : 0 < (s.motor m).left) :
    let mo := s.motor m
    let index := towards mo.index (s.target m (mo.left - 1))
    s.stepExpiry m = s.setMotor m
      { mo with
        state := .moving
        phase := if mo.back then (mo.phase + 7) % 8 else (mo.phase + 1) % 8
        left := mo.left - 1, index := index, stretched := false
        timer := some (s.now + (s.rampInUse m).periods.getD index 0) } := by
  intro mo index
  rw [(stepExpiry_lines motion).1 more, stepEvent_eq, motion]

theorem stepExpiry_rest {s : State} {m : MotorName} (motion : (s.motor m).motion = .runDown)
    (low : (s.motor m).index ≤ (s.rampInUse m).z) :
    s.stepExpiry m = s.setMotor m
      { s.motor m with
        state := .idle, motion := .none, timer := none, left := 0, overrun := false
        stretched := false, claim := none, copy := none
        hold := if 0 < (s.rampInUse m).hold then .hold else .off
        holdTimer := if 0 < (s.rampInUse m).hold then
          some (s.now + (s.rampInUse m).hold * 10000) else none } := by
  rw [(stepExpiry_runDown motion).2 low, restMotor_eq, motor_setMotor_same]

theorem exec_stepTimerExpiry {s : State} {m : MotorName} {d : Nat} (timed : (s.motor m).timer = some d) :
    exec (.stepTimerExpiry m) s = .next ({ s with now := max s.now d }.stepExpiry m).react := by
  change execStepTimerExpiry m s = _
  unfold execStepTimerExpiry
  rw [timed]
  rfl

/-! ## SF's line ends, and the room for it (R91 to R94, R121, R122) -/

theorem scanLineEnd_spec (s : State) (r : RouteNo) :
    let c := s.scanner
    let after : State :=
      if c.phase = .lead then
        s.setScanner
          { c with
            phase := if c.shortLead then .trail else .capture
            lastLine := c.shortLead && decide ((s.route r).trail = 0) }
      else s
    let ejects := after.scanner.lastLine = true ∨ (s.route r).halt = .finish
    (ejects → s.scanLineEnd r = after.beginEject r)
    ∧ (¬ejects →
      (0 < s.scanFree ∨ (s.sf.state = .moving ∧ (s.rampInUse .sf).z < s.sf.index) →
        s.scanLineEnd r = after.takeScanLine r)
      ∧ (s.scanFree = 0 → s.sf.state = .moving → s.sf.index ≤ (s.rampInUse .sf).z →
        s.scanLineEnd r = after.restMotor .sf .waitRoom .lines)
      ∧ (s.scanFree = 0 → s.sf.state ≠ .moving →
        s.scanLineEnd r = { after with sf := { s.sf with state := .waitRoom, motion := .lines } })) := by
  intro c after ejects
  have halt : after.route r = s.route r := by unfold after; split <;> rfl
  have free : after.scanFree = s.scanFree := by unfold after; split <;> rfl
  have sf : after.sf = s.sf := by unfold after; split <;> rfl
  have rests : after.mayRest .sf = true ↔ s.sf.index ≤ (s.rampInUse .sf).z := by
    refine Iff.trans ?_ (mayRest_iff s .sf)
    unfold after
    split <;> rfl
  have ejects_iff : (after.scanner.lastLine || (after.route r).halt == .finish) = true ↔ ejects := by
    simp [ejects, halt]
  have start : s.scanLineEnd r
      = if after.scanner.lastLine || (after.route r).halt == .finish then after.beginEject r
        else if 0 < after.scanFree ∨ (after.sf.state = .moving ∧ ¬after.mayRest .sf) then after.takeScanLine r
        else if after.sf.state = .moving then after.restMotor .sf .waitRoom .lines
        else after.setMotor .sf { after.sf with state := .waitRoom, motion := .lines } := rfl
  rw [start, free, sf]
  refine ⟨fun yes => if_pos (ejects_iff.2 yes), fun no => ?_⟩
  rw [if_neg fun h => no (ejects_iff.1 h)]
  refine ⟨fun goes => if_pos ?_, fun full moving low => ?_, fun full still => ?_⟩
  · exact goes.imp_right fun ⟨moving, high⟩ => ⟨moving, fun h => absurd (rests.1 h) (Nat.not_le.2 high)⟩
  · rw [if_neg (by simp [full, rests.2 low]), if_pos moving]
  · rw [if_neg (by simp [full, still]), if_neg still]
    rfl

theorem roomRaised_claimed {s : State} {r : RouteNo} (claimed : s.engines.scanner = some r) :
    (s.sf.state = .waitRoom → 0 < s.scanFree → (s.route r).live = true → s.roomRaised = s.takeScanLine r)
    ∧ (s.sf.state ≠ .waitRoom ∨ s.scanFree = 0 ∨ (s.route r).live = false → s.roomRaised = s) := by
  unfold State.roomRaised
  rw [claimed]
  refine ⟨fun waits room live => if_pos ⟨waits, room, live⟩, fun stays => if_neg fun ⟨waits, room, live⟩ => ?_⟩
  rcases stays with other | full | dead
  · exact other waits
  · omega
  · exact Bool.noConfusion (dead.symm.trans live)

theorem beginEject_spec (s : State) (r : RouteNo) :
    let count := (s.route r).eject
    let u := s.setScanner { s.scanner with phase := .eject, lastLine := true }
    let x := ({ u with sf := { s.sf with motion := .move .eject, overrun := false } } : State).moveStep .sf count
    (s.sf.state = .moving → s.beginEject r = if x.2 then x.1.sheetIsOut else x.1)
    ∧ (s.sf.state ≠ .moving →
      (count ≠ 0 → s.beginEject r = u.restart .sf (.move .eject) (count - 1))
      ∧ (count = 0 →
        s.beginEject r = { u with sf := { s.sf with state := .idle, motion := .none } }.sheetIsOut)) :=
  ⟨fun moving => if_pos moving, fun still => ⟨fun some_ => (if_neg still).trans (if_neg some_),
    fun none_ => (if_neg still).trans (if_pos none_)⟩⟩

/-! ## The ends of run-downs and of moves (R123 to R126) -/

theorem queueReport_awake (s : State) (x : Report) (awake : s.dozing = false) :
    s.queueReport x = s.putReport x false := if_pos (by rw [awake]; rfl)

theorem moved_order {u : State} {m : MotorName} {t : TableNo} (motion : (u.motor m).motion = .move .order)
    (slot : (u.motor m).slot = some t) (left : (u.motor m).left = 0) (low : (u.motor m).index ≤ (u.rampInUse m).z)
    (awake : u.dozing = false) :
    u.stepExpiry m =
      ((u.setTable t { u.table t with binds := (u.table t).binds - 1 }).setMotor m
        { u.motor m with
          state := .idle, motion := .none, timer := none, left := 0, overrun := false
          stretched := false, claim := none, slot := none
          hold := if 0 < (u.rampInUse m).hold then .hold else .off
          holdTimer := if 0 < (u.rampInUse m).hold then
            some (u.now + (u.rampInUse m).hold * 10000) else none }).putReport
        (.moved m (u.motor m).taken false) false := by
  rw [stepExpiry_move motion, (moveStep_spec u m _).2.1 (.inr left) low, if_pos rfl]
  dsimp only
  rw [restMotor_eq]
  unfold State.moveDone
  dsimp only
  rw [motor_setMotor_same, setMotor_setMotor]
  dsimp only
  rw [slot]
  refine (queueReport_awake _ _ ?_).trans ?_ <;> cases m
  · exact awake
  · exact awake
  · rfl
  · rfl

/-- Settles O54: the step events, the expiries by their motion, SF's line ends and the holds. -/
theorem stepsAndHoldsFollowTheirMotion : Obligations.StepsAndHoldsFollowTheirMotion := by
  unfold Obligations.StepsAndHoldsFollowTheirMotion
  refine ⟨fun m s left => ?_, fun s r => ?_, fun s r => ?_, fun m s d timed => ?_,
    fun m s => ⟨fun d timed => ?_, fun stopped => ?_⟩, fun m => ⟨fun off => ?_, fun driven => ?_, beq_iff_eq, rfl⟩⟩
  · intro mo ramp index hold spent
    obtain ⟨more, rests, comesDown⟩ := moveStep_spec s m left
    refine ⟨fun d => exec_stepTimerExpiry, rfl, fun motion => rfl, restMotor_eq s m, more, rests, comesDown,
      stepExpiry_none, fun motion => (stepExpiry_runDown motion).1, fun owner motion => ?_,
      fun motion => (stepExpiry_lines motion).2, rfl, fun r claimed => ?_⟩
    · intro x
      rw [stepExpiry_move motion]
      exact ⟨fun goes => if_neg fun done => Bool.noConfusion (goes.symm.trans done), fun done => if_pos done⟩
    · unfold State.moveDone
      dsimp only
      rw [claimed]
  · intro c after ejects
    obtain ⟨ends, goes⟩ := scanLineEnd_spec s r
    refine ⟨ends, goes, fun moving => ?_, fun still => ?_, roomRaised_claimed⟩
    · unfold State.takeScanLine
      dsimp only
      rw [if_pos moving]
    · unfold State.takeScanLine
      dsimp only
      rw [if_neg still]
  · intro count u x
    obtain ⟨moving, still⟩ := beginEject_spec s r
    refine ⟨fun moves => ?_, still, rfl⟩
    rw [moving moves]
    exact ⟨fun goes => if_neg fun done => Bool.noConfusion (goes.symm.trans done), fun done => if_pos done⟩
  · intro u mo
    rw [exec_stepTimerExpiry timed]
    have same : u.motor m = mo := by cases m <;> rfl
    have ramp : u.rampInUse m = s.rampInUse m := by cases m <;> rfl
    have dozing : u.dozing = s.dozing := rfl
    rw [← same, ← ramp, ← dozing]
    exact ⟨fun motion more => congrArg (fun t => Host.Outcome.next (State.react t)) (stepExpiry_step motion more),
      fun motion low => congrArg (fun t => Host.Outcome.next (State.react t)) (stepExpiry_rest motion low),
      fun t motion slot left low awake =>
        congrArg (fun t => Host.Outcome.next (State.react t)) (moved_order motion slot left low awake)⟩
  · change execHoldTimerExpiry m s = _
    unfold execHoldTimerExpiry
    rw [timed]
    rfl
  · change execHoldTimerExpiry m s = _
    unfold execHoldTimerExpiry
    rw [stopped]
  · unfold Motor.lines
    rw [off]
  · unfold Motor.lines
    cases held : m.hold with
    | off => exact absurd held driven
    | driven => rfl
    | hold => rfl

end Sys2Proof.Machine
end

section
/-! PROOF. O55: PAPER, and what PF does at rest and at a line's end (R66, R106, R111, R118 to R120). -/

namespace Sys2Proof.Machine

/-! ## Readiness (R105, R106, R111) -/

theorem headReady_iff (s : State) : s.headReady = true ↔ s.head.supply = .settled ∧ s.pins.coverOpen = false := by
  simp [State.headReady, State.headSettled]

theorem hotOrUnsettled_iff (s : State) :
    (s.headHot || !s.headSettled) = true ↔ s.headHot = true ∨ s.head.supply ≠ .settled := by
  simp [State.headSettled]

theorem headHot_iff {s : State} {r : RouteNo} (claimed : s.engines.printer = some r) :
    s.headHot = true ↔ (heatOf (s.storage (s.route r).heat)).stop ≤ s.head.theta.toNat / 16 := by
  simp [State.headHot, State.heat, claimed]

theorem mayPrint_iff (s : State) :
    s.mayPrint = true ↔ s.head.ready ≠ [] ∧ s.head.supply = .settled ∧ s.pins.coverOpen = false
      ∧ s.headHot = false ∧ s.pins.paperOut = false := by
  simp [State.mayPrint, State.headReady, State.headSettled, List.length_pos_iff, and_assoc]

theorem printComplete_iff (s : State) (r : RouteNo) :
    s.printComplete r = true ↔
      (if (s.route r).kind = some .copy then
          (s.scanner.lastLine = true ∨ s.scanner.sheetOut = true ∨ (s.route r).halt = .finish)
            ∧ s.scanner.capturing = false
        else s.printDec.told = true ∧ s.printDec.held = none)
      ∧ s.head.ready = []
      ∧ (s.head.current = none ∨ ∀ b, s.head.burn = some b → b.stage = .complete) := by
  rw [← burnDone_iff]
  unfold State.printComplete State.captureEnded
  by_cases copy : (s.route r).kind = some .copy
  · simp [copy, (isKind_iff (s.route r) .copy).2 copy, and_assoc, or_assoc]
  · have other : (s.route r).isKind .copy = false :=
      Bool.eq_false_of_not_eq_true fun h => copy ((isKind_iff (s.route r) .copy).1 h)
    simp [copy, other, and_assoc]

/-! ## PF at rest (R119, R120) -/

theorem pf_unclaimed {s : State} (free : s.engines.printer = none) :
    s.pfReexamine = s ∧ s.pfPaperOut = s ∧ s.headHot = false := by
  refine ⟨?_, ?_, ?_⟩
  · unfold State.pfReexamine
    rw [free]
  · unfold State.pfPaperOut
    rw [free]
  · unfold State.headHot
    rw [free]
    rfl

theorem pfReexamine_claimed {s : State} {r : RouteNo} (claimed : s.engines.printer = some r) :
    let rests := (s.pf.state = .waitData ∨ s.pf.state = .waitCool) ∧ (s.route r).live = true
      ∧ s.printComplete r = false
    let takes := s.head.ready ≠ [] ∧ s.head.supply = .settled ∧ s.pins.coverOpen = false
      ∧ s.headHot = false ∧ s.pins.paperOut = false
    (¬rests → s.pfReexamine = s)
    ∧ (rests → takes → s.pfReexamine = s.pfTake r)
    ∧ (rests → ¬takes → s.pfReexamine = { s with pf := { s.pf with
        state := if s.headHot = true ∨ s.head.supply ≠ .settled then .waitCool else .waitData } }) := by
  intro rests takes
  unfold State.pfReexamine
  rw [claimed]
  refine ⟨fun busy => if_neg busy, fun resting ready => (if_pos resting).trans (if_pos ((mayPrint_iff s).2 ready)),
    fun resting wants => (if_pos resting).trans ((if_neg fun may => wants ((mayPrint_iff s).1 may)).trans ?_)⟩
  exact congrArg (fun x => s.setMotor .pf { s.pf with state := x }) (if_congr (hotOrUnsettled_iff s) rfl rfl)

theorem pfPaperOut_claimed {s : State} {r : RouteNo} (claimed : s.engines.printer = some r) :
    let rests := (s.pf.state = .waitData ∨ s.pf.state = .waitCool) ∧ (s.route r).live = true
      ∧ s.printComplete r = false
    (¬rests ∨ s.pins.paperOut = false → s.pfPaperOut = s)
    ∧ (rests → s.pins.paperOut = true → s.pfPaperOut = s.failRoute r .paper) := by
  intro rests
  unfold State.pfPaperOut
  rw [claimed]
  refine ⟨fun stays => if_neg fun ⟨state, live, more, out⟩ => ?_, fun ⟨state, live, more⟩ out =>
    if_pos ⟨state, live, more, out⟩⟩
  rcases stays with busy | present
  · exact busy ⟨state, live, more⟩
  · exact Bool.noConfusion (present.symm.trans out)

/-! ## PF's line end (R118 to R120) -/

theorem pfLineEnd_spec (s : State) (r : RouteNo) :
    let asks := s.head.ready ≠ [] ∧ ((s.rampInUse .pf).z < s.pf.index
      ∨ (s.head.supply = .settled ∧ s.headHot = false ∧ s.pins.paperOut = false))
    let granted := s.head.supply = .settled ∧ s.pins.coverOpen = false
    let u : State := { s with head := { s.head with current := none, burn := none } }
    (asks → granted → s.pfLineEnd r = s.pfTake r)
    ∧ (¬(asks ∧ granted) →
      (s.printComplete r = true → s.pfLineEnd r = u.restMotor .pf .waitData .lines)
      ∧ (s.printComplete r = false →
        (s.pins.paperOut = true → s.pfLineEnd r = (u.restMotor .pf .waitPaper .lines).failRoute r .paper)
        ∧ (s.pins.paperOut = false →
          s.pfLineEnd r = u.restMotor .pf
            (if s.headHot = true ∨ s.head.supply ≠ .settled then .waitCool else .waitData) .lines))) := by
  intro asks granted u
  have high : s.mayRest .pf = false ↔ (s.rampInUse .pf).z < s.pf.index := by
    rw [← Bool.not_eq_true, mayRest_iff]
    exact Nat.not_le
  have takes_iff : (decide (0 < s.head.ready.length)
      && (!s.mayRest .pf || (s.headSettled && !s.headHot && !s.pins.paperOut)) && s.headReady) = true
      ↔ asks ∧ granted := by
    simp only [Bool.and_eq_true, headReady_iff, Bool.or_eq_true, Bool.not_eq_true', high, decide_eq_true_iff,
      List.length_pos_iff, State.headSettled, beq_iff_eq, and_assoc, asks, granted]
  unfold State.pfLineEnd
  refine ⟨fun ask grant => if_pos (takes_iff.2 ⟨ask, grant⟩), fun not_both => ?_⟩
  have rests := fun h => not_both (takes_iff.1 h)
  refine ⟨fun complete => (if_neg rests).trans (if_pos complete), fun more => ⟨fun out => ?_, fun present => ?_⟩⟩ <;>
    refine (if_neg rests).trans ((if_neg (by simp [more])).trans ?_)
  · exact if_pos out
  · refine (if_neg (by simp [present])).trans ?_
    by_cases cool : s.headHot = true ∨ s.head.supply ≠ .settled
    · rw [if_pos cool]
      exact if_pos ((hotOrUnsettled_iff s).2 cool)
    · rw [if_neg cool]
      exact if_neg fun h => cool ((hotOrUnsettled_iff s).1 h)

/-! ## PAPER's events (R66, R120) -/

theorem exec_paperChange {s : State} {present : Bool} (ready : s.boot.state = .ready)
    (level : s.power.level ≠ some .retain) (changes : s.pins.paperOut = present) :
    let u := { s with pins := { s.pins with paperOut := !present } }.queueReport (.sensor .paper present)
    exec (.paperChange present) s = .next (if present then u.pfReexamine
      else u.armedPrinters.foldl (fun v r => v.failRoute r .paper) u.pfPaperOut).react := by
  intro u
  have news : ¬s.pins.paperOut = !present := by rw [changes]; cases present <;> decide
  exact congrArg Host.Outcome.next ((if_neg news).trans (if_pos ⟨ready, level⟩))

/-- Settles O55: PF at rest and at a line's end by what it waits for, and PAPER's changes. -/
theorem paperIsReportedAndWatched : Obligations.PaperIsReportedAndWatched := by
  unfold Obligations.PaperIsReportedAndWatched
  refine ⟨fun s r => ⟨pf_unclaimed, fun claimed => ?_, printComplete_iff s r, pfLineEnd_spec s r⟩,
    fun s ready level => ⟨fun out => ?_, fun present => ?_, fun present => ?_, fun out => ?_⟩⟩
  · intro rests takes
    obtain ⟨busy, goes, waits⟩ := pfReexamine_claimed claimed
    obtain ⟨stays, fails⟩ := pfPaperOut_claimed claimed
    exact ⟨fun no => ⟨busy no, stays (.inl no)⟩,
      fun yes => ⟨goes yes, waits yes, fails yes, fun present => stays (.inr present)⟩, headHot_iff claimed⟩
  · rw [exec_paperChange ready level out]
    rfl
  · rw [exec_paperChange ready level present]
    rfl
  · exact congrArg Host.Outcome.next (if_pos (by rw [present]; rfl))
  · exact congrArg Host.Outcome.next (if_pos (by rw [out]; rfl))

end Sys2Proof.Machine
end

section
/-! PROOF. O56: the tail, the cut and its end at HOME or by its timeout (R74 to R76, R129 to R131). -/

namespace Sys2Proof.Machine

/-! ## The end of the print side (R76, R111) -/

theorem printEndPass_claimed {s : State} {r : RouteNo} (claimed : s.engines.printer = some r) :
    let x := s.route r
    let due := x.live = true ∧ (x.state = .running ∨ x.state = .halting) ∧ x.halt ≠ .nowWaiting
      ∧ x.cutStage = .none ∧ s.printComplete r = true ∧ s.pf.state ≠ .moving
      ∧ (x.kind = some .copy → s.scanner.sheetOut = true)
    s.printEndPass = if due then
      if x.cutAfter = true ∧ x.halt ≠ .finish then s.beginTail r
      else s.completeRoute r s.printDec.unterminated none
    else s := by
  intro x due
  have due_iff : (x.live && (x.state == .running || x.state == .halting) && x.halt != .nowWaiting
      && x.cutStage == .none && s.printComplete r && s.pf.state != .moving
      && (!x.isKind .copy || s.scanner.sheetOut)) = true ↔ due := by
    have sheet : (!x.isKind .copy || s.scanner.sheetOut) = true
        ↔ (x.kind = some .copy → s.scanner.sheetOut = true) := by
      rw [← isKind_iff]
      cases x.isKind .copy <;> simp
    simp only [Bool.and_eq_true, sheet, Bool.or_eq_true, beq_iff_eq, bne_iff_ne, ne_eq, and_assoc, due]
  unfold State.printEndPass
  rw [claimed]
  exact if_congr due_iff rfl rfl

theorem beginTail_spec (s : State) (r : RouteNo) :
    let x := s.route r
    let tailing := s.setRoute r { x with cutStage := .tail }
    (x.tail ≠ 0 → s.beginTail r = tailing.restart .pf (.move .tail) (x.tail - 1))
    ∧ (x.tail = 0 →
      s.beginTail r = { tailing with pf := { s.pf with state := .idle, motion := .none } }.routeCut r) :=
  ⟨fun some_ => if_neg some_, fun none_ => if_pos none_⟩

/-! ## The cut (R130) -/

theorem startCut_spec (s : State) (owner : CutOwner) :
    (s.cutter.state = .idle →
      s.startCut owner = { s with cutter :=
        { state := if s.pins.home then .out else .back
          timer := some (s.now + 1000 * s.setup.cutter), owner := some owner } })
    ∧ (s.cutter.state = .out ∨ s.cutter.state = .back → s.cutter.owner = none →
      s.startCut owner = { s with cutter := { s.cutter with owner := some owner } }) := by
  refine ⟨fun idle => if_pos idle, fun cutting ownerless => ?_⟩
  have busy : s.cutter.state ≠ .idle := by rcases cutting with h | h <;> simp [h]
  refine (if_neg busy).trans (if_pos ?_)
  rcases cutting with h | h <;> simp [Cutter.cutting, h, ownerless]

theorem moveDone_tail {s : State} {r : RouteNo} (claimed : s.engines.printer = some r) (m : MotorName) :
    s.moveDone m .tail = s.routeCut r := by
  unfold State.moveDone
  dsimp only
  rw [claimed]

/-- A route that waits on a cut without an owner (R75). -/
theorem waiterEnds_spec (s : State) :
    ((∀ r, s.engines.printer = some r → (s.route r).halt ≠ .nowWaiting) → s.waiterEnds = s)
    ∧ ∀ r, s.engines.printer = some r → (s.route r).halt = .nowWaiting → s.waiterEnds = s.haltRoute r := by
  refine ⟨fun nobody => ?_, fun r claimed waits => ?_⟩
  · unfold State.waiterEnds
    split
    · exact if_neg (nobody _ ‹_›)
    · rfl
  · unfold State.waiterEnds
    rw [claimed]
    exact if_pos waits

/-- A cut's end, by its owner (R75, R76, R130). -/
theorem cutDone_spec (s : State) :
    let u : State := { s with cutter := { state := .idle, timer := none, owner := none } }
    (s.cutter.owner = some .order → s.cutDone = u.queueReport .cutDone)
    ∧ (s.cutter.owner = none →
      ((∀ r, s.engines.printer = some r → (s.route r).halt ≠ .nowWaiting) → s.cutDone = u)
      ∧ ∀ r, s.engines.printer = some r → (s.route r).halt = .nowWaiting → s.cutDone = u.haltRoute r)
    ∧ ∀ r, s.cutter.owner = some (.route r) →
      ((s.route r).halt = .nowWaiting → s.cutDone = u.haltRoute r)
      ∧ ((s.route r).halt ≠ .nowWaiting → s.cutDone = u.completeRoute r s.printDec.unterminated none) := by
  intro u
  refine ⟨fun owner => ?_, fun owner => ⟨fun nobody => ?_, fun r claimed waits => ?_⟩,
    fun r owner => ⟨fun waits => ?_, fun goes => ?_⟩⟩ <;>
    unfold State.cutDone <;> dsimp only <;> rw [owner]
  · exact (waiterEnds_spec u).1 nobody
  · exact (waiterEnds_spec u).2 r claimed waits
  · exact if_pos waits
  · exact if_neg goes

theorem cutFails_spec (s : State) (r : RouteNo) :
    ((s.route r).halt = .nowWaiting → s.cutFails r = s.haltRoute r)
    ∧ ((s.route r).halt ≠ .nowWaiting → s.cutFails r = s.failRoute r .cutter) :=
  ⟨fun waits => if_pos waits, fun goes => if_neg goes⟩

/-- A cut's failure, by its owner, else by the route that claims PRINTER (R130). -/
theorem cutFailed_spec (s : State) :
    let u (slot : Option RouteNo) := { s with
      cutter := { state := .fault, timer := none, owner := none }
      engines := { s.engines with printerFault := true } }.queueReport (.cutTimeout slot)
    (s.cutter.owner = some .order → s.cutFailed = u none)
    ∧ (∀ r, s.cutter.owner = some (.route r) → s.cutFailed = (u (some r)).cutFails r)
    ∧ (s.cutter.owner = none →
      (s.engines.printer = none → s.cutFailed = u none)
      ∧ ∀ r, s.engines.printer = some r → s.cutFailed = (u none).cutFails r) := by
  intro u
  have printer (slot : Option RouteNo) : (u slot).engines.printer = s.engines.printer := by
    obtain ⟨q, eq⟩ := queueReport_plain { s with
      cutter := { state := .fault, timer := none, owner := none }
      engines := { s.engines with printerFault := true } } (.cutTimeout slot) rfl
    rw [show u slot = _ from eq]
  refine ⟨fun owner => ?_, fun r owner => ?_, fun owner => ⟨fun free => ?_, fun r claimed => ?_⟩⟩ <;>
    unfold State.cutFailed <;> dsimp only <;> rw [owner]
  · dsimp only
    rw [show State.queueReport _ (.cutTimeout none) = u none from rfl, printer, free]
  · dsimp only
    rw [show State.queueReport _ (.cutTimeout none) = u none from rfl, printer, claimed]

theorem halt_cutTimeout (s : State) (slot : Option RouteNo) (r : RouteNo) :
    (({ s with
      cutter := { state := .fault, timer := none, owner := none }
      engines := { s.engines with printerFault := true } }.queueReport (.cutTimeout slot)).route r).halt
    = (s.route r).halt := by
  obtain ⟨q, eq⟩ := queueReport_plain { s with
    cutter := { state := .fault, timer := none, owner := none }
    engines := { s.engines with printerFault := true } } (.cutTimeout slot) rfl
  rw [eq]
  rfl

/-! ## HOME and the cutter timer (R129, R130) -/

theorem exec_homeChange {s : State} {level : Bool} (changes : s.pins.home ≠ level) :
    exec (.homeChange level) s = .next (s.homeTo level) := congrArg Host.Outcome.next (if_neg changes)

theorem homeTo_back {s : State} (back : s.cutter.state = .back) :
    s.homeTo true = ({ s with pins := { s.pins with home := true } }.cutDone).react := by
  unfold State.homeTo
  dsimp only
  rw [back]
  exact if_pos rfl

theorem exec_cutterTimeout {s : State} {d : Nat} (timed : s.cutter.timer = some d) :
    exec .cutterTimeout s = .next ((s.reach d).cutFailed).react := by
  change execCutterTimeout s = _
  unfold execCutterTimeout
  rw [timed]

theorem cutter_homeChange (s : State) :
    (s.cutter.state = .out → s.pins.home = true →
      exec (.homeChange false) s = .next
        { s with
          pins := { s.pins with home := false }
          cutter := { s.cutter with state := .back } })
    ∧ (s.cutter.state = .back → s.pins.home = false → s.cutter.owner = some .order →
      exec (.homeChange true) s = .next
        ({ s with
          pins := { s.pins with home := true }
          cutter := { state := .idle, timer := none, owner := none } }.queueReport .cutDone).react)
    ∧ ∀ owner, s.cutter.state = .back → s.pins.home = false → s.cutter.owner = owner →
      let u : State :=
        { s with
          pins := { s.pins with home := true }
          cutter := { state := .idle, timer := none, owner := none } }
      (owner = none →
        ((∀ r, s.engines.printer = some r → (s.route r).halt ≠ .nowWaiting) →
          exec (.homeChange true) s = .next u.react)
        ∧ ∀ r, s.engines.printer = some r → (s.route r).halt = .nowWaiting →
          exec (.homeChange true) s = .next (u.haltRoute r).react)
      ∧ ∀ r, owner = some (.route r) →
        ((s.route r).halt = .nowWaiting → exec (.homeChange true) s = .next (u.haltRoute r).react)
        ∧ ((s.route r).halt ≠ .nowWaiting →
          exec (.homeChange true) s = .next
            (u.completeRoute r s.printDec.unterminated none).react) := by
  obtain ⟨ordered, free, held⟩ := cutDone_spec { s with pins := { s.pins with home := true } }
  refine ⟨fun out home => ?_, fun back away owner => ?_, fun owner back away owns => ?_⟩
  · rw [exec_homeChange (by simp [home])]
    unfold State.homeTo
    dsimp only
    rw [out]
    rfl
  · rw [exec_homeChange (by simp [away]), homeTo_back back, ordered owner]
  · intro u
    rw [exec_homeChange (by simp [away]), homeTo_back back]
    refine ⟨fun none_ => ⟨fun nobody => ?_, fun r claimed waits => ?_⟩,
      fun r some_ => ⟨fun waits => ?_, fun goes => ?_⟩⟩
    · rw [(free (owns.trans none_)).1 nobody]
    · rw [(free (owns.trans none_)).2 r claimed waits]
    · rw [(held r (owns.trans some_)).1 waits]
    · rw [(held r (owns.trans some_)).2 goes]

theorem cutterTimeout_owned {s : State} {d : Nat} {r : RouteNo} (timed : s.cutter.timer = some d)
    (owner : s.cutter.owner = some (.route r)) :
    let u := { s with
      now := max s.now d
      cutter := { state := .fault, timer := none, owner := none }
      engines := { s.engines with printerFault := true } }.queueReport (.cutTimeout (some r))
    ((s.route r).halt ≠ .nowWaiting → exec .cutterTimeout s = .next (u.failRoute r .cutter).react)
    ∧ ((s.route r).halt = .nowWaiting → exec .cutterTimeout s = .next (u.haltRoute r).react) := by
  intro u
  have halt : (u.route r).halt = (s.route r).halt := halt_cutTimeout (s.reach d) (some r) r
  obtain ⟨waiting, going⟩ := cutFails_spec u r
  rw [exec_cutterTimeout timed, (cutFailed_spec (s.reach d)).2.1 r owner, ← halt]
  exact ⟨fun goes => congrArg (fun t => Host.Outcome.next (State.react t)) (going goes),
    fun waits => congrArg (fun t => Host.Outcome.next (State.react t)) (waiting waits)⟩

theorem cutterTimeout_free {s : State} {d : Nat} (timed : s.cutter.timer = some d) (owner : s.cutter.owner = none) :
    let u := { s with
      now := max s.now d
      cutter := { state := .fault, timer := none, owner := none }
      engines := { s.engines with printerFault := true } }.queueReport (.cutTimeout none)
    (s.engines.printer = none → exec .cutterTimeout s = .next u.react)
    ∧ ∀ r, s.engines.printer = some r →
      ((s.route r).halt ≠ .nowWaiting → exec .cutterTimeout s = .next (u.failRoute r .cutter).react)
      ∧ ((s.route r).halt = .nowWaiting → exec .cutterTimeout s = .next (u.haltRoute r).react) := by
  intro u
  obtain ⟨-, -, free⟩ := cutFailed_spec (s.reach d)
  obtain ⟨alone, claimant⟩ := free owner
  rw [exec_cutterTimeout timed]
  refine ⟨fun nobody => congrArg (fun t => Host.Outcome.next (State.react t)) (alone nobody), fun r claimed => ?_⟩
  have halt : (u.route r).halt = (s.route r).halt := halt_cutTimeout (s.reach d) none r
  obtain ⟨waiting, going⟩ := cutFails_spec u r
  rw [claimant r claimed, ← halt]
  exact ⟨fun goes => congrArg (fun t => Host.Outcome.next (State.react t)) (going goes),
    fun waits => congrArg (fun t => Host.Outcome.next (State.react t)) (waiting waits)⟩

/-- Settles O56: the tail and the cut it leads to, and each end of a cut by its owner. -/
theorem cutsEndAtHomeOrTimeOut : Obligations.CutsEndAtHomeOrTimeOut := by
  unfold Obligations.CutsEndAtHomeOrTimeOut
  refine ⟨fun s r claimed => ?_, fun s => ?_⟩
  · intro x due tailing
    obtain ⟨steps, noSteps⟩ := beginTail_spec s r
    rw [printEndPass_claimed claimed]
    refine ⟨fun no => if_neg no, fun yes ends => (if_pos yes).trans (if_neg fun ⟨cuts, goes⟩ => ?_),
      fun yes cuts goes some_ => (if_pos yes).trans ((if_pos ⟨cuts, ?_⟩).trans (steps some_)),
      fun yes cuts goes none_ => (if_pos yes).trans ((if_pos ⟨cuts, ?_⟩).trans (noSteps none_)),
      moveDone_tail claimed, rfl, startCut_spec s⟩
    · rcases ends with plain | finish
      · exact Bool.noConfusion (plain.symm.trans cuts)
      · exact goes finish
    · simp [x, goes]
    · simp [x, goes]
  · obtain ⟨leaves, ordered, owned⟩ := cutter_homeChange s
    refine ⟨leaves, ordered, owned, fun d timed owner => ?_,
      fun d r timed owner => (cutterTimeout_owned timed owner).1,
      fun d r timed owner => (cutterTimeout_owned timed owner).2,
      fun d timed owner => cutterTimeout_free timed owner, fun stopped => ?_⟩
    · rw [exec_cutterTimeout timed, (cutFailed_spec (s.reach d)).1 owner]
      rfl
    · change execCutterTimeout s = _
      unfold execCutterTimeout
      rw [stopped]

end Sys2Proof.Machine
end

section
/-! PROOF. O57: COVER stops the mechanics, fails the routes there and wakes the part (R79, R105, R127, R131, R148). -/

namespace Sys2Proof.Machine

/-! ## The stop of the mechanics (R105, R109, R127, R131) -/

/-- A motor stopped at once, its drive off and its claim given up (R126, R127). -/
def Motor.dropped (mo : Motor) : Motor :=
  { mo with
    state := .idle, motion := .none, timer := none, left := 0, overrun := false
    stretched := false, hold := .off, holdTimer := none, claim := none, slot := none
    copy := none }

theorem queueReport_shown (s : State) (x : Report) (plain : x.isError = false) (other : s.isReception x = false) :
    s.queueReport x = s.putReport x false := by
  unfold State.queueReport
  rw [plain, other, Bool.and_false]
  exact ite_self _

theorem dropMotor_eq (s : State) (m : MotorName) (report : Bool) :
    s.dropMotor m report = { s.setMotor m (s.motor m).dropped with
      tables := match (s.motor m).slot with
        | some t => s.tables.set t { s.table t with binds := (s.table t).binds - 1 }
        | none => s.tables
      reports := if report = true ∧ (s.motor m).slot ≠ none then
          enqueue (.moved m (s.motor m).taken true) false s.reports
        else s.reports } := by
  unfold State.dropMotor
  dsimp only
  cases slot : (s.motor m).slot with
  | none => cases m <;> simp [Motor.dropped, State.setMotor]
  | some t =>
    dsimp only
    cases report with
    | false => cases m <;> simp [Motor.dropped, State.setMotor, State.unbind, State.setTable, State.table]
    | true =>
      rw [if_pos rfl, queueReport_shown _ _ rfl rfl]
      cases m <;>
        simp [Motor.dropped, State.setMotor, State.unbind, State.setTable, State.table, State.putReport]

theorem dropMotor_table (s : State) (m : MotorName) (report : Bool) (t : TableNo) :
    (s.dropMotor m report).table t
      = { s.table t with binds := (s.table t).binds - if (s.motor m).slot = some t then 1 else 0 } := by
  rw [dropMotor_eq]
  cases slot : (s.motor m).slot with
  | none => simp [State.table]
  | some u =>
    by_cases same : u = t
    · subst same
      simp [State.table]
    · have other : (u : Nat) ≠ t := fun e => same (Fin.ext e)
      simp [State.table, same, other]

theorem stopCut_eq (s : State) (report : Bool) :
    s.stopCut report = { s with
      cutter := if s.cutter.cutting then
          { state := if s.cutter.state = .out then .idle else .fault, timer := none, owner := none }
        else s.cutter
      reports := if report = true ∧ s.cutter.cutting = true then
          enqueue (.cutStopped (if s.cutter.state = .out then .idle else .fault)) false s.reports
        else s.reports } := by
  unfold State.stopCut
  cases cuts : s.cutter.cutting with
  | false => simp
  | true =>
    cases report with
    | false => rfl
    | true => exact queueReport_shown _ _ rfl rfl

theorem cutting_iff (c : Cutter) : c.cutting = true ↔ c.state = .out ∨ c.state = .back := by
  simp [Cutter.cutting]

theorem stopMechanics_spec (s : State) (report : Bool) :
    let u := s.stopMechanics report
    let pf := if report = true ∧ s.pf.slot ≠ none then enqueue (.moved .pf s.pf.taken true) false s.reports
      else s.reports
    let sf := if report = true ∧ s.sf.slot ≠ none then enqueue (.moved .sf s.sf.taken true) false pf else pf
    (∀ m, u.motor m = (s.motor m).dropped)
    ∧ (∀ t, u.table t
        = { s.table t with
            binds := (s.table t).binds - (if s.pf.slot = some t then 1 else 0)
              - (if s.sf.slot = some t then 1 else 0) })
    ∧ u.head = { s.head with supply := .off, settleTimer := none, burn := none, cutOff := [] }
    ∧ (s.cutter.state = .out → u.cutter = { state := .idle, timer := none, owner := none })
    ∧ (s.cutter.state = .back → u.cutter = { state := .fault, timer := none, owner := none })
    ∧ (s.cutter.state ≠ .out → s.cutter.state ≠ .back → u.cutter = s.cutter)
    ∧ u.reports
      = (if report = true ∧ (s.cutter.state = .out ∨ s.cutter.state = .back) then
          enqueue (.cutStopped (if s.cutter.state = .out then .idle else .fault)) false sf
        else sf)
    ∧ { u with
        pf := s.pf, sf := s.sf, tables := s.tables, head := s.head, cutter := s.cutter
        reports := s.reports } = s := by
  intro u pf sf
  have tables (t : TableNo) : u.table t = ((s.dropMotor .pf report).dropMotor .sf report).table t := by
    unfold u State.stopMechanics
    rw [stopCut_eq]
    rfl
  have sfMotor : (s.dropMotor .pf report).motor .sf = s.sf := by
    rw [dropMotor_eq]
    rfl
  have steps : u = (((s.dropMotor .pf report).dropMotor .sf report).stopCut report).supplyOff := rfl
  rw [dropMotor_eq _ .sf, sfMotor, dropMotor_eq s .pf, stopCut_eq] at steps
  refine ⟨fun m => ?_, fun t => ?_, ?_, fun out => ?_, fun back => ?_, fun out back => ?_, ?_, ?_⟩
  · rw [steps]
    cases m <;> rfl
  · rw [tables, dropMotor_table, dropMotor_table, sfMotor]
    rfl
  · rw [steps]
    rfl
  · rw [steps]
    simp [State.supplyOff, State.setMotor, Cutter.cutting, out]
  · rw [steps]
    simp [State.supplyOff, State.setMotor, Cutter.cutting, back]
  · rw [steps]
    simp [State.supplyOff, State.setMotor, Cutter.cutting, out, back]
  · rw [steps]
    simp only [← cutting_iff]
    rfl
  · rw [steps]
    rfl

/-! ## The routes that COVER fails (R71, R79) -/

/-- A record as it was, but that a STALLED route may have gone RUNNING (R16). -/
def Resumed (x y : Route) : Prop := y = x ∨ (x.state = .stalled ∧ y = { x with state := .running })

theorem Resumed.refl (x : Route) : Resumed x x := .inl rfl

theorem Resumed.trans {x y z : Route} (first : Resumed x y) (second : Resumed y z) : Resumed x z := by
  rcases first with rfl | ⟨stalled, rfl⟩
  · exact second
  · rcases second with rfl | ⟨other, -⟩
    · exact .inr ⟨stalled, rfl⟩
    · exact nomatch other

theorem Resumed.record {x y : Route} (resumed : Resumed x y) : { y with state := x.state } = x := by
  rcases resumed with rfl | ⟨-, rfl⟩ <;> rfl

theorem Resumed.live {x y : Route} (resumed : Resumed x y) : y.live = x.live := by
  rcases resumed with rfl | ⟨stalled, rfl⟩
  · rfl
  · simp only [Route.live, Route.inUse, stalled]
    rfl

theorem resumed_unstarve (s : State) (slot : Option RouteNo) (starved : Bool) (q : RouteNo) :
    Resumed (s.route q) ((s.unstarve slot starved).route q) := by
  obtain ⟨reports, routes, same, states⟩ := unstarve_changes s slot starved
  obtain ⟨state, record⟩ := states q
  have kept : (s.unstarve slot starved).route q = { s.route q with state := state } := by
    rw [same]
    exact record
  have state_eq := unstarve_state s slot starved q
  rw [kept] at state_eq ⊢
  dsimp only at state_eq
  split at state_eq
  · rename_i goes
    exact .inr ⟨goes.2.2, by rw [state_eq]⟩
  · exact .inl (by rw [state_eq])

theorem resumed_availChange (s : State) (before : Nat) (q : RouteNo) :
    Resumed (s.route q) ((s.availChange before).route q) := by
  have alerted : (s.alerted before).route q = s.route q := by
    unfold State.alerted
    split
    · exact route_queueReport _ _ q
    · split
      · exact route_queueReport _ _ q
      · rfl
  rw [availChange_eq]
  split
  · rw [← alerted]
    exact (resumed_unstarve _ _ _ q).trans (resumed_unstarve _ _ _ q)
  · exact .inl alerted

theorem resumed_freePage (s : State) (p : PageNo) (q : RouteNo) :
    Resumed (s.route q) ((s.freePage p).route q) := by
  have listed : (s.unlisted p).route q = s.route q := by
    obtain ⟨pool, splice, -⟩ :=
      splice_changes s p { head := (s.page p).head, tail := (s.page p).tail, count := (s.page p).blockCount }
    unfold State.unlisted
    dsimp only
    rw [splice, queueImage_eq]
    rfl
  have changed := resumed_availChange ((s.unlisted p).queueReport (.pageFreed p)) s.available q
  rwa [route_queueReport, listed] at changed

theorem resumed_leavePage (s : State) (p : PageNo) (done : Bool) (q : RouteNo) :
    Resumed (s.route q) ((s.leavePage p done).route q) := by
  unfold State.leavePage
  dsimp only
  split
  · exact .inl rfl
  · refine .inl ?_
    rw [State.dropPage, route_queueReport, queueImage_eq]
    rfl
  · exact resumed_freePage _ p q

theorem resumed_endPage (s : State) {r q : RouteNo} (f : Fate) (other : q ≠ r) :
    Resumed (s.route q) ((s.endPage r f).route q) := by
  cases open_ : (s.route r).page with
  | none =>
    simp only [State.endPage, open_]
    exact .inl rfl
  | some p =>
    by_cases reads : (s.route r).isReader = true
    · simp only [State.endPage, open_, if_pos reads]
      rw [route_setRoute_other _ _ other]
      exact resumed_leavePage s p _ q
    · refine .inl ?_
      simp only [State.endPage, open_, if_neg reads]
      cases close : f.close with
      | none => exact route_setRoute_other _ _ other
      | some c =>
        simp only [State.closePage]
        rw [route_queueReport, route_setRoute_other _ _ other, queueImage_eq]
        rfl

theorem resumed_finishRoute (s : State) {r q : RouteNo} (f : Fate) (other : q ≠ r) :
    Resumed (s.route q) ((s.finishRoute r f).route q) := by
  obtain ⟨before, finish⟩ := finishRoute_eq s r f
  have dozed (t : State) (kind : Option RouteKind) : (t.returnToDoze kind).route q = t.route q :=
    by
      have same := congrArg (fun u : State => u.route q) (returnToDoze_undozed t kind)
      exact same
  have record : (s.endRecord r f).route q = (s.endPage r f).route q := by
    obtain ⟨pf, sf, tables, steps⟩ := endSteps_eq s r f
    obtain ⟨routes, -⟩ := releaseBlocks_keeps (s.endSteps r f) (s.route r).kind
    unfold State.endRecord
    rw [route_setRoute_other _ _ other]
    exact (congrArg (fun v : Vector Route 4 => v[q]) routes).trans (by rw [steps]; rfl)
  rw [finish, dozed, route_queueReport]
  have changed := resumed_availChange (s.endRecord r f) before q
  rw [record] at changed
  exact (resumed_endPage s f other).trans changed

theorem fixEnd_dead {s : State} {r : RouteNo} (f : Fate) (dead : (s.route r).live = false) : s.fixEnd r f = s :=
  if_neg (by rw [dead]; decide)

theorem route_routeTo_same (s : State) (r : RouteNo) (x : RouteState) :
    (s.routeTo r x).route r = { s.route r with state := x } := by
  obtain ⟨q, eq⟩ := routeTo_changes s r x
  rw [eq]
  exact route_setRoute_same s r _

theorem route_routeTo_other (s : State) {r q : RouteNo} (x : RouteState) (other : q ≠ r) :
    (s.routeTo r x).route q = s.route q := by
  obtain ⟨reports, eq⟩ := routeTo_changes s r x
  rw [eq]
  exact route_setRoute_other s _ other

/-- The state in which a fixed outcome ends its route or holds it: its flows stopped, its last line end known. -/
def State.flowsStopped (s : State) (r : RouteNo) (f : Fate) : State :=
  let t := (s.stopFlows r).orphanBurst (s.route r).kind
  t.setRoute r { t.route r with lastLineEnd := s.lastEnd r f }

/-- A route held in HALTING, its outcome fixed (R71, R72). -/
def State.endHeld (s : State) (r : RouteNo) (f : Fate) : State :=
  s.setRoute r
    { s.route r with
      fate := some f, outcome := some f.outcome, cause := f.cause, unterminated := f.unterminated }

theorem fixEnd_live {s : State} {r : RouteNo} (f : Fate) (live : (s.route r).live = true) :
    s.fixEnd r f =
      let t := s.flowsStopped r f
      if t.endNeed r f ≤ t.dirPlaces then t.finishRoute r f
      else if (s.route r).state = .halting then t.endHeld r f else (t.endHeld r f).routeTo r .halting :=
  if_pos live

theorem flowsStopped_other (s : State) {r q : RouteNo} (f : Fate) (other : q ≠ r) :
    (s.flowsStopped r f).route q = s.route q := by
  obtain ⟨burst, eq⟩ := orphanBurst_eq (s.stopFlows r) (s.route r).kind
  unfold State.flowsStopped
  rw [eq, route_setRoute_other _ _ other]
  exact stopFlows_route s r q

/-- A route whose outcome is fixed has ended, or is held in HALTING with it (R71). -/
theorem fixEnd_route {s : State} {r : RouteNo} (f : Fate) (live : (s.route r).live = true) :
    ((s.fixEnd r f).route r).outcome = some f.outcome ∧ ((s.fixEnd r f).route r).cause = f.cause
    ∧ ((s.fixEnd r f).route r).live = false := by
  have held (t : State) : (t.endHeld r f).route r = { t.route r with
      fate := some f, outcome := some f.outcome, cause := f.cause, unterminated := f.unterminated } :=
    route_setRoute_same t r _
  rw [fixEnd_live f live]
  dsimp only
  split
  · rw [finishRoute_route]
    exact ⟨rfl, rfl, rfl⟩
  · split
    · rw [held]
      exact ⟨rfl, rfl, by simp [Route.live]⟩
    · rw [route_routeTo_same, held]
      exact ⟨rfl, rfl, by simp [Route.live]⟩

theorem resumed_fixEnd (s : State) {r q : RouteNo} (f : Fate) (other : q ≠ r) :
    Resumed (s.route q) ((s.fixEnd r f).route q) := by
  cases live : (s.route r).live with
  | false =>
    rw [fixEnd_dead f live]
    exact .refl _
  | true =>
    have held (t : State) : (t.endHeld r f).route q = t.route q := route_setRoute_other t _ other
    rw [fixEnd_live f live]
    dsimp only
    split
    · rw [← flowsStopped_other s f other]
      exact resumed_finishRoute _ f other
    · split
      · exact .inl ((held _).trans (flowsStopped_other s f other))
      · exact .inl ((route_routeTo_other _ _ other).trans ((held _).trans (flowsStopped_other s f other)))

/-- COVER's turn at a route (R79). -/
def State.coverFails (u : State) (r : RouteNo) : State :=
  if (u.route r).usesScanner || (u.route r).usesPrinter then u.failRoute r .cover else u

theorem resumed_coverFails (s : State) {r q : RouteNo} (other : q ≠ r) :
    Resumed (s.route q) ((s.coverFails r).route q) := by
  unfold State.coverFails
  split
  · exact resumed_fixEnd s _ other
  · exact .refl _

theorem coverFails_spared {s : State} {r : RouteNo}
    (spared : (s.route r).live = false ∨ ((s.route r).usesScanner = false ∧ (s.route r).usesPrinter = false)) :
    s.coverFails r = s := by
  unfold State.coverFails
  rcases spared with dead | ⟨scanner, printer⟩
  · rw [State.failRoute, fixEnd_dead _ dead, ite_self]
  · rw [scanner, printer]
    rfl

theorem coverFails_failed {s : State} {r : RouteNo} (live : (s.route r).live = true)
    (there : (s.route r).usesScanner = true ∨ (s.route r).usesPrinter = true) :
    ((s.coverFails r).route r).outcome = some .failed ∧ ((s.coverFails r).route r).cause = some .cover
    ∧ ((s.coverFails r).route r).live = false := by
  unfold State.coverFails
  rw [if_pos (by simpa using there)]
  exact fixEnd_route _ live

/-- A record's outcome, its cause and its being live stay where a STALLED route goes RUNNING. -/
theorem Resumed.fixed {x y : Route} (resumed : Resumed x y) :
    y.outcome = x.outcome ∧ y.cause = x.cause ∧ y.kind = x.kind := by
  rcases resumed with rfl | ⟨-, rfl⟩ <;> exact ⟨rfl, rfl, rfl⟩

theorem resumed_foldl_coverFails (routes : List RouteNo) {q : RouteNo} (absent : q ∉ routes) : ∀ s : State,
    Resumed (s.route q) ((routes.foldl State.coverFails s).route q) := by
  induction routes with
  | nil => exact fun s => .refl _
  | cons r routes ih =>
    intro s
    exact (resumed_coverFails s (List.ne_of_not_mem_cons absent)).trans
      (ih (List.not_mem_of_not_mem_cons absent) _)

theorem foldl_coverFails_spared (routes : List RouteNo) (q : RouteNo) : ∀ s : State,
    (s.route q).live = false ∨ ((s.route q).usesScanner = false ∧ (s.route q).usesPrinter = false) →
    Resumed (s.route q) ((routes.foldl State.coverFails s).route q) := by
  induction routes with
  | nil => exact fun s _ => .refl _
  | cons r routes ih =>
    intro s spared
    rw [List.foldl_cons]
    by_cases own : q = r
    · subst own
      rw [coverFails_spared spared]
      exact ih s spared
    · have moved := resumed_coverFails s own
      obtain ⟨-, -, kind⟩ := moved.fixed
      refine moved.trans (ih _ ?_)
      rw [moved.live]
      unfold Route.usesScanner Route.usesPrinter
      rw [kind]
      exact spared

theorem foldl_coverFails_failed (routes : List RouteNo) {q : RouteNo} (among : q ∈ routes) : ∀ s : State,
    routes.Nodup → (s.route q).live = true → (s.route q).usesScanner = true ∨ (s.route q).usesPrinter = true →
    let y := (routes.foldl State.coverFails s).route q
    y.outcome = some .failed ∧ y.cause = some .cover ∧ y.live = false := by
  induction routes with
  | nil => exact absurd among (List.not_mem_nil)
  | cons r routes ih =>
    intro s nodup live there
    obtain ⟨fresh, nodup⟩ := List.nodup_cons.1 nodup
    rw [List.foldl_cons]
    by_cases own : q = r
    · subst own
      obtain ⟨outcome, cause, dead⟩ := coverFails_failed live there
      have moved := resumed_foldl_coverFails routes fresh (s.coverFails q)
      obtain ⟨outcome', cause', -⟩ := moved.fixed
      exact ⟨outcome'.trans outcome, cause'.trans cause, moved.live.trans dead⟩
    · have moved := resumed_coverFails s own
      obtain ⟨-, -, kind⟩ := moved.fixed
      refine ih (List.mem_of_ne_of_mem own among) _ nodup (moved.live.trans live) ?_
      unfold Route.usesScanner Route.usesPrinter
      rw [kind]
      exact there

/-! ## COVER's events (R79, R148) -/

theorem exec_coverOpening {s : State} (ready : s.boot.state = .ready) (level : s.power.level ≠ some .retain)
    (closed : s.pins.coverOpen = false) :
    let u := ({ s with pins := { s.pins with coverOpen := true } }.stopMechanics true).failMechanics
    exec .coverOpening s = .next
      ((({ u with engines := { u.engines with scannerFault := true, printerFault := true } }.putReport
        (.sensor .cover true) false).takeWake .cover).react.resume s.power.level) := by
  intro u
  have opens : exec .coverOpening s = .next (s.coverOpens.resume s.power.level) :=
    congrArg Host.Outcome.next (if_neg (by rw [closed]; decide))
  have stopped : s.coverOpens
      = ((({ u with engines := { u.engines with scannerFault := true, printerFault := true } }.queueReport
        (.sensor .cover true)).takeWake .cover).react) := by
    unfold State.coverOpens
    dsimp only
    rw [if_pos ⟨ready, level⟩]
  rw [opens, stopped, queueReport_shown _ _ rfl rfl]

theorem exec_coverClosing {s : State} (ready : s.boot.state = .ready) (level : s.power.level ≠ some .retain)
    (open_ : s.pins.coverOpen = true) :
    let u := { s with pins := { s.pins with coverOpen := false } }.putReport (.sensor .cover false) false
    exec .coverClosing s = .next
      (((if s.power.level = some .run then u.supplyOn else u).takeWake .cover).react.resume s.power.level) := by
  intro u
  have closes : exec .coverClosing s = .next (s.coverCloses.resume s.power.level) :=
    congrArg Host.Outcome.next (if_pos open_)
  have shown : { s with pins := { s.pins with coverOpen := false } }.queueReport (.sensor .cover false) = u :=
    queueReport_shown _ _ rfl rfl
  have closed : s.coverCloses = ((if u.power.level = some .run then u.supplyOn else u).takeWake .cover).react := by
    rw [← shown]
    exact if_pos ⟨ready, level⟩
  rw [closes, closed]
  rfl

theorem cover_unwatched {s : State} (off : s.boot.state ≠ .ready ∨ s.power.level = some .retain) :
    (s.pins.coverOpen = false →
      exec .coverOpening s = .next { s with pins := { s.pins with coverOpen := true } })
    ∧ (s.pins.coverOpen = true →
      exec .coverClosing s = .next { s with pins := { s.pins with coverOpen := false } }) := by
  have unwatched : ¬(s.boot.state = .ready ∧ s.power.level ≠ some .retain) := fun ⟨ready, level⟩ =>
    off.elim (fun other => other ready) level
  refine ⟨fun closed => ?_, fun open_ => ?_⟩
  · have opens : exec .coverOpening s = .next (s.coverOpens.resume s.power.level) :=
      congrArg Host.Outcome.next (if_neg (by rw [closed]; decide))
    rw [opens, show s.coverOpens = { s with pins := { s.pins with coverOpen := true } } from if_neg unwatched]
    exact congrArg Host.Outcome.next (resume_same { s with pins := { s.pins with coverOpen := true } })
  · have closes : exec .coverClosing s = .next (s.coverCloses.resume s.power.level) :=
      congrArg Host.Outcome.next (if_pos open_)
    rw [closes, show s.coverCloses = { s with pins := { s.pins with coverOpen := false } } from if_neg unwatched]
    exact congrArg Host.Outcome.next (resume_same { s with pins := { s.pins with coverOpen := false } })

theorem record_eq (p : Power) (c : WakeCause) : p.record c = { p with
    wakeFirst := some (p.wakeFirst.getD c)
    wakeSet := if c ∈ p.wakeSet then p.wakeSet else p.wakeSet ++ [c] } := by
  unfold Power.record
  simp only [List.contains_iff_mem]
  cases p.wakeFirst <;> rfl

theorem takeWake_doze {s : State} (c : WakeCause) (level : s.power.level = some .doze)
    (request : s.power.request = .ordinary) (stands : s.store.request = .ordinary)
    (asleep : s.store.state = .selfRefresh) :
    s.takeWake c = { s with
      power := { s.power.record c with level := some .waking, step := .none, abandoned := false }
      store := { s.store with state := .waking, request := .none, wakeTimer := some (s.now + 200) } } := by
  unfold State.takeWake
  rw [level]
  dsimp only
  unfold State.fullWake
  have withdrawn (p : Power) (ordinary : p.request = .ordinary) : { s with power := p }.withdrawOrdinary
      = { s with
          power := p
          store := { s.store with state := .waking, request := .none, wakeTimer := some (s.now + 200) } } := by
    unfold State.withdrawOrdinary
    rw [if_pos ⟨ordinary, stands⟩]
    unfold State.storeWithdraw
    dsimp only
    rw [asleep]
    exact if_neg (by simp [State.startExit])
  dsimp only
  rw [withdrawn { s.power.record c with
    level := some .waking, step := .none, abandoned := (s.power.record c).level == some .enteringDoze } request]
  refine (if_neg (by simp)).trans ?_
  rw [show (s.power.record c).level = some .doze from level]
  rfl

/-- Settles O57: the stop of the mechanics part by part, the routes it fails, and COVER's two events. -/
theorem coverStopsTheMechanics : Obligations.CoverStopsTheMechanics := by
  unfold Obligations.CoverStopsTheMechanics
  refine ⟨stopMechanics_spec, fun s => ⟨rfl, fun r => ?_⟩, fun s ready level =>
      ⟨exec_coverOpening ready level, exec_coverClosing ready level⟩,
    fun s off => cover_unwatched off, fun s => ⟨fun open_ => ?_, fun closed => ?_, resume_run s⟩,
    fun s => ?_⟩
  · intro x y
    refine ⟨foldl_coverFails_failed (allFin 4) (List.mem_finRange r) s (List.nodup_finRange 4), fun spared => ?_⟩
    have moved := foldl_coverFails_spared (allFin 4) r s spared
    exact ⟨moved.record, moved.live⟩
  · exact congrArg Host.Outcome.next (if_pos open_)
  · exact congrArg Host.Outcome.next (if_neg (by rw [closed]; decide))
  · intro record
    have recorded : s.power.record .cover = record := record_eq s.power .cover
    rw [← recorded]
    refine ⟨fun awake => ?_, fun doze => takeWake_doze .cover doze, fun retain => ?_⟩
    · rcases awake with level | level <;> simp only [State.takeWake, level]
    · rcases retain with level | level <;> simp only [State.takeWake, level]

end Sys2Proof.Machine
end

section
/-! PROOF. O59 and O60: power-fail entry, the reset and the end of HOLD (R155 to R158). -/

namespace Sys2Proof.Machine

/-! ## The reset (R157) -/

theorem exec_reset (held : Bool) (s : State) :
    exec (.reset held) s = .next
      (State.afterReset s.pending s.now s.choices s.pins s.store.dram (s.boot.retained && held)) := rfl

theorem afterReset_table (pending : List Instr) (now choices : Nat) (pins : Pins) (dram : List (Nat × StoreWord))
    (retained : Bool) (i : TableNo) :
    (State.afterReset pending now choices pins dram retained).table i = TableSlot.emptySlot := by
  simp [State.table, State.afterReset]

theorem afterReset_page (pending : List Instr) (now choices : Nat) (pins : Pins) (dram : List (Nat × StoreWord))
    (retained : Bool) (p : PageNo) :
    (State.afterReset pending now choices pins dram retained).page p = PageEntry.freeEntry := by
  simp [State.page, State.afterReset]

theorem afterReset_route (pending : List Instr) (now choices : Nat) (pins : Pins) (dram : List (Nat × StoreWord))
    (retained : Bool) (r : RouteNo) :
    (State.afterReset pending now choices pins dram retained).route r = Route.idleRecord := by
  simp [State.route, State.afterReset]

theorem holdRelease_cold {s : State} (hold : s.boot.state = .hold) (cold : s.boot.retained = false)
    (init : s.store.state = .init) :
    exec .holdRelease s = .next
      { s with
        pins := { s.pins with pfail := false }
        boot := { s.boot with state := .memoryStart } } := by
  refine congrArg Host.Outcome.next ((if_pos hold).trans ?_)
  refine (if_neg fun warm => Bool.noConfusion (cold.symm.trans warm)).trans (if_neg fun on => ?_)
  exact absurd (init.symm.trans on) (by decide)

theorem holdRelease_warm {s : State} (hold : s.boot.state = .hold) (warm : s.boot.retained = true)
    (asleep : s.store.state = .selfRefresh) :
    exec .holdRelease s = .next
      { s with
        pins := { s.pins with pfail := false }
        boot := { s.boot with state := .memoryStart }
        store :=
          { s.store with
            state := .waking, request := .none, wakeTimer := some (s.now + 200) } } := by
  refine congrArg Host.Outcome.next ((if_pos hold).trans ((if_pos warm).trans ?_))
  unfold State.storeWithdraw
  dsimp only [State.setBoot]
  rw [asleep]
  rfl

/-- Settles O60: the reset's state, and HOLD's end by the retained flag. -/
theorem resetReturnsToHold : Obligations.ResetReturnsToHold := by
  unfold Obligations.ResetReturnsToHold
  refine ⟨fun held s => ⟨_, exec_reset held s, ?_⟩, fun s hold => ⟨holdRelease_cold hold, holdRelease_warm hold⟩⟩
  have idle (r : RouteNo) := afterReset_route s.pending s.now s.choices s.pins s.store.dram (s.boot.retained && held) r
  refine ⟨rfl, rfl, rfl, rfl, rfl, rfl, rfl, rfl, rfl, rfl, rfl, rfl, rfl, rfl, rfl, rfl, rfl, rfl, rfl, rfl, rfl,
    afterReset_table _ _ _ _ _ _, afterReset_page _ _ _ _ _ _, fun r => ⟨by rw [idle]; rfl, by rw [idle]; rfl⟩,
    rfl, rfl, rfl, rfl, rfl, rfl, rfl, rfl, rfl, rfl, rfl, rfl, rfl, rfl, idle, rfl, rfl, rfl, rfl, rfl, rfl, rfl,
    rfl, rfl, rfl, rfl⟩

/-! ## Power-fail entry (R155, R156) -/

theorem leaveClear_spec (b : Boot) :
    (b.task = .geometryWait ∨ (∃ a, b.task = .geometryClear a) ∨ b.task = .geometryHeader →
      b.leaveClear = { b with task := .none })
    ∧ (b.task ≠ .geometryWait → (∀ a, b.task ≠ .geometryClear a) → b.task ≠ .geometryHeader →
      b.leaveClear = b) := by
  refine ⟨fun clears => ?_, fun wait clear header => ?_⟩
  · unfold Boot.leaveClear
    rcases clears with task | ⟨a, task⟩ | task <;> rw [task]
  · unfold Boot.leaveClear
    split
    · exact absurd ‹_› wait
    · exact absurd ‹_› (clear _)
    · exact absurd ‹_› header
    · rfl

theorem withdrawOrdinary_none {u : State} (other : u.power.request ≠ .ordinary ∨ u.store.request ≠ .ordinary) :
    u.withdrawOrdinary = u :=
  if_neg fun ⟨request, stands⟩ => other.elim (fun h => h request) fun h => h stands

theorem withdrawOrdinary_stands {u : State} (request : u.power.request = .ordinary)
    (stands : u.store.request = .ordinary) :
    (u.store.state = .selfRefresh →
      u.withdrawOrdinary
        = { u with store :=
            { u.store with
              state := .waking, request := .none, wakeTimer := some (u.now + 200) } })
    ∧ (u.store.state = .entering →
      u.withdrawOrdinary
        = { u with
            power := { u.power with request := .none }
            store :=
              { u.store with
                state := .on, request := .none, burst := u.store.burst.map Burst.notFinal } }) := by
  refine ⟨fun state => ?_, fun state => ?_⟩
  · have exits : u.storeWithdraw = u.startExit := by
      unfold State.storeWithdraw
      rw [state]
    unfold State.withdrawOrdinary
    rw [if_pos ⟨request, stands⟩, exits]
    exact if_neg (by simp [State.startExit])
  · have returns : u.storeWithdraw = { u with store :=
        { u.store with state := .on, request := .none, burst := u.store.burst.map Burst.notFinal } } := by
      unfold State.storeWithdraw
      rw [state]
    unfold State.withdrawOrdinary
    rw [if_pos ⟨request, stands⟩, returns]
    exact if_pos rfl

/-- The state in which power-fail entry stops the mechanics (R155). -/
def State.retainBegun (s : State) : State :=
  { s with
    power :=
      { s.power with
        level := some .enteringRetain, step := .retainOn, drivesOff := false
        abandoned := false, asleep := false }
    head :=
      if s.power.asleep then
        { s.head with thetaNext := true, sampleTimer := some (s.now + 1000) }
      else s.head
    reports := s.reports.map fun e => { e with withheld := false }
    boot := s.boot.leaveClear }

theorem converterOn_eq (u : State) : u.converterOn = { u with
    power := { u.power with asleep := false }
    head := if u.power.asleep then { u.head with thetaNext := true, sampleTimer := some (u.now + 1000) }
      else u.head } := by
  unfold State.converterOn
  by_cases asleep : u.power.asleep = true
  · rw [if_pos asleep, if_pos asleep]
    rfl
  · have power : { u.power with asleep := false } = u.power := by
      rw [Bool.not_eq_true] at asleep
      cases awake : u.power
      simp_all
    rw [if_neg asleep, if_neg asleep, power]

theorem beginRetain_eq (s : State) :
    s.beginRetain
      = ((((allFin 4).foldl State.haltRoute (s.retainBegun.stopMechanics false)).withdrawOrdinary).queueReport
          .levelRetain).react := by
  unfold State.beginRetain
  dsimp only
  rw [converterOn_eq]
  rfl

theorem pfailAssert_begins {s : State} {x : Level} (ready : s.boot.state = .ready) (level : s.power.level = some x)
    (entering : x ≠ .enteringRetain) (retain : x ≠ .retain) :
    exec .pfailAssert s = .next { s with pins := { s.pins with pfail := true } }.beginRetain := by
  change execPfailAssert s = _
  unfold execPfailAssert
  dsimp only
  rw [ready, level]
  cases x with
  | enteringRetain => exact absurd rfl entering
  | retain => exact absurd rfl retain
  | _ => rfl

theorem pfailAssert_again {s : State} (ready : s.boot.state = .ready)
    (level : s.power.level = some .enteringRetain ∨ s.power.level = some .retain) :
    exec .pfailAssert s = .next { s with pins := { s.pins with pfail := true } } := by
  change execPfailAssert s = _
  unfold execPfailAssert
  dsimp only
  rw [ready]
  rcases level with level | level <;> rw [level]

theorem exec_retainDrainDone {s : State} (level : s.power.level = some .enteringRetain)
    (step : s.power.step = .retainDrain) (idle : s.routesInUse = []) (drained : s.pool.dirQueue = []) :
    exec .retainDrainDone s = .next s.retainDrained :=
  congrArg Host.Outcome.next (if_pos ⟨level, step, by rw [idle]; rfl, by rw [drained]; rfl⟩)

/-- Settles O59: the entry begun, what its withdrawal leaves, and the end of its drain. -/
theorem powerFailEntersRetain : Obligations.PowerFailEntersRetain := by
  unfold Obligations.PowerFailEntersRetain
  refine ⟨fun s x ready level entering retain => ?_, leaveClear_spec,
    fun u => ⟨withdrawOrdinary_none, withdrawOrdinary_stands⟩,
    fun s => ⟨fun ready level => ?_, fun level step idle drained => ⟨fun serves => ?_, fun clears => ?_⟩⟩⟩
  · intro entered u
    rw [pfailAssert_begins ready level entering retain]
    exact congrArg Host.Outcome.next (beginRetain_eq { s with pins := { s.pins with pfail := true } })
  · exact pfailAssert_again ready level
  · rw [exec_retainDrainDone level step idle drained]
    exact congrArg Host.Outcome.next (if_neg serves)
  · rw [exec_retainDrainDone level step idle drained]
    exact congrArg Host.Outcome.next (if_pos clears)

end Sys2Proof.Machine
end

section
/-! PROOF. O58: DOZE is entered once the drain is over, left at a wake cause, and returned to (R147 to R152). -/

namespace Sys2Proof.Machine

/-! ## Wakes (R148, R149) -/

theorem takeWake_sleeping {s : State} {level : Level} (c : WakeCause) (at_ : s.power.level = some level)
    (sleeping : level = .enteringDoze ∨ level = .doze ∨ level = .dozeRx) :
    let u := { s with power :=
      { s.power.record c with
        level := some .waking, step := .none
        abandoned := decide (level = Level.enteringDoze) } }.withdrawOrdinary
    s.takeWake c = if u.store.state = .on then u.completeRun else u := by
  have full : s.takeWake c = { s with power := s.power.record c }.fullWake := by
    unfold State.takeWake
    rcases sleeping with rfl | rfl | rfl <;> rw [at_]
  have abandons : ((s.power.record c).level == some Level.enteringDoze) = decide (level = .enteringDoze) := by
    rw [show (s.power.record c).level = some level from at_]
    cases level <;> rfl
  rw [full, ← abandons]
  rfl

theorem takeWake_deaf {s : State} (c : WakeCause)
    (level : s.power.level = none ∨ s.power.level = some .enteringRetain ∨ s.power.level = some .retain) :
    s.takeWake c = s := by
  unfold State.takeWake
  rcases level with level | level | level <;> rw [level]

theorem takeWake_awake {s : State} (c : WakeCause)
    (level : s.power.level = some .run ∨ s.power.level = some .waking) :
    s.takeWake c = { s with power := s.power.record c } := by
  unfold State.takeWake
  rcases level with level | level <;> rw [level]

/-! ## RUN reached (R104, R105, R149, R152) -/

theorem supplyOn_eq (u : State) :
    let on := u.pins.coverOpen = false ∧ u.head.supply = .off
    u.supplyOn = { u with head := { u.head with
      supply := if on then (if u.setup.settle = 0 then .settled else .settling) else u.head.supply
      settleTimer := if on then (if u.setup.settle = 0 then none else some (u.now + 1000 * u.setup.settle))
        else u.head.settleTimer } } := by
  intro on
  have stays_iff : (u.pins.coverOpen || u.head.supply != .off) = true ↔ ¬on := by
    simp only [on, Bool.or_eq_true, bne_iff_ne, not_and_or, Bool.not_eq_false]
  unfold State.supplyOn
  by_cases goes : on
  · rw [if_neg fun h => stays_iff.1 h goes]
    simp only [goes, if_true]
    by_cases quick : u.setup.settle = 0 <;> simp only [quick, if_true, if_false]
  · rw [if_pos (stays_iff.2 goes)]
    simp only [goes, if_false]

theorem completeRun_spec (s : State) :
    let u := s.completeRun
    let on := s.power.drivesOff = true ∧ s.pins.coverOpen = false ∧ s.head.supply = .off
    u.power
        = { s.power with
            level := some .run, step := .none, drivesOff := false, abandoned := false, asleep := false }
      ∧ u.head
        = { s.head with
            supply := if on then (if s.setup.settle = 0 then .settled else .settling) else s.head.supply
            settleTimer :=
              if on then (if s.setup.settle = 0 then none else some (s.now + 1000 * s.setup.settle))
              else s.head.settleTimer
            thetaNext := s.power.asleep || s.head.thetaNext
            sampleTimer := if s.power.asleep then some (s.now + 1000) else s.head.sampleTimer }
      ∧ u.reports
        = enqueue (.levelRun s.power.wakeFirst s.power.wakeSet s.power.abandoned) false
            (s.reports.map fun e => { e with withheld := false })
      ∧ { u with power := s.power, head := s.head, reports := s.reports } = s := by
  intro u on
  let run : State := { s with power :=
    { s.power with level := some .run, step := .none, drivesOff := false, abandoned := false } }
  let lit : State := { run with head := { s.head with
    supply := if on then (if s.setup.settle = 0 then .settled else .settling) else s.head.supply
    settleTimer := if on then (if s.setup.settle = 0 then none else some (s.now + 1000 * s.setup.settle))
      else s.head.settleTimer } }
  have supply : (if s.power.drivesOff then run.supplyOn else run) = lit := by
    rw [supplyOn_eq]
    cases drives : s.power.drivesOff
    · simp [lit, on, drives, run]
    · simp [lit, on, drives, run]
  have steps : u = lit.clearWithheld.converterOn.putReport
      (.levelRun s.power.wakeFirst s.power.wakeSet s.power.abandoned) false := by
    rw [← supply]
    rfl
  rw [steps, converterOn_eq]
  refine ⟨rfl, ?_, rfl, rfl⟩
  change (if s.power.asleep = true then _ else _) = _
  cases asleep : s.power.asleep
  · rfl
  · rfl

/-! ## DOZE's entry (R38, R147) -/

theorem dozeDrainDone_enters {s : State} (level : s.power.level = some .enteringDoze) (step : s.power.step = .drain)
    (drained : s.pool.dirQueue = []) (on : s.store.state = .on) (idle : s.store.burst = none)
    (rested : s.store.backlog = 0) (quiet : s.urgentWaits = false) :
    exec .dozeDrainDone s = .next
      { s with
        head := { s.head with sampleTimer := none }
        store :=
          { s.store with
            state := .selfRefresh, request := .ordinary, backlog := 0, refreshTimer := none
            scrubTimer := none }
        power :=
          { s.power with
            level := some .doze, step := .none, request := .ordinary, asleep := true } }.react := by
  let t : State := { s with power := { s.power with step := .selfRefresh } }
  let u : State := { t with
    power := { t.power with request := .ordinary }
    store := { t.store with state := .entering, request := .ordinary } }
  have placed : t.placeRequest = u := by simp only [State.placeRequest, show t.store.state = .on from on]; rfl
  have entered : u.entryAdvance = u.enterSelfRefresh :=
    (if_pos ⟨rfl, by simp [u, t, idle], .inr quiet⟩).trans (if_neg (show ¬0 < s.store.backlog by omega))
  have slept := (enterSelfRefresh_spec u).1 level
  have ends : exec .dozeDrainDone s = .next t.placeRequest.entryAdvance.react :=
    congrArg Host.Outcome.next (if_pos ⟨level, step, by rw [drained]; rfl⟩)
  rw [ends, placed, entered, slept]

theorem dozeDrainDone_waits {s : State} (writes : s.pool.dirQueue ≠ []) : exec .dozeDrainDone s = .next s :=
  congrArg Host.Outcome.next (if_neg fun ⟨_, _, empty⟩ => writes (List.isEmpty_iff.1 empty))

theorem entryAdvance_level {s : State} (level : s.power.level = some .enteringDoze) :
    s.entryAdvance.power.level = some .enteringDoze ∨ s.entryAdvance.power.level = some .doze := by
  unfold State.entryAdvance
  split
  · split
    · exact .inl level
    · rw [(enterSelfRefresh_spec s).1 level]
      exact .inr rfl
  · exact .inl level

theorem beginDoze_level (s : State) :
    s.beginDoze.power.level = some .enteringDoze ∨ s.beginDoze.power.level = some .doze := by
  by_cases writes : s.pool.dirQueue = []
  · have begun : s.beginDoze = ({ s.dozeBegun with
        power := { s.dozeBegun.power with step := .selfRefresh } }.placeRequest).entryAdvance :=
      if_pos (show s.pool.dirQueue.isEmpty = true by rw [writes]; rfl)
    rw [begun]
    refine entryAdvance_level ?_
    unfold State.placeRequest
    dsimp only
    split <;> rfl
  · rw [beginDoze_drains writes]
    exact .inl rfl

theorem returnToDoze_receives {s : State} (level : s.power.level = some .dozeRx) :
    s.returnToDoze (some .lineReceive) = s.beginDoze := if_pos ⟨level, rfl⟩

/-! ## Reception at DOZE (R136, R150 to R152) -/

/-- A withdrawal touches Power Control's request and the controller alone (R145). -/
theorem withdrawOrdinary_frames (s : State) :
    ∃ request store, s.withdrawOrdinary = { s with power := { s.power with request := request }, store := store } := by
  unfold State.withdrawOrdinary State.storeWithdraw State.startExit
  split
  · dsimp only
    split <;> split <;> exact ⟨_, _, rfl⟩
  · exact ⟨_, _, rfl⟩

theorem lineWake_dozing {s : State} (level : s.power.level = some .doze ∨ s.power.level = some .enteringDoze) :
    s.lineWake = { s with
      power := { s.power.record .line with level := some .dozeRx, step := .none, asleep := true }
      head := { s.head with sampleTimer := none } }.withdrawOrdinary := by
  unfold State.lineWake
  rcases level with level | level <;> rw [level]

/-- What the first sync at DOZE leaves of the machine, its line port in reception (R104, R136, R150). -/
theorem lineWake_synced {s : State} (level : s.power.level = some .doze ∨ s.power.level = some .enteringDoze)
    (sync : Bits) :
    let u := s.lineWake.setLine (s.lineWake.line.synced sync)
    u.power.level = some .dozeRx ∧ u.power.step = .none ∧ u.power.asleep = true
    ∧ u.power.wakeFirst = some (s.power.wakeFirst.getD .line)
    ∧ u.power.wakeSet = (if .line ∈ s.power.wakeSet then s.power.wakeSet else s.power.wakeSet ++ [.line])
    ∧ u.head = { s.head with sampleTimer := none } ∧ u.line.rx = .storing
    ∧ u.line.rxFifo.flatMap bitsOfByte ++ u.line.assembly = sync
    ∧ u.routes = s.routes ∧ u.pages = s.pages ∧ u.pool = s.pool ∧ u.reports = s.reports
    ∧ (s.power.request = .ordinary → s.store.request = .ordinary →
      (s.store.state = .selfRefresh →
        u.power.request = .ordinary ∧ u.store =
          { s.store with
            state := .waking, request := .none, wakeTimer := some (s.now + 200) })
      ∧ (s.store.state = .entering →
        u.power.request = .none ∧ u.store =
          { s.store with
            state := .on, request := .none, burst := s.store.burst.map Burst.notFinal })) := by
  intro u
  let v : State := { s with
    power := { s.power.record .line with level := some .dozeRx, step := .none, asleep := true }
    head := { s.head with sampleTimer := none } }
  have woken : s.lineWake = v.withdrawOrdinary := lineWake_dozing level
  have recorded := record_eq s.power .line
  have power (t : State) (synced : s.lineWake = t) : u.power = t.power ∧ u.store = t.store := by
    rw [← synced]
    exact ⟨rfl, rfl⟩
  obtain ⟨request, store, frame⟩ := withdrawOrdinary_frames v
  have kept : u = { v with
      power := { v.power with request := request }, store := store, line := s.line.synced sync } := by
    unfold u
    rw [woken, frame]
    rfl
  refine ⟨?_, ?_, ?_, ?_, ?_, ?_, ?_, synced_bits _ sync, ?_, ?_, ?_, ?_, fun ordinary stands =>
    ⟨fun asleep => ?_, fun entering => ?_⟩⟩
  · rw [kept]
  · rw [kept]
  · rw [kept]
  · rw [kept]
    exact (congrArg Power.wakeFirst recorded :)
  · rw [kept]
    exact (congrArg Power.wakeSet recorded :)
  · rw [kept]
  · rfl
  · rw [kept]
  · rw [kept]
  · rw [kept]
  · rw [kept]
  · obtain ⟨exits, -⟩ := withdrawOrdinary_stands (u := v) ordinary stands
    obtain ⟨power, store⟩ := power _ (woken.trans (exits asleep))
    rw [power, store]
    exact ⟨ordinary, rfl⟩
  · obtain ⟨-, returns⟩ := withdrawOrdinary_stands (u := v) ordinary stands
    obtain ⟨power, store⟩ := power _ (woken.trans (returns entering))
    rw [power, store]
    exact ⟨rfl, rfl⟩

theorem wake_dozing {s : State} (level : s.power.level = some .doze) (request : s.power.request = .ordinary)
    (stands : s.store.request = .ordinary) (asleep : s.store.state = .selfRefresh)
    (first : s.power.wakeFirst = none) (set : s.power.wakeSet = []) :
    { s with pins := { s.pins with wake := true } }.takeWake .wake =
      { s with
        pins := { s.pins with wake := true }
        power :=
          { s.power with
            level := some .waking, step := .none, abandoned := false
            wakeFirst := some .wake, wakeSet := [.wake] }
        store :=
          { s.store with
            state := .waking, request := .none, wakeTimer := some (s.now + 200) } } := by
  have woken := takeWake_doze (s := { s with pins := { s.pins with wake := true } }) .wake level request stands asleep
  rw [woken, record_eq]
  dsimp only
  rw [first, set]
  rfl

theorem firstSync_eq (s : State) (r : RouteNo) (bits : Bits) :
    s.firstSync r bits
      = ((s.lineWake.setLine (s.lineWake.line.synced bits)).routeTo r .running).askOpen r .lineReceive := rfl

theorem exec_firstSync_one {s : State} {r : RouteNo} (b : Bool) (slot : s.line.slot = some r)
    (live : (s.route r).live = true) (seeking : s.line.rx = .seeking) (valid : s.pins.lineValid = true) :
    let sync := syncBits (s.storage (s.route r).code)
    let window := (s.line.window ++ [b]).drop ((s.line.window ++ [b]).length - 16)
    sync ≠ [] → sync.isSuffixOf window = true →
      exec (.firstSync [b]) s = .next ((s.firstSync r sync).react.resume s.power.level) := by
  intro sync window some_ suffix
  change Host.Outcome.next ((s.rxBit b).react.resume s.power.level) = _
  rw [rxBit_seeking b slot live seeking valid, if_pos]
  rw [Bool.and_eq_true]
  exact ⟨by simpa using some_, suffix⟩

theorem queueReport_silent {s : State} {x : Report} (quiet : x.isError = false ∨ s.power.quietErrors = true) :
    ∃ q, s.queueReport x = { s with reports := q } := by
  cases error : x.isError with
  | false => exact queueReport_plain s x error
  | true =>
    have silent : s.power.quietErrors = true := quiet.resolve_left (by simp [error])
    unfold State.queueReport
    rw [if_pos error, if_pos silent]
    split <;> exact ⟨_, rfl⟩

theorem endRecord_power (s : State) (r : RouteNo) (f : Fate) : (s.endRecord r f).power = s.power := by
  have released (t : State) (kind : Option RouteKind) : (t.releaseBlocks kind).power = t.power := by
    cases kind with
    | none => rfl
    | some k => cases k <;> rfl
  obtain ⟨pf, sf, tables, steps⟩ := endSteps_eq s r f
  have page : (s.endPage r f).power = s.power := (congrArg State.power (unpaged_endPage s r f) :)
  calc (s.endRecord r f).power = ((s.endSteps r f).releaseBlocks (s.route r).kind).power := rfl
    _ = (s.endSteps r f).power := released _ _
    _ = (s.endPage r f).power := by rw [steps]
    _ = s.power := page

theorem finishRoute_dozes {s : State} {r : RouteNo} {f : Fate} (level : s.power.level = some .dozeRx)
    (receives : (s.route r).kind = some .lineReceive) (quiet : s.power.quietErrors = true ∨ f.cause = none) :
    (s.finishRoute r f).power.level = some .enteringDoze ∨ (s.finishRoute r f).power.level = some .doze := by
  obtain ⟨before, eq⟩ := finishRoute_eq s r f
  have power : ((s.endRecord r f).availChange before).power = s.power :=
    (availChange_keeps (g := State.power) (fun _ => rfl) _ before).trans (endRecord_power s r f)
  have silent : (s.endReport r f).isError = false
      ∨ ((s.endRecord r f).availChange before).power.quietErrors = true := by
    rw [power]
    refine quiet.symm.imp_left fun none_ => ?_
    simp [State.endReport, Report.isError, none_]
  obtain ⟨q, reported⟩ := queueReport_silent silent
  rw [eq, receives, reported, returnToDoze_receives (by rw [← level, ← power])]
  exact beginDoze_level _

theorem rxAgain_dozes {s : State} {r : RouteNo} {p : PageNo} {c : PageClose} (level : s.power.level = some .dozeRx)
    (valid : s.pins.lineValid = true) :
    let u := s.rxAgain r p c
    (u.power.level = some .enteringDoze ∨ u.power.level = some .doze)
      ∧ (u.route r).state = .armed ∧ u.line.rx = .seeking ∧ u.line.slot = some r := by
  let t := (s.closePage r p c).queueReport (.pageDone r (some p) (s.route r).linesDone)
  let w := (t.setRoute r (t.route r).again).setLine
    { LinePort.idlePort with
      slot := some r, rx := .seeking, txd := s.line.txd, dropped := s.line.dropped }
  have power : t.power = s.power := by
    obtain ⟨q, reported⟩ := queueReport_plain (s.closePage r p c) (.pageDone r (some p) (s.route r).linesDone) rfl
    rw [show t = _ from reported]
    exact (congrArg State.power (unpaged_closePage s r p c) :)
  obtain ⟨q, armed⟩ := routeTo_changes w r .armed
  have dozeRx : (w.routeTo r .armed).power.level = some .dozeRx := by
    rw [armed]
    exact (congrArg Power.level power).trans level
  have record : ((w.routeTo r .armed).route r).state = .armed := congrArg Route.state (route_routeTo_same w r .armed)
  have line : (w.routeTo r .armed).line = w.line := by
    rw [armed]
    rfl
  intro u
  have again : u = (w.routeTo r .armed).beginDoze := by
    rw [← returnToDoze_receives dozeRx]
    exact (rxAgain_eq s r p c).trans (if_pos valid)
  have kept := beginDoze_undozed (w.routeTo r .armed)
  rw [again]
  refine ⟨beginDoze_level _, ?_, ?_, ?_⟩
  · exact (congrArg (fun v : State => (v.route r).state) kept :).trans record
  · rw [show (w.routeTo r .armed).beginDoze.line = w.line from (congrArg State.line kept :).trans line]
    rfl
  · rw [show (w.routeTo r .armed).beginDoze.line = w.line from (congrArg State.line kept :).trans line]
    rfl

/-- Settles O58: the wakes by their level, DOZE's entry, the first sync there, and the returns. -/
theorem dozeIsEnteredAndLeft : Obligations.DozeIsEnteredAndLeft := by
  unfold Obligations.DozeIsEnteredAndLeft
  refine ⟨fun s c => ?_, completeRun_spec, fun s => ⟨fun level request stands asleep first set => ?_, rfl⟩,
    fun s level step => ⟨dozeDrainDone_enters level step, dozeDrainDone_waits⟩,
    fun b s r slot live seeking valid level => ?_, fun s r f => finishRoute_dozes,
    fun s r p c => rxAgain_dozes, fun s level => ?_⟩
  · intro record
    rw [show record = s.power.record c from (record_eq s.power c).symm]
    refine ⟨takeWake_awake c, fun level at_ sleeping => ?_, takeWake_deaf c⟩
    rw [takeWake_sleeping c at_ sleeping]
    exact ⟨fun on => if_pos on, fun off => if_neg off⟩
  · exact congrArg (fun t : State => Host.Outcome.next (t.react.resume s.power.level))
      (wake_dozing level request stands asleep first set)
  · intro sync window some_ suffix
    let woken := s.lineWake
    refine ⟨woken.setLine (woken.line.synced sync), ?_, ?_⟩
    · rw [exec_firstSync_one b slot live seeking valid some_ suffix, firstSync_eq]
    · exact lineWake_synced level sync
  · intro off
    rw [returnToDoze_receives level]
    exact ⟨beginDoze_drains, beginDoze_enters⟩

end Sys2Proof.Machine
end

section
/-! PROOF. The books of the pages, of the blocks and of the claims, as they are stated, are not kept from every state
that meets them: what they leave open (the burst in progress, the scrub position before a replay ends) lets one step
spoil each. -/

namespace Sys2Proof.Machine

/-- The step leads to a next state, of which `f` holds. -/
def State.stepsTo (s : State) (f : State → Bool) : Bool :=
  match step s with
  | .next t => f t
  | _ => false

theorem stepsTo_next {s : State} {f : State → Bool} (h : s.stepsTo f = true) : ∃ t, step s = .next t ∧ f t = true := by
  unfold State.stepsTo at h
  split at h
  · exact ⟨_, ‹_›, h⟩
  · cases h

/-! ## The pages: a header burst that is none of its boot state -/

/-- COLD-CLEAR with FAIL-SAFE's CLEAN header in progress, which the books of the pages do not exclude. -/
def strayClean : State :=
  { State.reset with
    pending := [.burstEnd []]
    store :=
      { State.reset.store with
        state := .selfRefresh, initLeft := 0
        burst := some { kind := .header .failSafe [], orphan := false, page := none } }
    boot := { State.reset.boot with state := .coldClear, task := .clear 0 } }

theorem strayClean_pageBooks : strayClean.PageBooks := by
  obtain ⟨entries, routes, slots, -⟩ := reset_pageBooks
  exact ⟨entries, routes, slots, by unfold State.bootBooked; decide +kernel⟩

/-- Its end leaves COLD-CLEAR without work in hand. -/
theorem strayClean_steps :
    strayClean.stepsTo (fun t => !taskFits t.pool.state t.boot.state t.boot.task) = true := by decide +kernel

/-- Refutes O5: the burst in progress stands in none of the books of the pages, and the end of a CLEAN header of
FAIL-SAFE in COLD-CLEAR takes the Boot Controller's work from its hand. -/
theorem not_stepKeepsThePageBooks : ¬ Obligations.StepKeepsThePageBooks := by
  intro keeps
  obtain ⟨t, next, unfit⟩ := stepsTo_next strayClean_steps
  obtain ⟨-, -, -, fits, -⟩ := keeps strayClean t strayClean_pageBooks next
  simp [fits] at unfit

/-! ## The blocks: a scrub position that a replay's end leaves beyond the default geometry -/

/-- Replay at its first byte, with the largest geometry and the scrub position beyond the default one. -/
def farScrub : State :=
  { State.reset with
    pending := [.romByte 0]
    store := { State.reset.store with geometry := 4096, scrubPos := 1024 * Config.blockWords }
    boot := { State.reset.boot with state := .romReplay } }

theorem farScrub_pageBooks : farScrub.PageBooks := by
  obtain ⟨entries, routes, slots, -⟩ := reset_pageBooks
  exact ⟨entries, routes, slots, by unfold State.bootBooked; decide +kernel⟩

theorem farScrub_poolBooks : farScrub.PoolBooks := by
  refine ⟨fun h => absurd h (by decide +kernel), by decide +kernel, fun h => absurd rfl h, nofun, by decide +kernel,
    nofun, by decide +kernel, by decide +kernel, fun _ => by decide +kernel, nofun, nofun, fun _ => ⟨?_, rfl, rfl⟩,
    nofun⟩
  unfold State.freeFrom; decide +kernel

/-- The framing fault sets the default geometry and leaves the scrub position. -/
theorem farScrub_steps :
    farScrub.stepsTo (fun t => decide (t.pool.state ≠ .clearing)
      && decide (t.store.geometry * Config.blockWords ≤ t.store.scrubPos)) = true := by decide +kernel

/-- Refutes O6: before a replay ends the books leave the geometry and the scrub position open, and a replay that ends
BAD returns the geometry to its default (R160), the scrub position standing beyond it. -/
theorem not_stepKeepsTheBlockBooks : ¬ Obligations.StepKeepsTheBlockBooks := by
  intro keeps
  obtain ⟨t, next, beyond⟩ := stepsTo_next farScrub_steps
  simp only [Bool.and_eq_true, decide_eq_true_eq] at beyond
  obtain ⟨-, -, -, -, -, -, -, -, within, -⟩ := keeps farScrub t farScrub_pageBooks farScrub_poolBooks next
  exact absurd (within beyond.1) (Nat.not_lt.2 beyond.2)

/-! ## The claims: a RELEASE at READY with COVER open -/

/-- An ARMED COPY with COVER open and no engine in FAULT, and RELEASE's LIVE header in progress at READY, which neither
the books of the pages nor those of the claims exclude. -/
def strayLive : State :=
  { State.reset with
    pending := [.burstEnd []]
    pins := { State.reset.pins with coverOpen := true }
    parser := { Parser.start with source := .port }
    store :=
      { State.reset.store with
        state := .selfRefresh, initLeft := 0
        burst := some { kind := .header .release [], orphan := false, page := none } }
    routes := State.reset.routes.set 0 { Route.idleRecord with kind := some .copy, state := .armed }
    engines := { State.reset.engines with scanner := some 0, printer := some 0 }
    power := { State.reset.power with level := some .run }
    boot := { State.reset.boot with state := .ready } }

theorem strayLive_pageBooks : strayLive.PageBooks := by
  refine ⟨?_, fun r => ?_, ⟨?_, ?_, nofun, nofun, nofun, nofun, nofun, fun h => absurd rfl h, fun h => absurd rfl h,
    nofun, nofun, nofun⟩, ?_⟩
  · unfold State.entryBooked State.writes; decide +kernel
  · obtain rfl | other := eq_or_ne r 0
    · exact ⟨nofun, fun _ => rfl, nofun, nofun⟩
    · have idle : strayLive.route r = Route.idleRecord := by revert r; decide +kernel
      rw [idle]
      exact ⟨fun _ => ⟨rfl, rfl, rfl⟩, nofun, nofun, nofun⟩
  iterate 2 · unfold State.serves; decide +kernel
  · unfold State.bootBooked; decide +kernel

theorem strayLive_bindBooks : strayLive.BindBooks := by
  refine ⟨?_, ?_, ?_, ?_, ?_, ?_, ?_, by decide +kernel, ?_, ?_, nofun, nofun, nofun, nofun, by decide +kernel, nofun⟩
  iterate 7 · unfold State.claimBooked; decide +kernel
  all_goals unfold State.motorBooked; decide +kernel

/-- RELEASE puts both engines into FAULT and leaves the COPY live. -/
theorem strayLive_steps :
    strayLive.stepsTo
      (fun t => t.engines.scannerFault && (t.engines.scanner == some 0) && (t.route 0).live) = true := by
  decide +kernel

/-- Refutes O7: the burst in progress stands in neither books, and the end of RELEASE's header at READY puts the engines
into FAULT as COVER stands (R165) with a live route claiming them. -/
theorem not_stepKeepsTheBindings : ¬ Obligations.StepKeepsTheBindings := by
  intro keeps
  obtain ⟨t, next, faulty⟩ := stepsTo_next strayLive_steps
  simp only [Bool.and_eq_true, beq_iff_eq] at faulty
  obtain ⟨⟨fault, claim⟩, live⟩ := faulty
  obtain ⟨-, -, -, -, -, -, -, -, -, -, unclaimed, -⟩ := keeps strayLive t strayLive_pageBooks strayLive_bindBooks next
  exact absurd (unclaimed fault 0 claim) (by simp [live])

end Sys2Proof.Machine
end

section
/-! PROOF. The queues within their capacities (`State.queuesWf`): which parts they are, one rule for each block that
holds some, and that they are kept by what the requests, the levels and the pool do. -/

namespace Sys2Proof.Machine

/-! ## The parts -/

/-- The parts that `State.queuesWf` speaks of, whether a COPY holds SCANNER apart. -/
def State.queueView (s : State) :=
  (s.pool.spare, s.pool.dirQueue, s.scanner.coding, s.scanner.ready, s.scanner.capturing, s.scanner.captured,
    s.head.ready, s.head.capturing, s.head.capacity, s.printDec.fetch.queue, s.line.fetch.queue,
    s.hostOut.fetch.queue, s.coming, s.line.fill, s.line.markAt, s.line.txFifo)

/-- The fills of a Line Port are within 4800 (R135, R142). -/
def LinePort.fillsWf (l : LinePort) : Prop :=
  l.fill ≤ Config.fillCap ∧ (∀ m ∈ l.markAt, m.2 ≤ Config.fillCap)
    ∧ ∀ b ∈ l.txFifo, ∀ m ∈ b.mark, m.2 ≤ Config.fillCap

namespace State.queuesWf

variable {s t : State}

/-- The parts are the same, and no route is a COPY that was none. -/
theorem ofView (h : s.queuesWf) (view : t.queueView = s.queueView)
    (copy : t.copying = true → s.copying = true) : t.queuesWf := by
  simp only [State.queueView, Prod.mk.injEq] at view
  obtain ⟨e1, e2, e3, e4, e5, e6, e7, e8, e9, e10, e11, e12, e13, e14, e15, e16⟩ := view
  obtain ⟨h1, h2, h3, h4, h5, h6, h7, h8, h9, h10, h11, h12, h13⟩ := h
  unfold State.queuesWf
  rw [e1, e2, e3, e4, e5, e6, e7, e8, e9, e10, e11, e12, e13, e14, e15, e16]
  exact ⟨h1, h2, h3, fun c => h4 (copy c), h5, h6, h7, h8, h9, h10, h11, h12, h13⟩

/-- An update of other parts and of no route. -/
theorem frame (h : s.queuesWf) (same : s.queuesWf = t.queuesWf) : t.queuesWf := same ▸ h

/-- The queues of the pool. -/
theorem pool (h : s.queuesWf) (p : Pool) (spare : p.spare.length ≤ Config.spareCap)
    (dir : p.dirQueue.length ≤ Config.dirCap) : { s with pool := p }.queuesWf :=
  ⟨spare, dir, h.2.2⟩

/-- The scan ring and the captured count. -/
theorem scanner (h : s.queuesWf) (c : Scanner) (ring : c.coding.toNat + c.ready.length + c.capturing.toNat ≤ 4)
    (copy : s.copying = true → c.coding = false ∧ c.ready = []) (count : c.captured ≤ 65535) :
    { s with scanner := c }.queuesWf := by
  obtain ⟨h1, h2, -, -, h5, h6, h7, h8, h9, h10, h11, h12, -⟩ := h
  exact ⟨h1, h2, ring, copy, h5, h6, h7, h8, h9, h10, h11, h12, count⟩

/-- The scan ring empty. -/
theorem emptyScanner (h : s.queuesWf) (c : Scanner) (coding : c.coding = false) (ready : c.ready = [])
    (count : c.captured ≤ 65535) : { s with scanner := c }.queuesWf :=
  h.scanner c (by rw [coding, ready]; cases c.capturing <;> decide) (fun _ => ⟨coding, ready⟩) count

/-- The print or copy ring. -/
theorem head (h : s.queuesWf) (x : Head) (ring : x.ready.length + x.capturing.toNat ≤ x.capacity)
    (slots : x.capacity = 4 ∨ x.capacity = 8) : { s with head := x }.queuesWf := by
  obtain ⟨h1, h2, h3, h4, -, -, h7⟩ := h
  exact ⟨h1, h2, h3, h4, ring, slots, h7⟩

/-- The Print Decoder's queue, no longer than it was. -/
theorem printDec (h : s.queuesWf) (d : PrintDecoder)
    (fits : d.fetch.queue.length ≤ s.printDec.fetch.queue.length) : { s with printDec := d }.queuesWf := by
  obtain ⟨h1, h2, h3, h4, h5, h6, h7, h8⟩ := h
  exact ⟨h1, h2, h3, h4, h5, h6, (Nat.add_le_add_right fits _).trans h7, h8⟩

/-- HOST-OUT's queue, no longer than it was. -/
theorem hostOut (h : s.queuesWf) (x : HostOut) (fits : x.fetch.queue.length ≤ s.hostOut.fetch.queue.length) :
    { s with hostOut := x }.queuesWf := by
  obtain ⟨h1, h2, h3, h4, h5, h6, h7, h8, h9, h10⟩ := h
  exact ⟨h1, h2, h3, h4, h5, h6, h7, h8, (Nat.add_le_add_right fits _).trans h9, h10⟩

/-- The Line Port with its fetched words no more than they were. -/
theorem line (h : s.queuesWf) (l : LinePort) (fits : l.fetch.queue.length ≤ s.line.fetch.queue.length)
    (fills : l.fillsWf) : { s with line := l }.queuesWf := by
  obtain ⟨h1, h2, h3, h4, h5, h6, h7, h8, h9, -, -, -, h13⟩ := h
  exact ⟨h1, h2, h3, h4, h5, h6, h7, (Nat.add_le_add_right fits _).trans h8, h9, fills.1, fills.2.1, fills.2.2, h13⟩

/-- The Line Port with nothing in hand. -/
theorem idleLine (h : s.queuesWf) (l : LinePort) (queue : l.fetch.queue = []) (fill : l.fill = 0)
    (mark : l.markAt = none) (fifo : l.txFifo = []) : { s with line := l }.queuesWf :=
  h.line l (by simp [queue]) ⟨by simp [fill], by simp [mark], by simp [fifo]⟩

/-- The burst in progress brings no reader more. -/
theorem store (h : s.queuesWf) (x : Store) (fewer : ∀ r, { s with store := x }.coming r ≤ s.coming r) :
    { s with store := x }.queuesWf := by
  obtain ⟨h1, h2, h3, h4, h5, h6, h7, h8, h9, h10⟩ := h
  exact ⟨h1, h2, h3, h4, h5, h6, (Nat.add_le_add_left (fewer _) _).trans h7, (Nat.add_le_add_left (fewer _) _).trans h8,
    (Nat.add_le_add_left (fewer _) _).trans h9, h10⟩

/-- An update of other parts and of the routes, their kinds and the claims kept. -/
theorem frameRoutes (h : s.queuesWf) (view : t.queueView = s.queueView) (claims : t.engines.scanner = s.engines.scanner)
    (kinds : ∀ r, (t.route r).kind = (s.route r).kind) : t.queuesWf :=
  h.ofView view fun copy => by
    unfold State.copying at copy ⊢
    rw [claims] at copy
    split at copy
    · rename_i r eq
      simp only [Route.isKind] at copy ⊢
      rwa [kinds r] at copy
    · cases copy

theorem setRoute (h : s.queuesWf) (r : RouteNo) (x : Route) (kind : x.kind = (s.route r).kind) :
    (s.setRoute r x).queuesWf :=
  h.frameRoutes rfl rfl fun q => by
    rw [route_setRoute]
    split
    · subst_vars; exact kind
    · rfl

theorem setMotor (h : s.queuesWf) (m : MotorName) (x : Motor) : (s.setMotor m x).queuesWf := by
  cases m <;> exact h.frame (by rfl)

theorem setPage (h : s.queuesWf) (p : PageNo) (e : PageEntry) : (s.setPage p e).queuesWf := h.frame (by rfl)
theorem setTable (h : s.queuesWf) (i : TableNo) (x : TableSlot) : (s.setTable i x).queuesWf := h.frame (by rfl)
theorem bind (h : s.queuesWf) (i : TableNo) : (s.bind i).queuesWf := h.frame (by rfl)
theorem unbind (h : s.queuesWf) (i : TableNo) : (s.unbind i).queuesWf := h.frame (by rfl)
theorem setRebuild (h : s.queuesWf) (b : Rebuild) : (s.setRebuild b).queuesWf := h.frame (by rfl)
theorem setBoot (h : s.queuesWf) (b : Boot) : (s.setBoot b).queuesWf := h.frame (by rfl)
theorem clearDamage (h : s.queuesWf) (p : PageNo) : (s.clearDamage p).queuesWf := h.frame (by rfl)
theorem disownDamage (h : s.queuesWf) (r : RouteNo) : (s.disownDamage r).queuesWf := h.frame (by rfl)
theorem reach (h : s.queuesWf) (d : Nat) : (s.reach d).queuesWf := h.frame (by rfl)
theorem putReport (h : s.queuesWf) (x : Report) (w : Bool) : (s.putReport x w).queuesWf := h.frame (by rfl)
theorem clearWithheld (h : s.queuesWf) : s.clearWithheld.queuesWf := h.frame (by rfl)
theorem holdsOff (h : s.queuesWf) : s.holdsOff.queuesWf := h.frame (by rfl)
theorem supplyOff (h : s.queuesWf) : s.supplyOff.queuesWf := h.frame (by rfl)
theorem startExit (h : s.queuesWf) : s.startExit.queuesWf := h.frame (by rfl)
theorem takeWatermark (h : s.queuesWf) : s.takeWatermark.queuesWf := h.frame (by rfl)

theorem ite {c : Prop} [Decidable c] {a b : State} (ha : a.queuesWf) (hb : b.queuesWf) :
    (if c then a else b).queuesWf := by split <;> assumption

theorem foldl {α : Type} (f : State → α → State) (step : ∀ {u : State} x, u.queuesWf → (f u x).queuesWf) (l : List α)
    (h : s.queuesWf) : (l.foldl f s).queuesWf := by
  induction l generalizing s with
  | nil => exact h
  | cons x l ih => exact ih (step x h)

/-! ## The directory write queue (R21) -/

/-- The places that a producer's test leaves it. -/
theorem room (h : s.queuesWf) {n : Nat} (places : n ≤ s.dirPlaces) :
    s.pool.dirQueue.length + n ≤ Config.dirCap := by
  have := h.2.1
  unfold State.dirPlaces at places
  split at places <;> omega

theorem queueLink (h : s.queuesWf) (b : Nat) (v : Word) (free : s.pool.dirQueue.length + 1 ≤ Config.dirCap) :
    (s.queueLink b v).queuesWf :=
  h.pool _ h.1 (by simpa using free)

theorem queueImage (h : s.queuesWf) (p : PageNo)
    (free : s.pool.dirQueue.length + s.imageNeed p ≤ Config.dirCap) : (s.queueImage p).queuesWf := by
  unfold State.queueImage
  split
  · exact h
  · refine h.pool _ h.1 ?_
    simp only [List.length_append, List.length_singleton]
    omega

/-! ## The levels and the requests (R38 to R41, R105, R148 to R152) -/

theorem supplyOn (h : s.queuesWf) : s.supplyOn.queuesWf := ite h (ite (h.frame (by rfl)) (h.frame (by rfl)))

theorem storeWithdraw (h : s.queuesWf) : s.storeWithdraw.queuesWf := by
  unfold State.storeWithdraw
  split
  · refine h.store _ fun r => ?_
    unfold State.coming Burst.notFinal
    cases s.store.burst with
    | none => exact Nat.le_refl _
    | some b => obtain ⟨kind, orphan, page⟩ := b; cases kind <;> exact Nat.le_refl _
  · exact h.startExit
  · exact h.frame (by rfl)

theorem withdrawOrdinary (h : s.queuesWf) : s.withdrawOrdinary.queuesWf :=
  ite (ite (h.storeWithdraw.frame (by rfl)) h.storeWithdraw) h

theorem converterOn (h : s.queuesWf) : s.converterOn.queuesWf := ite (h.frame (by rfl)) h

theorem completeRun (h : s.queuesWf) : s.completeRun.queuesWf :=
  have powered : { s with power :=
      { s.power with level := some .run, step := .none, drivesOff := false, abandoned := false } }.queuesWf :=
    h.frame (by rfl)
  (ite (c := s.power.drivesOff = true) powered.supplyOn powered).clearWithheld.converterOn.putReport _ _

theorem fullWake (h : s.queuesWf) : s.fullWake.queuesWf :=
  have powered : { s with power :=
      { s.power with level := some .waking, step := .none
                     abandoned := s.power.level == some Level.enteringDoze } }.queuesWf := h.frame (by rfl)
  ite powered.withdrawOrdinary.completeRun powered.withdrawOrdinary

theorem takeWake (h : s.queuesWf) (c : WakeCause) : (s.takeWake c).queuesWf := by
  unfold State.takeWake
  split
  iterate 2 exact h.frame (by rfl)
  iterate 3 exact fullWake (h.frame (by rfl))
  exact h

theorem queueReport (h : s.queuesWf) (x : Report) : (s.queueReport x).queuesWf :=
  ite (h.putReport x _) (ite (ite (h.putReport x _) ((h.putReport x _).takeWake _)) (h.putReport x _))

theorem placeRequest (h : s.queuesWf) : s.placeRequest.queuesWf := by
  unfold State.placeRequest
  dsimp only
  split <;> exact h.frame (by rfl)

theorem enterSelfRefresh (h : s.queuesWf) : s.enterSelfRefresh.queuesWf := by
  unfold State.enterSelfRefresh
  dsimp only
  split <;> exact h.frame (by rfl)

end State.queuesWf

/-! ## The grants of the arbiter (R26, R56) -/

/-- A reader's burst has room for its words in the reader's queue; any other needs none. -/
def State.roomFor (s : State) : BurstKind → Prop
  | .fetchWords x _ n => (s.fetchOf x).queue.length + n ≤ Config.wordQueueCap
  | _ => True

theorem fetchBurst_room (s : State) (x : Reader) (b : BurstKind) (h : fetchBurst x (s.fetchOf x) = some b) :
    s.roomFor b := by
  unfold fetchBurst at h
  dsimp only at h
  split at h
  · cases h
  · split at h
    · cases h; trivial
    · split at h
      · cases h; assumption
      · cases h

theorem wantTx_room (s : State) (b : BurstKind) (h : s.wantTx = some b) : s.roomFor b := by
  unfold State.wantTx at h
  split at h
  · exact fetchBurst_room s .line b h
  · cases h

theorem wantPrint_room (s : State) (b : BurstKind) (h : s.wantPrint = some b) : s.roomFor b := by
  unfold State.wantPrint at h
  split at h
  · exact fetchBurst_room s .print b h
  · cases h

theorem wantHostOut_room (s : State) (b : BurstKind) (h : s.wantHostOut = some b) : s.roomFor b := by
  unfold State.wantHostOut at h
  split at h
  · exact fetchBurst_room s .host b h
  · cases h

theorem wantRx_room (s : State) (b : BurstKind) (h : s.wantRx = some b) : s.roomFor b := by
  unfold State.wantRx at h
  split at h
  · cases h
  · extract_lets at h
    split at h <;> cases h
    trivial

theorem wantScan_room (s : State) (b : BurstKind) (h : s.wantScan = some b) : s.roomFor b := by
  unfold State.wantScan at h
  split at h
  · cases h
  · extract_lets at h
    split at h <;> cases h
    trivial

theorem wantHostIn_room (s : State) (b : BurstKind) (h : s.wantHostIn = some b) : s.roomFor b := by
  unfold State.wantHostIn at h
  split at h
  · cases h
  · extract_lets at h
    split at h <;> cases h
    trivial

theorem dirSources_room (s : State) (b : BurstKind) (h : b ∈ s.dirSources) : s.roomFor b := by
  cases b
  case fetchWords x a n =>
    simp only [State.dirSources, List.mem_filterMap, id, exists_eq_right, List.mem_cons, List.not_mem_nil,
      or_false] at h
    obtain h | h | h | h := h
    · unfold State.dirBurst at h; split at h <;> cases h
    · unfold State.refillBurst at h
      split at h
      · split at h <;> cases h
      · cases h
    · unfold State.walkBurst at h
      split at h
      · split at h <;> cases h
      · cases h
    · unfold State.bootBurst at h
      split at h <;> try cases h
      split at h <;> cases h
  all_goals trivial

theorem onOrder_room (s : State) (dir : Option BurstKind) (source : ∀ b, dir = some b → s.roomFor b) (b : BurstKind)
    (h : s.onOrder dir = some b) : s.roomFor b := by
  unfold State.onOrder at h
  simp only [Option.orElse_eq_or, Option.or_eq_some_iff, Option.orElse_eq_orElse] at h
  obtain h | ⟨-, h | ⟨-, h | ⟨-, h | ⟨-, h | ⟨-, h | ⟨-, h | ⟨-, h | ⟨-, h | ⟨-, h⟩⟩⟩⟩⟩⟩⟩⟩⟩ := h
  · split at h <;> cases h; trivial
  · exact wantRx_room s b h
  · exact wantTx_room s b h
  · exact wantPrint_room s b h
  · exact source b h
  · exact wantScan_room s b h
  · exact wantHostIn_room s b h
  · exact wantHostOut_room s b h
  · split at h <;> cases h; trivial
  · split at h <;> cases h; trivial

theorem enteringOrder_room (s : State) (b : BurstKind) (h : s.enteringOrder = some b) : s.roomFor b := by
  unfold State.enteringOrder at h
  split at h
  · cases h
  · simp only [Option.orElse_eq_or, Option.or_eq_some_iff, Option.orElse_eq_orElse] at h
    obtain h | ⟨-, h | ⟨-, h | ⟨-, h⟩⟩⟩ := h
    · split at h <;> cases h; trivial
    · exact wantRx_room s b h
    · exact wantTx_room s b h
    · split at h
      · exact wantPrint_room s b h
      · cases h

theorem nextBurst_room (s : State) (b : BurstKind) (h : s.nextBurst.1 = some b) : s.roomFor b := by
  unfold State.nextBurst at h
  split at h
  · split at h <;> cases h
    trivial
  · split at h
    · exact onOrder_room s none nofun b h
    · exact onOrder_room s _ (fun c at_ => dirSources_room s c (List.mem_of_getElem? at_)) b h
  · exact enteringOrder_room s b h
  all_goals cases h

/-- A free choice changes the model's counter alone. -/
theorem choose_state (s : State) (k : Nat) : ∃ n, (s.choose k).2 = { s with choices := n } := by
  unfold State.choose
  split <;> exact ⟨_, rfl⟩

theorem nextBurst_state (s : State) : ∃ n, s.nextBurst.2 = { s with choices := n } := by
  unfold State.nextBurst
  split
  case h_2 =>
    split
    · exact ⟨_, rfl⟩
    · exact choose_state s _
  all_goals exact ⟨_, rfl⟩

namespace State.queuesWf

variable {s : State}

/-- A burst with room for its words begins. -/
theorem burst (h : s.queuesWf) (x : Store) (b : Burst) (begun : x.burst = some b) (fits : s.roomFor b.kind) :
    { s with store := x }.queuesWf := by
  have room (r : Reader) : (s.fetchOf r).queue.length + { s with store := x }.coming r ≤ Config.wordQueueCap := by
    obtain ⟨-, -, -, -, -, -, print, line, host, -⟩ := h
    have within : (s.fetchOf r).queue.length ≤ Config.wordQueueCap := by
      cases r <;> exact (Nat.le_add_right _ _).trans ‹_›
    obtain ⟨kind, orphan, page⟩ := b
    unfold State.coming
    simp only [begun]
    split
    · rename_i eq
      cases eq
      split
      · subst_vars; exact fits
      · exact within
    · exact within
  obtain ⟨h1, h2, h3, h4, h5, h6, -, -, -, h10⟩ := h
  exact ⟨h1, h2, h3, h4, h5, h6, room .print, room .line, room .host, h10⟩

theorem granted (h : s.queuesWf) (b : BurstKind) (fits : s.roomFor b) : (s.granted b).queuesWf := by
  have begun : { s with store :=
      { s.store with burst := some { kind := b, orphan := false, page := s.burstPage b } } }.queuesWf :=
    h.burst _ _ rfl fits
  unfold State.granted
  dsimp only
  split
  · exact begun.frame (by rfl)
  · exact begun.frame (by rfl)
  · split
    · split
      · refine begun.pool _ h.1 ?_
        have := h.2.1
        simp_all
      · exact begun
    · exact begun
  · exact begun

theorem grantNext (h : s.queuesWf) {t : State} (next : s.grantNext = some t) : t.queuesWf := by
  unfold State.grantNext at next
  split at next
  · cases next; exact h
  · split at next
    · rename_i b u order
      split at next
      · cases next
        obtain ⟨n, state⟩ := nextBurst_state s
        rw [order] at state
        subst state
        exact granted (s := { s with choices := n }) (h.frame (by rfl)) b (nextBurst_room s b (by rw [order]))
      · cases next
    · cases next; exact h

theorem entryAdvance (h : s.queuesWf) : s.entryAdvance.queuesWf := ite (ite (h.granted _ trivial) h.enterSelfRefresh) h

theorem beginDoze (h : s.queuesWf) : s.beginDoze.queuesWf := by
  unfold State.beginDoze
  extract_lets off power entering
  have enters : entering.queuesWf := h.supplyOff.holdsOff.frame (by rfl)
  exact ite (entryAdvance (placeRequest (enters.frame (by rfl)))) enters

end State.queuesWf
end Sys2Proof.Machine
end

section
/-! PROOF. The queues within their capacities, kept by the pool, the strobes, the motors and the ends of routes. -/

namespace Sys2Proof.Machine

/-! ## Places that an image write needs (R2) -/

@[simp] theorem imageNeed_queueLink (s : State) (b : Nat) (v : Word) (p : PageNo) :
    (s.queueLink b v).imageNeed p = s.imageNeed p := by
  simp [State.imageNeed, State.queueLink, DirItem.isFreshImage]

/-- A chain that joins the free list takes the places that its link word needs, and no image write begins or ends. -/
theorem splice_places (s : State) (p q : PageNo) (c : Chain) :
    (s.splice p c).pool.dirQueue.length ≤ s.pool.dirQueue.length + s.spliceNeed
      ∧ (s.splice p c).imageNeed q = s.imageNeed q := by
  unfold State.splice
  split
  · exact ⟨Nat.le_add_right _ _, rfl⟩
  · dsimp only
    split
    · split
      · refine ⟨?_, imageNeed_queueLink s _ _ q⟩
        simp only [State.queueLink, List.length_append, List.length_singleton]
        omega
      · exact ⟨Nat.le_add_right _ _, rfl⟩
    · exact ⟨Nat.le_add_right _ _, rfl⟩

/-- The clamped remainders leave the kinds of the routes (R18). -/
theorem clampRemainders_kind (total : Nat) (xs : List Route) (i : Nat) (x : Route) :
    ((clampRemainders total xs).getD i x).kind = (xs.getD i x).kind := by
  induction xs generalizing total i with
  | nil => rfl
  | cons y ys ih =>
    cases i with
    | zero => rfl
    | succ i => exact ih _ i

namespace State.queuesWf

variable {s : State}

/-! ## The pool (R3 to R20) -/

theorem routeTo (h : s.queuesWf) (r : RouteNo) (x : RouteState) : (s.routeTo r x).queuesWf := by
  unfold State.routeTo
  have set : (s.setRoute r { s.route r with state := x }).queuesWf := h.setRoute r _ (by rfl)
  cases x
  case idle => exact set
  all_goals exact set.queueReport _

theorem availChange (h : s.queuesWf) (before : Nat) : (s.availChange before).queuesWf := by
  obtain ⟨q, rs, al, a, b, eq, states⟩ := availChange_changes s before
  rw [eq]
  refine h.frameRoutes rfl rfl fun r => ?_
  obtain ⟨state, record⟩ := states r
  change rs[r].kind = _
  rw [record]

theorem takeSpare (h : s.queuesWf) (r : RouteNo) : (s.takeSpare r).queuesWf := by
  have taken : { s with pool := { s.pool with spare := s.pool.spare.tail } }.queuesWf :=
    h.pool _ ((List.length_tail.trans_le (Nat.sub_le _ _)).trans h.1) h.2.1
  exact taken.setRoute r _ (by rfl)

theorem extendPage (h : s.queuesWf) (r : RouteNo) (p : PageNo)
    (free : s.pool.dirQueue.length + (2 + s.imageNeed p) ≤ Config.dirCap) : (s.extendPage r p).queuesWf := by
  unfold State.extendPage
  extract_lets before b e taken linked paged
  have links : linked.queuesWf :=
    queueLink (queueLink (h.takeSpare r) _ _ (by simp [State.takeSpare]; omega)) _ _ (by simp [State.takeSpare]; omega)
  have need : linked.imageNeed p = s.imageNeed p := by simp only [linked, imageNeed_queueLink]; rfl
  exact availChange (queueImage (links.setPage p _) p (by
    change linked.pool.dirQueue.length + linked.imageNeed p ≤ _
    rw [need]; simp [linked, taken, State.takeSpare]; omega)) _

theorem openEntry (h : s.queuesWf) (r : RouteNo) (p : PageNo) (origin : Origin)
    (free : s.pool.dirQueue.length + (1 + s.imageNeed p) ≤ Config.dirCap) : (s.openEntry r p origin).queuesWf := by
  unfold State.openEntry
  dsimp -proj only
  refine availChange (queueReport (setRoute
    (queueImage (queueLink (setPage (h.takeSpare r) p _) _ _ ?_) p ?_) r _ (by rfl)) _) _
  · change s.pool.dirQueue.length + 1 ≤ _
    omega
  · rw [imageNeed_queueLink]
    simp only [queueLink_dirQueue, List.length_append, List.length_singleton]
    change s.pool.dirQueue.length + 1 + s.imageNeed p ≤ _
    omega

theorem closePage (h : s.queuesWf) (r : RouteNo) (p : PageNo) (c : PageClose)
    (free : s.pool.dirQueue.length + s.imageNeed p ≤ Config.dirCap) : (s.closePage r p c).queuesWf := by
  unfold State.closePage
  dsimp -proj only
  exact queueReport (setRoute (queueImage (h.setPage p _) p free) r _ (by rfl)) _

theorem setDamaged (h : s.queuesWf) (p : PageNo)
    (free : s.pool.dirQueue.length + s.imageNeed p ≤ Config.dirCap) : (s.setDamaged p).queuesWf :=
  queueReport (queueImage (h.setPage p _) p free) _

theorem flagDamaged (h : s.queuesWf) (p : PageNo) (r : Option RouteNo) : (s.flagDamaged p r).queuesWf := by
  unfold State.flagDamaged
  refine ite ?_ h
  split
  · exact h.setDamaged p (h.room ‹_›)
  · exact h.frame (by rfl)

theorem damageTurn (h : s.queuesWf) (x : PageNo × Option RouteNo) : (s.damageTurn x).queuesWf :=
  ite ((h.clearDamage _).flagDamaged _ _) h

theorem damagePass (h : s.queuesWf) : s.damagePass.queuesWf := foldl _ (fun x k => k.damageTurn x) _ h

theorem splice (h : s.queuesWf) (p : PageNo) (c : Chain)
    (free : s.pool.dirQueue.length + s.spliceNeed ≤ Config.dirCap) : (s.splice p c).queuesWf := by
  obtain ⟨pool, eq, -, spare, -⟩ := splice_changes s p c
  have places := (splice_places s p p c).1
  rw [eq] at places ⊢
  exact h.pool pool (spare ▸ h.1) (places.trans free)

/-- A burst in progress is of the kind it was. -/
theorem burstKind (h : s.queuesWf) (x : Store)
    (kind : x.burst.map Burst.kind = s.store.burst.map Burst.kind) : { s with store := x }.queuesWf := by
  refine h.store x fun r => Nat.le_of_eq ?_
  unfold State.coming
  dsimp only
  cases old : s.store.burst with
  | none => rw [old] at kind; rw [Option.map_eq_none_iff.1 kind]
  | some b =>
    rw [old] at kind
    obtain ⟨c, new, same⟩ := Option.map_eq_some_iff.1 kind
    obtain ⟨k, o, p⟩ := b
    obtain ⟨k', o', p'⟩ := c
    cases same
    rw [new]
    cases k <;> rfl

theorem freePage (h : s.queuesWf) (p : PageNo)
    (free : s.pool.dirQueue.length + s.freeNeed p ≤ Config.dirCap) : (s.freePage p).queuesWf := by
  unfold State.freeNeed at free
  unfold State.freePage
  dsimp -proj only
  obtain ⟨places, need⟩ :=
    splice_places s p p { head := (s.page p).head, tail := (s.page p).tail, count := (s.page p).blockCount }
  refine availChange (queueReport (queueImage (setPage (burstKind
    (clearDamage (h.splice p _ (by omega)) p) _ ?_) p _) p ?_) _) _
  · simp [Option.map_map, Function.comp_def, Burst.forget]
  · change (s.splice p _).pool.dirQueue.length + (s.splice p _).imageNeed p ≤ _
    omega

theorem dropPage (h : s.queuesWf) (p : PageNo)
    (free : s.pool.dirQueue.length + s.imageNeed p ≤ Config.dirCap) : (s.dropPage p).queuesWf :=
  queueReport (queueImage (h.setPage p _) p free) _

theorem strand (h : s.queuesWf) : s.strand.queuesWf := by
  unfold State.strand
  dsimp -proj only
  refine availChange (queueReport (frameRoutes (s := s) h ?_ ?_ fun r => ?_) _) _
  · rfl
  · rfl
  · simp only [State.route, Fin.getElem_fin, Vector.getElem_mapIdx, clampRemainders_kind]
    simp

theorem refill (h : s.queuesWf) (link : Option Word) (free : s.pool.spare.length < Config.spareCap) :
    (s.refill link).queuesWf := by
  unfold State.refill
  extract_lets left good next
  refine ite (h.pool _ ?_ h.2.1) h.strand
  have := Option.length_toList_le (o := s.pool.freeHead)
  simp only [List.length_append]
  omega

theorem refillPass (n : Nat) (h : s.queuesWf) : (State.refillPass n s).queuesWf := by
  induction n generalizing s with
  | zero => exact h
  | succ n ih =>
    unfold State.refillPass
    split
    · split
      · split
        · rename_i refills
          simp only [State.refilling, Bool.and_eq_true, decide_eq_true_eq] at refills
          exact ih (h.refill _ refills.1.1.1.1.2)
        · exact h
      · exact h
    · exact h

theorem startRebuild (h : s.queuesWf) : s.startRebuild.queuesWf := by
  unfold State.startRebuild
  dsimp -proj only
  refine availChange (queueReport (pool h _ ?_ ?_) _) _
  · exact Nat.zero_le _
  · exact h.2.1

theorem abandonRebuild (h : s.queuesWf) : s.abandonRebuild.queuesWf := by
  unfold State.abandonRebuild
  dsimp -proj only
  refine availChange (queueReport (pool h _ ?_ ?_) _) _
  · exact h.1
  · exact h.2.1

theorem endRebuild (h : s.queuesWf) (first last : Option Nat) (count : Nat) :
    (s.endRebuild first last count).queuesWf := by
  unfold State.endRebuild
  dsimp -proj only
  refine availChange (queueReport (pool h _ ?_ ?_) _) _
  · exact h.1
  · exact h.2.1

theorem walkTo (h : s.queuesWf) (b : Rebuild) (p block left : Nat) : (s.walkTo b p block left).queuesWf :=
  ite h.abandonRebuild (h.setRebuild _)

theorem walkLink (h : s.queuesWf) (link : Option Word) : (s.walkLink link).queuesWf := by
  unfold State.walkLink
  split
  · refine ite h ?_
    split
    · exact ite (h.walkTo _ _ _ _) h.abandonRebuild
    · exact h.abandonRebuild
    · exact h
  · exact h

theorem rebuildMove (h : s.queuesWf) (b : Rebuild) {t : State} (moves : s.rebuildMove b = some t) : t.queuesWf := by
  unfold State.rebuildMove at moves
  dsimp -proj only at moves
  split at moves
  · cases moves
  split at moves
  · split at moves
    · split at moves <;> cases moves
      · exact h.setRebuild _
      · exact h.walkTo _ _ _ _
    · cases moves; exact h.setRebuild _
  · obtain ⟨w, -, rfl⟩ := Option.map_eq_some_iff.1 moves
    exact h.walkLink _
  · repeat' first | contradiction | split at moves
    all_goals
      cases moves
      first
        | exact h.setRebuild _
        | exact (h.queueLink _ _ (h.room ‹_›)).setRebuild _
        | exact h.endRebuild _ _ _

theorem rebuildPass (n : Nat) (h : s.queuesWf) : (State.rebuildPass n s).queuesWf := by
  induction n generalizing s with
  | zero => exact h
  | succ n ih =>
    unfold State.rebuildPass
    split
    · split
      · exact ih (h.rebuildMove _ ‹_›)
      · exact h
    · exact h

/-! ## The strobes and the rings (R97 to R109) -/

theorem enterRing (h : s.queuesWf) (d : Dots) (free : 0 < s.head.freeSlots) : (s.enterRing d).queuesWf := by
  refine h.takeWatermark.head _ ?_ h.2.2.2.2.2.1
  unfold Head.freeSlots at free
  simp only [takeWatermark_head, List.length_append, List.length_singleton]
  omega

theorem countOver (h : s.queuesWf) (r : RouteNo) : (s.countOver r).queuesWf := h.setRoute r _ (by rfl)

theorem nextPhase (h : s.queuesWf) (b : Burn) : (s.nextPhase b).queuesWf := by
  unfold State.nextPhase
  split
  · exact ite (h.frame (by rfl)) (h.frame (by rfl))
  · exact h.frame (by rfl)

theorem strobeNext (h : s.queuesWf) (b : Burn) : (s.strobeNext b).queuesWf := by
  unfold State.strobeNext
  split
  · exact h.nextPhase b
  · extract_lets lone counted
    have counts : counted.queuesWf := by unfold counted; exact ite (h.countOver _) h
    exact counts.frame (by rfl)
  · exact h.nextPhase _
  · exact h

theorem cutNext (h : s.queuesWf) (i : Nat) (c : CutPhase) : (s.cutNext i c).queuesWf := by
  unfold State.cutNext
  refine ite ?_ (h.frame (by rfl))
  extract_lets counted
  have counts : counted.queuesWf := by
    unfold counted
    split
    · exact h.countOver _
    · exact h
  exact counts.frame (by rfl)

/-! ## The motors (R115 to R127) -/

theorem stepEvent (h : s.queuesWf) (m : MotorName) (left : Nat) : (s.stepEvent m left).queuesWf := h.setMotor m _

theorem restart (h : s.queuesWf) (m : MotorName) (motion : Motion) (left : Nat) :
    (s.restart m motion left).queuesWf := h.setMotor m _

theorem restMotor (h : s.queuesWf) (m : MotorName) (state : MotorState) (motion : Motion) :
    (s.restMotor m state motion).queuesWf := h.setMotor m _

theorem haltMotor (h : s.queuesWf) (m : MotorName) : (s.haltMotor m).queuesWf := h.setMotor m _

theorem dropMotor (h : s.queuesWf) (m : MotorName) (report : Bool) : (s.dropMotor m report).queuesWf := by
  unfold State.dropMotor
  dsimp -proj only
  split
  · exact ite (queueReport (unbind (h.setMotor m _) _) _) (unbind (h.setMotor m _) _)
  · exact h.setMotor m _

theorem runDown (h : s.queuesWf) (m : MotorName) : (s.runDown m).queuesWf := by
  unfold State.runDown
  dsimp -proj only
  exact ite (ite (ite (restMotor (h.setMotor m _) _ _ _) (stepEvent (h.setMotor m _) _ _)) (h.setMotor m _))
    (h.setMotor m _)

theorem takeCopy (h : s.queuesWf) (m : MotorName) : (s.takeCopy m).queuesWf := ite (h.setMotor m _) h

/-! ## The end of a route (R71 to R73) -/

theorem leavePage (h : s.queuesWf) (p : PageNo) (done : Bool)
    (free : s.pool.dirQueue.length
      + (match readerEnd (s.page p) done with
        | .leave => 0
        | .drop => s.imageNeed p
        | .free => s.freeNeed p) ≤ Config.dirCap) : (s.leavePage p done).queuesWf := by
  unfold State.leavePage
  extract_lets e act left
  have leaves : left.queuesWf := h.setPage p _
  split at free <;> rename_i eq <;> simp only [act, e, eq]
  · exact leaves
  · exact leaves.dropPage p free
  · exact leaves.freePage p free

theorem endPage (h : s.queuesWf) (r : RouteNo) (f : Fate)
    (free : s.pool.dirQueue.length + s.endNeed r f ≤ Config.dirCap) : (s.endPage r f).queuesWf := by
  unfold State.endNeed at free
  unfold State.endPage
  cases page : (s.route r).page with
  | none => simp only [page]; exact h
  | some p =>
    simp only [page] at free ⊢
    split at free
    · rw [if_pos ‹_›]
      exact setRoute (h.leavePage p _ free) r _ (by rfl)
    · rw [if_neg ‹_›]
      split
      · rename_i close
        rw [close] at free
        exact h.closePage r p _ free
      · exact h.setRoute r _ (by rfl)

theorem releaseBlocks (h : s.queuesWf) (kind : Option RouteKind) : (s.releaseBlocks kind).queuesWf := by
  have ring : { s with head := s.head.emptyRing }.queuesWf := h.head _ (Nat.zero_le _) (.inl rfl)
  unfold State.releaseBlocks
  split
  · exact frame (h.emptyScanner { s.scanner.emptyRing with phase := .none, lamp := .off, lampTimer := none }
      rfl rfl h.2.2.2.2.2.2.2.2.2.2.2.2) (by rfl)
  · exact ring.emptyScanner _ rfl rfl h.2.2.2.2.2.2.2.2.2.2.2.2
  · exact ring.printDec _ (Nat.zero_le _)
  · exact h.idleLine _ rfl rfl rfl rfl
  · exact h.idleLine _ rfl rfl rfl rfl
  · exact h.frame (by rfl)
  · exact h.hostOut _ (Nat.zero_le _)
  · exact h

theorem returnToDoze (h : s.queuesWf) (kind : Option RouteKind) : (s.returnToDoze kind).queuesWf := ite h.beginDoze h

/-- The claims of a slot released turn no route into a COPY. -/
theorem release (h : s.queuesWf) (r : RouteNo) (c : Cutter) :
    { s with engines := s.engines.release r, cutter := c }.queuesWf :=
  h.ofView rfl fun copy => by
    unfold State.copying at copy ⊢
    dsimp only [Engines.release] at copy
    split at copy
    · rename_i q claim
      split at claim
      · cases claim
      · rw [claim]; exact copy
    · cases copy

theorem finishRoute (h : s.queuesWf) (r : RouteNo) (f : Fate)
    (free : s.pool.dirQueue.length + s.endNeed r f ≤ Config.dirCap) : (s.finishRoute r f).queuesWf := by
  unfold State.finishRoute
  extract_lets slots kind ended pf sf unbound released freed before recorded changed x
  have copied : sf.queuesWf := by
    have ends : ended.queuesWf := h.endPage r f free
    have copiedPf : pf.queuesWf := by unfold pf; exact ite (ends.takeCopy _) ends
    unfold sf; exact ite (copiedPf.takeCopy _) copiedPf
  have frees : freed.queuesWf :=
    (release (releaseBlocks (foldl _ (fun x k => k.unbind x) _ copied) _) r _).disownDamage r
  exact returnToDoze (queueReport (availChange (frees.setRoute r _ (by rfl)) _) _) _

theorem clearRing (h : s.queuesWf) : { s with head := s.head.clearRing }.queuesWf :=
  h.head _ (Nat.zero_le _) h.2.2.2.2.2.1

theorem emptyRing (h : s.queuesWf) (phase : FeedPhase) :
    { s with scanner := { s.scanner.emptyRing with phase := phase } }.queuesWf :=
  h.emptyScanner _ rfl rfl h.2.2.2.2.2.2.2.2.2.2.2.2

theorem stopFlows (h : s.queuesWf) (r : RouteNo) : (s.stopFlows r).queuesWf := by
  unfold State.stopFlows
  extract_lets x printer ring scanner
  have prints : printer.queuesWf := by unfold printer; exact ite (h.clearRing.runDown _) h
  have scans : scanner.queuesWf := by unfold scanner; exact ite ((prints.emptyRing _).runDown _) prints
  clear_value scanner
  split
  · exact scans.frame (by rfl)
  · exact scans.printDec _ (Nat.zero_le _)
  · exact scans.idleLine _ rfl rfl rfl rfl
  · exact scans.idleLine _ rfl rfl rfl rfl
  · exact scans.frame (by rfl)
  · exact frame (scans.hostOut { HostOut.idleFlow with slot := some r } (Nat.zero_le _)) (by rfl)
  · exact scans

theorem orphanBurst (h : s.queuesWf) (kind : Option RouteKind) : (s.orphanBurst kind).queuesWf := by
  unfold State.orphanBurst
  split
  · refine ite (h.burstKind _ ?_) h
    simp_all
  · exact h

theorem fixEnd (h : s.queuesWf) (r : RouteNo) (f : Fate) : (s.fixEnd r f).queuesWf := by
  unfold State.fixEnd
  extract_lets x last orphaned y ended z fated
  have ends : ended.queuesWf := ((h.stopFlows r).orphanBurst _).setRoute r _ (by rfl)
  refine ite ?_ h
  split
  · exact ends.finishRoute r f (ends.room ‹_›)
  · have fates : fated.queuesWf := ends.setRoute r _ (by rfl)
    exact ite fates (fates.routeTo _ _)

theorem failRoute (h : s.queuesWf) (r : RouteNo) (cause : Cause) : (s.failRoute r cause).queuesWf := h.fixEnd r _

theorem haltRoute (h : s.queuesWf) (r : RouteNo) : (s.haltRoute r).queuesWf := h.fixEnd r _

theorem completeRoute (h : s.queuesWf) (r : RouteNo) (unterminated : Bool) (close : Option PageClose) :
    (s.completeRoute r unterminated close).queuesWf := ite (h.fixEnd r _) (h.fixEnd r _)

theorem jam (h : s.queuesWf) (r : RouteNo) : (s.jam r).queuesWf := by
  unfold State.jam
  exact failRoute (h.frame (by rfl)) r _

end State.queuesWf
end Sys2Proof.Machine
end

section
/-! PROOF. The queues within their capacities, kept by the writers, the feed path and the print path. -/

namespace Sys2Proof.Machine
namespace State.queuesWf

variable {s : State}

/-! ## The writers (R3, R4, R14, R16) -/

theorem setWriter (h : s.queuesWf) (k : RouteKind) (w : Writer) : (s.setWriter k w).queuesWf := by
  unfold State.setWriter
  split
  iterate 3 exact h.frame (by rfl)
  exact h

theorem starve (h : s.queuesWf) (r : RouteNo) (k : RouteKind) : (s.starve r k).queuesWf := by
  unfold State.starve
  extract_lets out told w starved
  have tells : told.queuesWf := queueReport (h.frame (by rfl)) _
  have starves : starved.queuesWf := tells.setWriter k _
  exact ite (tells.failRoute r _) (ite (starves.routeTo r _) starves)

theorem tryOpen (h : s.queuesWf) (r : RouteNo) (k : RouteKind) : (s.tryOpen r k).queuesWf := by
  unfold State.tryOpen
  split
  · exact h
  · exact h.failRoute r _
  · exact h.starve r k
  · exact ite (h.failRoute r _) h
  · split
    · exact setWriter (h.openEntry r _ _ (h.room ‹_›)) k _
    · exact h

theorem tryExtend (h : s.queuesWf) (r : RouteNo) (k : RouteKind) (p : PageNo) : (s.tryExtend r k p).queuesWf := by
  unfold State.tryExtend
  split
  · exact h
  · exact h.starve r k
  · split
    · exact setWriter (h.extendPage r p (h.room ‹_›)) k _
    · exact h

theorem writerTurn (h : s.queuesWf) (k : RouteKind) : (s.writerTurn k).queuesWf := by
  unfold State.writerTurn
  split
  · exact h
  · refine ite h ?_
    split
    · exact ite (h.tryExtend _ _ _) h
    · exact ite (h.tryOpen _ _) h

theorem askOpen (h : s.queuesWf) (r : RouteNo) (k : RouteKind) : (s.askOpen r k).queuesWf := by
  unfold State.askOpen
  split
  · exact h.failRoute r _
  · exact (h.setWriter k _).writerTurn k

theorem choose (h : s.queuesWf) (n : Nat) : (s.choose n).2.queuesWf := by
  obtain ⟨m, eq⟩ := choose_state s n
  rw [eq]
  exact h.frame (by rfl)

theorem writersPass (h : s.queuesWf) : s.writersPass.queuesWf :=
  foldl _ (fun k u => u.writerTurn k) _ (h.choose _)

/-! ## The Coder (R47, R49) -/

theorem coderTake (h : s.queuesWf) (r : RouteNo) : (s.coderTake r).queuesWf := by
  unfold State.coderTake
  split
  · rename_i d rest ready
    refine ite (frame (h.scanner { s.scanner with ready := rest, coding := true } ?_ ?_ ?_) (by rfl)) h
    · have := h.2.2.1
      rw [ready] at this
      simp only [List.length_cons, Bool.toNat_true] at this ⊢
      omega
    · intro copy
      have := (h.2.2.2.1 copy).2
      rw [ready] at this
      cases this
    · exact h.2.2.2.2.2.2.2.2.2.2.2.2
  · exact h

theorem coderEnd (h : s.queuesWf) (r : RouteNo) : (s.coderEnd r).queuesWf := ite (h.frame (by rfl)) h

theorem coderClose (h : s.queuesWf) (r : RouteNo) : (s.coderClose r).queuesWf := by
  unfold State.coderClose
  dsimp -proj only
  split
  · split
    · rename_i p _ closes
      exact frame (h.closePage r p _ (h.room closes.2.2.2.2.2)) (by rfl)
    · exact h
  · exact h

theorem coderPass (h : s.queuesWf) : s.coderPass.queuesWf := by
  unfold State.coderPass
  split
  · exact h
  · rename_i r _
    refine ite ?_ h
    extract_lets taken ended pumped
    have takes : taken.queuesWf := by unfold taken; exact ite (h.coderTake r) h
    have ends : ended.queuesWf := by unfold ended; exact ite (takes.coderEnd r) takes
    exact coderClose (ends.frame (by rfl)) r

/-! ## Line starts (R82 to R85, R92, R99) -/

/-- The captured count is within its range. -/
theorem captured (h : s.queuesWf) : s.scanner.captured ≤ 65535 := h.2.2.2.2.2.2.2.2.2.2.2.2

/-- Parts of the Scanner Port that are no queue. -/
theorem setScanner (h : s.queuesWf) (c : Scanner)
    (same : (c.coding, c.ready, c.capturing, c.captured)
      = (s.scanner.coding, s.scanner.ready, s.scanner.capturing, s.scanner.captured)) :
    (s.setScanner c).queuesWf := by
  simp only [Prod.mk.injEq] at same
  obtain ⟨coding, ready, capturing, captured⟩ := same
  exact h.scanner c (by rw [coding, ready, capturing]; exact h.2.2.1) (by rw [coding, ready]; exact h.2.2.2.1)
    (by rw [captured]; exact h.captured)

/-- A slot claimed for a capture: of the scan ring, or of the copy ring (R84, R99). -/
theorem claimSlot (h : s.queuesWf) (free : 0 < s.scanFree) : s.claimSlot.queuesWf := by
  have count : sat16 (s.scanner.captured + 1) ≤ 65535 := Nat.min_le_right _ _
  unfold State.claimSlot
  dsimp -proj only
  split
  · rename_i r claim
    split
    · rename_i copy
      rw [State.scanFree, if_pos copy, Head.freeSlots] at free
      have counted : (s.setRoute r { s.route r with linesDone := sat16 ((s.route r).linesDone + 1) }).queuesWf :=
        h.setRoute r _ (by rfl)
      obtain ⟨coding, ready⟩ := h.2.2.2.1 copy
      refine head (scanner counted
        { s.scanner with
          captureTimer := some (s.now + Config.readoutTime), lastStart := some s.now, firstStart := false
          captured := sat16 (s.scanner.captured + 1), capturing := true }
        ?_ (fun _ => ⟨coding, ready⟩) count) _ ?_ h.2.2.2.2.2.1
      · change s.scanner.coding.toNat + s.scanner.ready.length + 1 ≤ 4
        simp [coding, ready]
      · change s.head.ready.length + 1 ≤ s.head.capacity
        omega
    · rename_i copy
      rw [State.scanFree, if_neg copy] at free
      refine scanner h _ ?_ (fun copies => absurd copies copy) count
      change s.scanner.coding.toNat + s.scanner.ready.length + 1 ≤ 4
      omega
  · exact h

theorem skipLine (h : s.queuesWf) (r : RouteNo) : (s.skipLine r).queuesWf := by
  unfold State.skipLine
  dsimp -proj only
  exact queueReport (setRoute (h.setScanner _ (by rfl)) r _ (by rfl)) _

theorem lineStart (h : s.queuesWf) (r : RouteNo) : (s.lineStart r).queuesWf := by
  unfold State.lineStart
  extract_lets inTrail trailLeft trailEnd scanner counted max claimed marked asked skipped
  have counts : counted.queuesWf := h.setScanner _ (by rfl)
  split
  · have claims : claimed.queuesWf := counts.claimSlot (And.left ‹_›)
    have marks : marked.queuesWf := by
      unfold marked
      exact ite (claims.setScanner _ (by rfl)) (ite (claims.setScanner _ (by rfl)) claims)
    exact ite (askOpen (marks.setScanner _ (by rfl)) r _) marks
  · have skips : skipped.queuesWf := counts.skipLine r
    exact ite (skips.setScanner _ (by rfl)) skips

/-! ## The feed path (R89 to R96, R121 to R123) -/

theorem sheetIsOut (h : s.queuesWf) : s.sheetIsOut.queuesWf := h.setScanner _ (by rfl)

theorem moveStep (h : s.queuesWf) (m : MotorName) (left : Nat) : (s.moveStep m left).1.queuesWf := by
  unfold State.moveStep
  split
  · split
    · exact h.restMotor m _ _
    · exact stepEvent (h.setMotor m _) m _
  · exact h.stepEvent m _

theorem beginEject (h : s.queuesWf) (r : RouteNo) : (s.beginEject r).queuesWf := by
  unfold State.beginEject
  extract_lets scanner ejecting count sf moved
  have ejects : ejecting.queuesWf := h.setScanner _ (by rfl)
  have moves : (moved.moveStep .sf count).1.queuesWf := moveStep (ejects.setMotor .sf _) .sf _
  exact ite (ite moves.sheetIsOut moves) (ite (ejects.setMotor .sf _).sheetIsOut (ejects.restart .sf _ _))

theorem takeScanLine (h : s.queuesWf) (r : RouteNo) : (s.takeScanLine r).queuesWf := by
  unfold State.takeScanLine
  exact lineStart (ite (h.stepEvent .sf _) (h.restart .sf _ _)) r

theorem scanLineEnd (h : s.queuesWf) (r : RouteNo) : (s.scanLineEnd r).queuesWf := by
  unfold State.scanLineEnd
  extract_lets scanner led
  have leads : led.queuesWf := by unfold led; exact ite (h.setScanner _ (by rfl)) h
  exact ite (leads.beginEject r) (ite (leads.takeScanLine r) (ite (leads.restMotor .sf _ _) (leads.setMotor .sf _)))

theorem roomRaised (h : s.queuesWf) : s.roomRaised.queuesWf := by
  unfold State.roomRaised
  split
  · exact ite (h.takeScanLine _) h
  · exact h

theorem startLead (h : s.queuesWf) (r : RouteNo) : (s.startLead r).queuesWf := by
  unfold State.startLead
  extract_lets lead scanner led
  have leads : led.queuesWf := h.setScanner _ (by rfl)
  exact ite (leads.setMotor .sf _) (ite (leads.scanLineEnd r) (leads.restart .sf _ _))

theorem beginFeed (h : s.queuesWf) (r : RouteNo) : (s.beginFeed r).queuesWf := by
  unfold State.beginFeed
  extract_lets scanner fed
  have feeds : fed.queuesWf := h.scanner _ h.2.2.1 h.2.2.2.1 (Nat.zero_le _)
  exact ite (feeds.startLead r) (ite (feeds.jam r) (feeds.restart .sf _ _))

theorem feedInDone (h : s.queuesWf) (r : RouteNo) : (s.feedInDone r).queuesWf := ite (h.haltRoute r) (h.jam r)

theorem edgeOn (h : s.queuesWf) (r : RouteNo) : (s.edgeOn r).queuesWf := by
  unfold State.edgeOn
  dsimp -proj only
  exact ite (ite (setMotor (h.setScanner _ (by rfl)) .sf _) (h.startLead r)) h

theorem edgeOff (h : s.queuesWf) (r : RouteNo) : (s.edgeOff r).queuesWf := by
  unfold State.edgeOff
  split
  · exact h.setScanner _ (by rfl)
  · refine ite h ?_
    extract_lets trail scanner trailing marked
    have trails : trailing.queuesWf := h.setScanner _ (by rfl)
    have marks : marked.queuesWf := trails.setScanner _ (by rfl)
    exact ite (ite (marks.beginEject r) marks) trails
  · exact h

theorem nextSheet (h : s.queuesWf) (r : RouteNo) : (s.nextSheet r).queuesWf := by
  unfold State.nextSheet
  extract_lets x told y counted
  have tells : told.queuesWf := by unfold told; exact ite (h.queueReport _) h
  exact beginFeed (tells.setRoute r _ (by rfl)) r

theorem sheetPass (h : s.queuesWf) : s.sheetPass.queuesWf := by
  unfold State.sheetPass
  split
  · exact h
  · exact ite (ite (h.haltRoute _) (ite (h.nextSheet _) (h.completeRoute _ _ _))) h

/-! ## The print path (R55 to R57, R107 to R120) -/

theorem countLine (h : s.queuesWf) (r : RouteNo) (good : Bool) : (s.countLine r good).queuesWf := by
  unfold State.countLine
  extract_lets x y counted flagged
  have kind : y.kind = (s.route r).kind := by unfold y; split <;> rfl
  have counts : counted.queuesWf := h.setRoute r _ kind
  have flags : flagged.queuesWf := by
    unfold flagged
    split
    · exact counts.flagDamaged _ _
    · exact counts
  exact ite (flags.queueReport _) (h.setRoute r y kind)

/-- The Print Decoder's acts use up words, and fetch none (R56). -/
theorem length_act_queue (d : PrintDecoder) (count : Nat) (found : Found) :
    (d.act count found).1.fetch.queue.length ≤ d.fetch.queue.length := by
  unfold PrintDecoder.act
  exact (List.length_drop ..).trans_le (Nat.sub_le _ _)

theorem printAdvance (n : Nat) (h : s.queuesWf) (table : List Byte) : (State.printAdvance n s table).queuesWf := by
  induction n generalizing s with
  | zero => exact h
  | succ n ih =>
    unfold State.printAdvance
    refine ite h ?_
    exact ite (ih (h.printDec _ (length_act_queue _ _ _))) h

theorem lowWater (h : s.queuesWf) : s.lowWater.queuesWf := ite h.withdrawOrdinary h

theorem takeLine (h : s.queuesWf) (r : RouteNo) : (s.takeLine r).queuesWf := by
  unfold State.takeLine
  split
  · rename_i l rest ready
    refine lowWater (head h.takeWatermark _ ?_ h.2.2.2.2.2.1)
    have := h.2.2.2.2.1
    rw [ready, List.length_cons] at this
    change rest.length + s.head.capturing.toNat ≤ s.head.capacity
    omega
  · exact h

theorem pfTake (h : s.queuesWf) (r : RouteNo) : (s.pfTake r).queuesWf := by
  unfold State.pfTake
  extract_lets taken left stepped
  have takes : taken.queuesWf := h.takeLine r
  have steps : stepped.queuesWf := by unfold stepped; exact ite (takes.stepEvent .pf _) (takes.restart .pf _ _)
  exact ite steps.roomRaised steps

theorem pfReexamine (h : s.queuesWf) : s.pfReexamine.queuesWf := by
  unfold State.pfReexamine
  split
  · exact h
  · exact ite (ite (h.pfTake _) (h.setMotor .pf _)) h

theorem pfPaperOut (h : s.queuesWf) : s.pfPaperOut.queuesWf := by
  unfold State.pfPaperOut
  split
  · exact h
  · exact ite (h.failRoute _ _) h

theorem pfLineEnd (h : s.queuesWf) (r : RouteNo) : (s.pfLineEnd r).queuesWf := by
  unfold State.pfLineEnd
  extract_lets asks complete x ended
  have ends : ended.queuesWf := h.frame (by rfl)
  exact ite (h.pfTake r) (ite (ends.restMotor .pf _ _) (ite (failRoute (ends.restMotor .pf _ _) r _)
    (ite (ends.restMotor .pf _ _) (ends.restMotor .pf _ _))))

theorem burnComplete (h : s.queuesWf) : s.burnComplete.queuesWf := by
  unfold State.burnComplete
  split
  · exact ite (h.pfLineEnd _) h
  · exact h

theorem pfLineExpiry (h : s.queuesWf) (r : RouteNo) : (s.pfLineExpiry r).queuesWf := by
  unfold State.pfLineExpiry
  extract_lets high burn motor stretched
  have stretches : stretched.queuesWf := h.setMotor .pf _
  exact ite (h.pfLineEnd r) (ite (stretches.queueReport _) stretches)

theorem placeHeld (h : s.queuesWf) : s.placeHeld.queuesWf := by
  unfold State.placeHeld
  split
  · split
    · exact pfReexamine (enterRing (h.printDec _ (Nat.le_refl _)) _ ‹_›)
    · exact h
  · exact h

theorem printPass (h : s.queuesWf) : s.printPass.queuesWf := by
  unfold State.printPass
  split
  · exact ite (printAdvance _ h.placeHeld _) h
  · exact h

theorem placePf (h : s.queuesWf) : s.placePf.queuesWf := h.setMotor .pf _

theorem armRoute (h : s.queuesWf) (r : RouteNo) : (s.armRoute r).queuesWf := by
  unfold State.armRoute
  extract_lets x running e
  have runs : running.queuesWf := h.routeTo r _
  refine ite ?_ h
  split
  · exact runs.beginFeed r
  · exact runs.placePf.beginFeed r
  · split
    · exact runs.placePf.printDec _ (Nat.zero_le _)
    · exact runs
  · exact runs

theorem armPass (h : s.queuesWf) : s.armPass.queuesWf := foldl _ (fun r u => u.armRoute r) _ h

theorem startCut (h : s.queuesWf) (owner : CutOwner) : (s.startCut owner).queuesWf :=
  ite (h.frame (by rfl)) (ite (h.frame (by rfl)) h)

theorem routeCut (h : s.queuesWf) (r : RouteNo) : (s.routeCut r).queuesWf := startCut (h.setRoute r _ (by rfl)) _

theorem beginTail (h : s.queuesWf) (r : RouteNo) : (s.beginTail r).queuesWf := by
  unfold State.beginTail
  extract_lets tail x staged
  have stages : staged.queuesWf := h.setRoute r _ (by rfl)
  exact ite (routeCut (stages.setMotor .pf _) r) (stages.restart .pf _ _)

theorem printEndPass (h : s.queuesWf) : s.printEndPass.queuesWf := by
  unfold State.printEndPass
  split
  · exact h
  · exact ite (ite (h.beginTail _) (h.completeRoute _ _ _)) h

theorem waiterEnds (h : s.queuesWf) : s.waiterEnds.queuesWf := by
  unfold State.waiterEnds
  split
  · exact ite (h.haltRoute _) h
  · exact h

theorem cutDone (h : s.queuesWf) : s.cutDone.queuesWf := by
  unfold State.cutDone
  extract_lets owner done
  have dones : done.queuesWf := h.frame (by rfl)
  clear_value owner
  split
  · exact dones.queueReport _
  · exact ite (dones.haltRoute _) (dones.completeRoute _ _ _)
  · exact dones.waiterEnds

theorem cutFails (h : s.queuesWf) (r : RouteNo) : (s.cutFails r).queuesWf := ite (h.haltRoute r) (h.failRoute r _)

theorem cutFailed (h : s.queuesWf) : s.cutFailed.queuesWf := by
  unfold State.cutFailed
  extract_lets owner slot engines failed told
  have tells : told.queuesWf := queueReport (h.frame (by rfl)) _
  clear_value owner told
  split
  · exact tells.cutFails _
  · exact tells
  · split
    · exact tells.cutFails _
    · exact tells

theorem stopCut (h : s.queuesWf) (report : Bool) : (s.stopCut report).queuesWf := by
  unfold State.stopCut
  extract_lets state stopped
  have stops : stopped.queuesWf := h.frame (by rfl)
  exact ite (ite (stops.queueReport _) stops) h

theorem moveDone (h : s.queuesWf) (m : MotorName) (owner : MoveOwner) : (s.moveDone m owner).queuesWf := by
  unfold State.moveDone
  split
  · split
    · exact h.feedInDone _
    · exact h
  · exact h.sheetIsOut
  · split
    · exact h.routeCut _
    · exact h
  · dsimp -proj only
    refine queueReport ?_ _
    split
    · exact unbind (h.setMotor m _) _
    · exact h.setMotor m _

theorem stepExpiry (h : s.queuesWf) (m : MotorName) : (s.stepExpiry m).queuesWf := by
  unfold State.stepExpiry
  extract_lets mo rested
  have moves := h.moveStep m mo.left
  split
  · exact h
  · exact ite (setMotor (h.restMotor m _ _) m _) (h.stepEvent m _)
  · exact ite (moves.moveDone m _) moves
  · refine ite (h.stepEvent m _) ?_
    split
    · exact h.pfLineExpiry _
    · exact h.scanLineEnd _
    · exact h

end State.queuesWf
end Sys2Proof.Machine
end

section
/-! PROOF. The queues within their capacities, kept by the Line Port, the host flows and what follows in an event. -/

namespace Sys2Proof.Machine
namespace State.queuesWf

variable {s t : State}

/-! ## Reception (R136 to R139) -/

/-- The fills of the Line Port. -/
theorem fillsWf (h : s.queuesWf) : s.line.fillsWf := by
  obtain ⟨-, -, -, -, -, -, -, -, -, fill, mark, fifo, -⟩ := h
  exact ⟨fill, mark, fifo⟩

/-- Parts of the Line Port that are neither fetched words nor fills. -/
theorem setLine (h : s.queuesWf) (l : LinePort)
    (same : (l.fetch.queue, l.fill, l.markAt, l.txFifo)
      = (s.line.fetch.queue, s.line.fill, s.line.markAt, s.line.txFifo)) : (s.setLine l).queuesWf := by
  simp only [Prod.mk.injEq] at same
  obtain ⟨queue, fill, mark, fifo⟩ := same
  exact h.line l (by rw [queue]) (by unfold LinePort.fillsWf; rw [fill, mark, fifo]; exact h.fillsWf)

theorem rxLineEnd (h : s.queuesWf) (r : RouteNo) (x : Nat) : (s.rxLineEnd r x).queuesWf := by
  unfold State.rxLineEnd
  extract_lets y counted e w
  have counts : counted.queuesWf := h.setRoute r _ (by rfl)
  exact ite (counts.setLine _ (by rfl)) (counts.setLine _ (by rfl))

theorem rxExamine (n : Nat) (h : s.queuesWf) (r : RouteNo) : (State.rxExamine n s r).queuesWf := by
  induction n generalizing s with
  | zero => exact h
  | succ n ih =>
    unfold State.rxExamine
    refine ite h ?_
    extract_lets table d found
    split
    rename_i d' v acts
    refine ite h ?_
    extract_lets moved counted ended stopped
    refine ih ?_
    clear_value found
    have moves : moved.queuesWf := h.setLine _ (by rfl)
    have counts : counted.queuesWf := by
      unfold counted
      split
      · exact moves.countLine r _
      · exact moves.countLine r _
      · exact moves
    have ends : ended.queuesWf := by
      unfold ended
      split
      · exact ite counts (counts.rxLineEnd r _)
      · exact counts
    unfold stopped
    split
    · exact ends.setLine _ (by rfl)
    · exact ends

theorem rxDrop (h : s.queuesWf) (r : RouteNo) : (s.rxDrop r).queuesWf := by
  unfold State.rxDrop
  extract_lets n line dropped d line' skipped
  have drops : dropped.queuesWf := h.setLine _ (by rfl)
  refine queueReport ?_ _
  exact ite (countLine (drops.setLine _ (by rfl)) r _) drops

theorem rxByteDone (h : s.queuesWf) (r : RouteNo) (bits : Bits) : (s.rxByteDone r bits).queuesWf :=
  ite (h.rxDrop r) (rxExamine _ (h.setLine _ (by rfl)) r)

theorem rxStore (h : s.queuesWf) (r : RouteNo) (b : Bool) : (s.rxStore r b).queuesWf :=
  ite (h.rxByteDone r _) (h.setLine _ (by rfl))

theorem lineWake (h : s.queuesWf) : s.lineWake.queuesWf := by
  unfold State.lineWake
  split
  iterate 2 exact withdrawOrdinary (h.frame (by rfl))
  · exact h.frame (by rfl)
  · exact h

theorem firstSync (h : s.queuesWf) (r : RouteNo) (bits : Bits) : (s.firstSync r bits).queuesWf := by
  unfold State.firstSync
  dsimp -proj only
  exact askOpen (routeTo (setLine h.lineWake _ (by rfl)) r _) r _

theorem rxSeek (h : s.queuesWf) (r : RouteNo) (b : Bool) : (s.rxSeek r b).queuesWf :=
  ite (ite (h.firstSync r _) (h.setLine _ (by rfl))) h

theorem rxBit (h : s.queuesWf) (b : Bool) : (s.rxBit b).queuesWf := by
  unfold State.rxBit
  split
  · exact h
  · refine ite h ?_
    split
    · exact h.rxSeek _ b
    · exact h.rxStore _ b
    · exact h

theorem rxAgain (h : s.queuesWf) (r : RouteNo) (p : PageNo) (c : PageClose) (free : s.imageNeed p ≤ s.dirPlaces) :
    (s.rxAgain r p c).queuesWf := by
  unfold State.rxAgain
  extract_lets lines closed told next recorded port idle armed
  have idles : idle.queuesWf :=
    (setRoute (queueReport (h.closePage r p c (h.room free)) _) r _ (by rfl)).idleLine _ rfl rfl rfl rfl
  have arms : armed.queuesWf := idles.routeTo r _
  exact ite (arms.returnToDoze _) (arms.completeRoute r _ _)

theorem rxPass (h : s.queuesWf) : s.rxPass.queuesWf := by
  unfold State.rxPass
  split
  · dsimp only
    split
    · refine ite (ite ?_ (h.completeRoute _ _ _)) h
      split
      · exact h.rxAgain _ _ _ ‹_›
      · exact h
    · exact h
  · exact h

/-! ## Sending (R141 to R144) -/

theorem countVerdict (h : s.queuesWf) (r : RouteNo) (v : Verdict) : (s.countVerdict r v).queuesWf := by
  unfold State.countVerdict
  split
  · exact h.countLine r _
  · exact h.countLine r _
  · exact h

end State.queuesWf

/-- The marks of lines that the Check Decoder puts are within the fill counter (R142). -/
theorem LinePort.fillsWf.note {l : LinePort} (h : l.fillsWf) (d d' : Decoder) (found : Found) (v : Verdict)
    (sync minBits : Nat) : (l.note d d' found v sync minBits).fillsWf := by
  obtain ⟨syncs, codes, others⟩ := note_spec l d d' found v sync minBits
  cases found with
  | sync n =>
    by_cases synced : d.state = .synced
    · rw [(syncs n rfl).1 synced]; exact h
    · rw [(syncs n rfl).2 synced]
      refine ⟨h.1, ?_, h.2.2⟩
      dsimp only
      split
      · intro m at_
        cases at_
        exact Nat.min_le_left _ _
      · exact h.2.1
  | code value chunk n => rw [codes (.inl ⟨_, _, _, rfl⟩)]; exact h
  | noMatch => rw [codes (.inr rfl)]; exact h
  | wait => rw [others (.inl rfl)]; exact h
  | runOut => rw [others (.inr (.inl rfl))]; exact h
  | pass => rw [others (.inr (.inr rfl))]; exact h

/-- A byte takes with it the mark that stands (R141). -/
theorem LinePort.markOf_mem {l : LinePort} {i : Nat} {m : Nat × Nat} (h : m ∈ l.markOf i) : m ∈ l.markAt := by
  unfold LinePort.markOf at h
  split at h
  · split at h
    · rw [‹l.markAt = _›]; exact h
    · cases h
  · cases h

/-- Bytes that enter the tx FIFO add no fill (R141). -/
theorem LinePort.fillsWf.enter {l : LinePort} (h : l.fillsWf) (bytes : List Byte) : (l.enter bytes).fillsWf := by
  obtain ⟨fill, mark, fifo⟩ := h
  refine ⟨fill, ?_, ?_⟩
  · intro m at_
    refine mark m ?_
    unfold LinePort.enter at at_
    dsimp only at at_
    split at at_
    · split at at_
      · cases at_
      · rw [‹l.markAt = _›]; exact at_
    · cases at_
  · rw [enter_txFifo]
    intro b at_
    obtain at_ | at_ := List.mem_append.1 at_
    · exact fifo b at_
    · obtain ⟨i, -, rfl⟩ := List.mem_mapIdx.1 at_
      exact fun m marked => mark m (LinePort.markOf_mem marked)

/-- The words that bytes entered have used up leave the queue. -/
theorem enter_queue (l : LinePort) (bytes : List Byte) :
    (l.enter bytes).fetch.queue.length ≤ l.fetch.queue.length :=
  (List.drop_sublist _ _).length_le

namespace State.queuesWf

variable {s t : State}

theorem txMove (h : s.queuesWf) (r : RouteNo) (last : Bool) (moves : s.txMove r last = some t) : t.queuesWf := by
  rw [txMove_eq rfl rfl, Option.ite_none_left_eq_some, Option.ite_none_left_eq_some, Option.some.injEq] at moves
  obtain ⟨-, -, rfl⟩ := moves
  refine countVerdict (h.line _ ?_ ?_) r _
  · have shorter (found d v) : (s.looked r found d v).fetch.queue.length ≤ s.line.fetch.queue.length :=
      (enter_queue _ _).trans (congrArg (·.queue.length) (note_queue _ _ _ _ _ _ _).1).le
    exact iteInduction (motive := fun l : LinePort => l.fetch.queue.length ≤ s.line.fetch.queue.length)
      (fun _ => shorter _ _ _) fun _ => shorter _ _ _
  · have within (found d v) : (s.looked r found d v).fillsWf :=
      LinePort.fillsWf.enter (h.fillsWf.note _ _ _ _ _ _) _
    exact iteInduction (motive := LinePort.fillsWf) (fun _ => within _ _ _) fun _ => within _ _ _

theorem txAdvance (n : Nat) (h : s.queuesWf) (r : RouteNo) : (State.txAdvance n s r).queuesWf := by
  induction n generalizing s with
  | zero => exact h
  | succ n ih =>
    unfold State.txAdvance
    split
    · exact ih (h.txMove r _ ‹_›)
    · exact h

theorem txPrime (h : s.queuesWf) : s.txPrime.queuesWf := ite (h.setLine _ (by rfl)) h

theorem txEnd (h : s.queuesWf) (r : RouteNo) : (s.txEnd r).queuesWf := ite (h.completeRoute r _ _) h

theorem txPass (h : s.queuesWf) : s.txPass.queuesWf := by
  unfold State.txPass
  split
  · exact ite ((h.txAdvance _ _).txPrime.txEnd _) h
  · exact h

theorem sendBit (h : s.queuesWf) (b : Bool) : (s.setLine (s.line.sendBit b)).queuesWf := by
  obtain ⟨fill, mark, fifo⟩ := h.fillsWf
  unfold LinePort.sendBit
  dsimp -proj only
  split
  · exact h.line _ (Nat.le_refl _) ⟨fill, mark, fun b at_ => fifo b (List.mem_of_mem_drop at_)⟩
  · exact h.setLine _ (by rfl)

/-- The fill that a clock loads is that of a mark (R142). -/
theorem loaded (h : s.queuesWf) (n : Nat) (next : s.txNext = .fill (some n)) : n ≤ Config.fillCap := by
  obtain ⟨-, -, fifo⟩ := h.fillsWf
  unfold State.txNext at next
  split at next
  · split at next
    · split at next
      · cases next
      · split at next
        · cases next
        · rename_i b rest front
          cases mark : b.mark with
          | none => simp [mark] at next
          | some m =>
            have within : m.2 ≤ Config.fillCap := fifo b (by rw [front]; exact List.mem_cons_self) m mark
            by_cases due : m.1 = s.line.sent ∧ 0 < m.2
            · simp only [mark, due.1, due.2, if_pos, TxNext.fill.injEq, Option.some.injEq] at next
              exact next ▸ within
            · simp only [mark] at next
              rw [if_neg (by split <;> omega)] at next
              cases next
    · cases next
  · cases next

theorem txClock (h : s.queuesWf) : s.txClock.queuesWf := by
  obtain ⟨fill, mark, fifo⟩ := h.fillsWf
  unfold State.txClock
  dsimp -proj only
  split
  · exact h.setLine _ (by rfl)
  · rename_i n next
    refine h.line _ (Nat.le_refl _) ⟨(Nat.sub_le _ _).trans (h.loaded n next), mark, fun b at_ => ?_⟩
    obtain at_ | at_ := List.mem_append.1 at_
    · obtain ⟨b, -, rfl⟩ := List.mem_map.1 at_
      exact nofun
    · exact fifo b (List.mem_of_mem_drop at_)
  · exact h.line _ (Nat.le_refl _) ⟨(Nat.sub_le _ _).trans fill, mark, fifo⟩
  · refine ite (h.setLine _ (by rfl)) ?_
    split
    · exact queueReport (h.setLine _ (by rfl)) _
    · exact h.setLine _ (by rfl)
  · split
    · exact ite ((h.sendBit _).completeRoute _ _ _) (h.sendBit _)
    · exact h.sendBit _

theorem carrierWatch (h : s.queuesWf) (r : RouteNo) (valid : Bool) : (s.carrierWatch r valid).queuesWf :=
  ite (h.setLine _ (by rfl)) (ite (ite ((h.setLine _ (by rfl)).completeRoute r _ _) (h.setLine _ (by rfl))) h)

end State.queuesWf
end Sys2Proof.Machine
end

section
/-! PROOF. The queues within their capacities, kept by the host flows, by what follows in an event, by the Boot
Controller and by the ends of bursts. -/

namespace Sys2Proof.Machine

/-- The words that page bytes sent have used up leave HOST-OUT's queue (R69). -/
theorem nextByte_queue {o o' : HostOut} {b : Byte} (h : o.nextByte = some (b, o')) :
    o'.fetch.queue.length ≤ o.fetch.queue.length := by
  unfold HostOut.nextByte at h
  split at h
  · cases h
  · rename_i w rest queue
    cases h
    rw [queue]
    dsimp only
    split
    · exact Nat.le_succ _
    · exact Nat.le_refl _

/-- A DATA report begun takes no word yet (R69). -/
theorem dataReport_queue {s : State} {x : OutRecord} {o : HostOut} (h : s.dataReport = some (x, o)) :
    o.fetch.queue = s.hostOut.fetch.queue := by
  unfold State.dataReport at h
  split at h
  · dsimp only at h
    split at h <;> cases h
    rfl
  · cases h

/-- Words received are as many as were fetched. -/
theorem receive_queue (f : Fetch) (ws : List Word) : (f.receive ws).queue.length = f.queue.length + ws.length := by
  simp [Fetch.receive]

namespace State.queuesWf

variable {s t : State}

/-! ## The host flows (R68, R69, R183) -/

theorem placeByte (h : s.queuesWf) (r : RouteNo) (b : Byte) (placed : s.placeByte r b = some t) : t.queuesWf := by
  unfold State.placeByte at placed
  dsimp -proj only at placed
  split at placed
  · cases placed; exact h
  · split at placed
    · cases placed; exact h.frame (by rfl)
    · split at placed <;> cases placed
      exact h.frame (by rfl)

theorem placedOrder (h : s.queuesWf) (r : RouteNo) (final : Bool) : (s.placedOrder r final).queuesWf :=
  ite (h.frame (by rfl)) h

theorem hostInPass (h : s.queuesWf) : s.hostInPass.queuesWf := by
  unfold State.hostInPass
  split
  · extract_lets x ended flow padded written
    have ends : ended.queuesWf := ite (h.setRoute _ _ (by rfl)) h
    have writes : written.queuesWf := ends.frame (by rfl)
    exact ite (ite (writes.completeRoute _ _ _) writes) ends
  · exact h

theorem drawByte (h : s.queuesWf) (x : OutRecord) {b : Byte} (drawn : s.drawByte x = some (b, t)) : t.queuesWf := by
  unfold State.drawByte at drawn
  split at drawn
  · cases drawn; exact h.frame (by rfl)
  · split at drawn
    · dsimp -proj only at drawn
      split at drawn
      · cases drawn
      · split at drawn
        · cases drawn; exact h.frame (by rfl)
        · split at drawn
          · cases drawn
          · obtain ⟨⟨c, o⟩, next, eq⟩ := Option.map_eq_some_iff.1 drawn
            cases eq
            exact frame (h.hostOut o (nextByte_queue next)) (by rfl)
    · cases drawn

theorem putOut (h : s.queuesWf) (b : Byte) : (s.putOut b).queuesWf := h.frame (by rfl)

theorem outPass (n : Nat) (h : s.queuesWf) : (State.outPass n s).queuesWf := by
  induction n generalizing s with
  | zero => exact h
  | succ n ih =>
    unfold State.outPass
    split
    · refine ite ?_ h
      split
      · exact ih ((h.drawByte _ ‹_›).putOut _)
      · exact h
    · exact h

theorem beginRecord (h : s.queuesWf) : s.beginRecord.queuesWf := by
  unfold State.beginRecord
  refine ite ?_ h
  split
  · exact outPass _ (h.frame (by rfl))
  · split
    · rename_i x o begun
      refine outPass _ (frame (h.hostOut o ?_) (by rfl))
      rw [dataReport_queue begun]
    · exact h

theorem dataDone (h : s.queuesWf) (d : Option DataOut) : (s.dataDone d).queuesWf := by
  unfold State.dataDone
  split
  · exact ite (h.completeRoute _ _ _) h
  · exact h

theorem completeRecord (h : s.queuesWf) : s.completeRecord.queuesWf := by
  unfold State.completeRecord
  split
  · refine ite ?_ h
    split
    · exact dataDone (frame (h.drawByte _ ‹_›) (by rfl)) _
    · exact h
  · exact h

/-! ## What follows in an event -/

/-- A reader's fetch, its queue no longer than it was. -/
theorem setFetch (h : s.queuesWf) (x : Reader) (f : Fetch) (fits : f.queue.length ≤ (s.fetchOf x).queue.length) :
    (s.setFetch x f).queuesWf := by
  cases x with
  | print => exact h.printDec _ fits
  | line => exact h.line _ fits h.fillsWf
  | host => exact h.hostOut _ fits

theorem readDamaged (h : s.queuesWf) (p : Option PageNo) (r : Option RouteNo) : (s.readDamaged p r).queuesWf := by
  unfold State.readDamaged
  split
  · exact h.flagDamaged _ _
  · exact h

theorem readerLink (h : s.queuesWf) (x : Reader) (w : Option Word) : (s.readerLink x w).queuesWf := by
  unfold State.readerLink
  split
  · exact h
  · exact ite (ite (h.setFetch x _ (Nat.le_refl _)) h) ((h.readDamaged _ _).failRoute _ _)

theorem readerLinkPass (h : s.queuesWf) (x : Reader) : (s.readerLinkPass x).queuesWf := by
  unfold State.readerLinkPass
  refine ite ?_ h
  split
  · split
    · exact h.readerLink x _
    · exact h
  · exact h

theorem linkPass (h : s.queuesWf) : s.linkPass.queuesWf := foldl _ (fun x u => u.readerLinkPass x) _ h

theorem powerPass (h : s.queuesWf) : s.powerPass.queuesWf := by
  unfold State.powerPass
  extract_lets left ended placed entered
  have leaves : left.queuesWf := ite h.startExit h
  have ends : ended.queuesWf := ite leaves.withdrawOrdinary leaves
  have places : placed.queuesWf := ite ends.placeRequest ends
  exact ite (places.entryAdvance.frame (by rfl)) places.entryAdvance

theorem geometryPass (h : s.queuesWf) : s.geometryPass.queuesWf := ite (h.frame (by rfl)) h

theorem pass (h : s.queuesWf) : s.pass.queuesWf := by
  unfold State.pass
  extract_lets pages flows sent
  have goesOn : pages.queuesWf := ((h.refillPass _).rebuildPass _).damagePass.linkPass
  have flow : flows.queuesWf := goesOn.writersPass.coderPass.printPass.txPass.rxPass.hostInPass
  have sends : sent.queuesWf := flow.outPass _
  exact sends.geometryPass.armPass.sheetPass.printEndPass.powerPass

theorem settle (n : Nat) (h : s.queuesWf) : (State.settle n s).queuesWf := by
  induction n generalizing s with
  | zero => exact h
  | succ n ih =>
    unfold State.settle
    extract_lets after
    have passes : after.queuesWf := h.pass
    exact ite h (ih passes)

theorem react (h : s.queuesWf) : s.react.queuesWf := by unfold State.react; exact h.settle _

/-! ## The Boot Controller (chapter 10) -/

theorem placeRetain (h : s.queuesWf) : s.placeRetain.queuesWf := entryAdvance (h.frame (by rfl))
theorem goCold (h : s.queuesWf) (c : ColdReason) : (s.goCold c).queuesWf := h.setBoot _
theorem decideBoot (h : s.queuesWf) : s.decideBoot.queuesWf := ite (h.setBoot _) (h.goCold _)

theorem headerRead (h : s.queuesWf) (ws : List ReadWord) : (s.headerRead ws).queuesWf := by
  unfold State.headerRead
  split
  · exact h.goCold _
  · exact h.setBoot _

theorem warmEnd (h : s.queuesWf) : s.warmEnd.queuesWf :=
  frame (h.pool { s.pool with spare := [] } (Nat.zero_le _) h.2.1) (by rfl)

theorem sweepFrom (h : s.queuesWf) (b : Nat) : (s.sweepFrom b).queuesWf := by
  unfold State.sweepFrom
  split
  · exact h.setBoot _
  · exact h.warmEnd

theorem zeroFrom (h : s.queuesWf) (l : List Nat) : (s.zeroFrom l).queuesWf := by
  unfold State.zeroFrom
  split
  · exact h.sweepFrom _
  · exact h.setBoot _

theorem nextImage (h : s.queuesWf) (p : Nat) : (s.nextImage p).queuesWf := ite (h.setBoot _) (h.zeroFrom _)
theorem discard (h : s.queuesWf) (p : Nat) : (s.discard p).queuesWf := (h.setBoot _).nextImage p

theorem bootWalk (h : s.queuesWf) (p : Nat) (e : PageEntry) (b n : Nat) (own : List Nat) :
    (s.bootWalk p e b n own).queuesWf := ite (h.discard p) (h.setBoot _)

theorem imageRead (h : s.queuesWf) (p : Nat) (first : Option (List Word)) (spoilt : Bool) (ws : List ReadWord) :
    (s.imageRead p first spoilt ws).queuesWf := by
  unfold State.imageRead
  dsimp only
  split
  · exact h.setBoot _
  · split
    · exact h.discard p
    · exact h.nextImage p
    · exact h.bootWalk p _ _ _ _

theorem keepEntry (h : s.queuesWf) (p : Nat) (e : PageEntry) (own : List Nat) : (s.keepEntry p e own).queuesWf := by
  unfold State.keepEntry
  extract_lets kept
  have keeps : kept.queuesWf := by
    unfold kept
    split
    · exact h.setPage _ e
    · exact h
  exact (keeps.setBoot _).nextImage p

theorem bootLinkRead (h : s.queuesWf) (p : Nat) (e : PageEntry) (b n : Nat) (own : List Nat) (x : ReadWord) :
    (s.bootLinkRead p e b n own x).queuesWf :=
  ite (h.discard p) (ite (ite (h.bootWalk p e _ _ own) (h.discard p)) (ite (h.keepEntry p e own) (h.discard p)))

theorem emptyPool (h : s.queuesWf) : s.emptyPool.queuesWf :=
  frame (h.pool { s.pool with spare := [] } (Nat.zero_le _) h.2.1) (by rfl)

theorem coldEnd (h : s.queuesWf) : s.coldEnd.queuesWf := h.emptyPool.setBoot _
theorem startScrub (h : s.queuesWf) : s.startScrub.queuesWf := h.frame (by rfl)

theorem geometryEnd (h : s.queuesWf) : s.geometryEnd.queuesWf := (h.emptyPool.setBoot _).startScrub.queueReport _

theorem bootWritten (h : s.queuesWf) (n : Nat) : (s.bootWritten n).queuesWf := by
  unfold State.bootWritten
  split
  · refine ite ?_ (h.setBoot _)
    dsimp only
    split
    · exact (h.setPage _ _).zeroFrom _
    · exact h.zeroFrom _
  · exact h.sweepFrom _
  · exact ite (h.setBoot _) h.coldEnd
  · exact ite (h.setBoot _) (h.setBoot _)
  · exact h

theorem releaseHost (h : s.queuesWf) : s.releaseHost.queuesWf := by
  unfold State.releaseHost
  extract_lets boot released parser engines power started
  have starts : started.queuesWf := frame (h.setBoot _) (by rfl)
  exact starts.supplyOn.startScrub.queueReport _

theorem failSafe (h : s.queuesWf) : s.failSafe.queuesWf := by
  unfold State.failSafe
  dsimp -proj only
  split
  · exact (h.setBoot _).setBoot _
  · exact (h.setBoot _).setBoot _
  · exact (h.setBoot _).placeRetain

theorem headerWritten (h : s.queuesWf) (x : HeaderFor) : (s.headerWritten x).queuesWf := by
  unfold State.headerWritten
  split
  · exact ite (h.setBoot _) h.releaseHost
  · exact (h.setBoot _).placeRetain
  · exact ite h.geometryEnd h
  · exact placeRetain (frame (s := s.setBoot { s.boot with retained := true }) (h.setBoot _) (by rfl))

theorem bootOn (h : s.queuesWf) : s.bootOn.queuesWf := ite (h.setBoot _) (ite (h.setBoot _).placeRetain h)

theorem storeOn (h : s.queuesWf) : s.storeOn.queuesWf := by
  unfold State.storeOn
  extract_lets x on scrubs told withdrawn booted woken
  have ons : on.queuesWf := h.frame (by rfl)
  have scrub : scrubs.queuesWf := ite ons.startScrub ons
  have withdraws : withdrawn.queuesWf := ite (scrub.frame (by rfl)) scrub
  have boots : booted.queuesWf := withdraws.bootOn
  have wakes : woken.queuesWf := ite boots.completeRun boots
  exact ite (entryAdvance (wakes.frame (by rfl))) wakes

/-! ## The ends of bursts (R29 to R36) -/

theorem setDram (h : s.queuesWf) (m : List (Nat × StoreWord)) : (s.setDram m).queuesWf := h.frame (by rfl)

theorem offerAll (h : s.queuesWf) (c : Option LogClient) (a : Nat) (xs : List ReadWord) :
    (s.offerAll c a xs).queuesWf := by
  obtain ⟨log, q, eq⟩ := offerAll_changes s c a xs
  rw [eq]
  exact h.frame (by rfl)

theorem burstStores (h : s.queuesWf) (b : BurstKind) (xs : List ReadWord) : (s.burstStores b xs).queuesWf := by
  unfold State.burstStores
  split
  all_goals exact h.frame (by rfl)

theorem dirWritten (h : s.queuesWf) : s.dirWritten.queuesWf := by
  have dir := h.2.1
  unfold State.dirWritten
  split
  · rename_i queue
    rw [queue] at dir
    exact h.pool _ h.1 ((Nat.le_succ _).trans dir)
  · rename_i queue
    rw [queue] at dir
    refine h.pool _ h.1 ?_
    dsimp only
    split
    · exact (Nat.le_succ _).trans dir
    · exact dir
  · exact h

theorem scrubbed (h : s.queuesWf) : s.scrubbed.queuesWf := h.frame (by rfl)

theorem rowDone (h : s.queuesWf) : s.rowDone.queuesWf :=
  have counted : { s with store := { s.store with initLeft := s.store.initLeft - 1 } }.queuesWf := h.frame (by rfl)
  ite counted.storeOn counted

theorem finalRowDone (h : s.queuesWf) : s.finalRowDone.queuesWf := ite h.enterSelfRefresh h

/-- Words join a reader's queue, as many as it has room for (R56). -/
theorem setFetchRoom (h : s.queuesWf) (x : Reader) (f : Fetch)
    (idle : s.store.burst = none) (fits : f.queue.length ≤ Config.wordQueueCap) : (s.setFetch x f).queuesWf := by
  obtain ⟨h1, h2, h3, h4, h5, h6, print, line, host, fill, mark, fifo, count⟩ := h
  have none_ (y : Reader) : s.coming y = 0 := by rw [State.coming, idle]
  cases x with
  | print => exact ⟨h1, h2, h3, h4, h5, h6, (congrArg (f.queue.length + ·) (none_ .print)).le.trans fits, line, host,
      fill, mark, fifo, count⟩
  | line => exact ⟨h1, h2, h3, h4, h5, h6, print, (congrArg (f.queue.length + ·) (none_ .line)).le.trans fits, host,
      fill, mark, fifo, count⟩
  | host => exact ⟨h1, h2, h3, h4, h5, h6, print, line, (congrArg (f.queue.length + ·) (none_ .host)).le.trans fits,
      fill, mark, fifo, count⟩

theorem wordsFetched (h : s.queuesWf) (x : Reader) (xs : List ReadWord) (idle : s.store.burst = none)
    (fits : (s.fetchOf x).queue.length + xs.length ≤ Config.wordQueueCap) : (s.wordsFetched x xs).queuesWf := by
  unfold State.wordsFetched
  extract_lets taken
  have takes : taken.queuesWf :=
    ite (h.setFetchRoom x _ idle (by rw [receive_queue, List.length_map]; exact fits)) h
  exact ite (takes.readDamaged _ _) takes

/-- A burst's end is told to its client; the words of a reader's burst have room in its queue. -/
theorem deliver (h : s.queuesWf) (b : Burst) (xs : List ReadWord) (idle : s.store.burst = none)
    (fits : s.roomFor b.kind) (long : ∀ x a n, b.kind = .fetchWords x a n → xs.length = n) :
    (s.deliver b xs).queuesWf := by
  unfold State.deliver
  dsimp -proj only
  split
  · exact h.rowDone
  · exact ite h.finalRowDone h
  · exact h.scrubbed
  · exact h.dirWritten
  · exact h.dirWritten
  · split
    · rename_i free
      exact h.refill _ free.2.2.2
    · exact h
  · split
    · exact ite (h.walkLink _) h
    · exact h
  · exact h.headerWritten _
  · exact ite (h.headerRead _) h
  · split
    · exact h.imageRead _ _ _ _
    · exact h
  · split
    · exact h.bootLinkRead _ _ _ _ _ _
    · exact h
  · exact h.bootWritten _
  · exact ite h (h.frame (by rfl))
  · exact ite h (h.setLine _ (by rfl))
  · exact ite h (h.frame (by rfl))
  · rename_i x a n kind
    rw [kind] at fits
    refine ite (ite (h.readDamaged _ _) h) (h.wordsFetched x xs idle ?_)
    rw [long x a n kind]
    exact fits
  · exact ite (ite h (h.readDamaged _ _)) (h.readerLink _ _)

/-- The burst in progress has room for its words. -/
theorem burstRoom (h : s.queuesWf) {b : Burst} (burst : s.store.burst = some b) : s.roomFor b.kind := by
  obtain ⟨-, -, -, -, -, -, print, line, host, -⟩ := h
  obtain ⟨kind, orphan, page⟩ := b
  unfold State.coming at print line host
  rw [burst] at print line host
  cases kind
  case fetchWords x a n => cases x <;> assumption
  all_goals trivial

theorem endBurst (h : s.queuesWf) (b : Burst) (flips : List StoreWord) (burst : s.store.burst = some b) :
    (s.endBurst b flips).queuesWf := by
  have room : s.roomFor b.kind := h.burstRoom burst
  unfold State.endBurst
  split
  rename_i a n span
  extract_lets reads read xs stored store idle
  have readWf : read.queuesWf := ite (h.setDram _) h
  have stores : stored.queuesWf := (readWf.offerAll _ _ _).burstStores _ _
  have idles : idle.queuesWf := stores.store _ fun _ => Nat.zero_le _
  refine idles.deliver b xs rfl ?_ ?_
  · cases kind : b.kind
    case fetchWords x c m =>
      obtain ⟨log, q, offered⟩ := offerAll_changes read b.kind.logClient a xs
      rw [kind] at room
      unfold idle stored
      rw [offered, kind]
      unfold read
      split <;> cases x <;> exact room
    all_goals trivial
  · intro x c m kind
    rw [kind] at span
    cases span
    have reader : reads = true := by unfold reads; rw [kind]; cases x <;> rfl
    unfold xs
    rw [if_pos reader, dramReadWords, List.length_map, List.length_range]

end State.queuesWf
end Sys2Proof.Machine
end

section
/-! PROOF. The queues within their capacities, kept by the orders. -/

namespace Sys2Proof.Machine

/-! ## A start up to its blocks (R66) -/

theorem startReady_queueView (s : State) (r : RouteNo) (b : StartBody) (k : RouteKind) :
    (s.startReady r b k).queueView = s.queueView := by
  obtain ⟨tables, claims⟩ := startClaims_eq s r b k
  obtain ⟨q, rs, al, a, c, change, -⟩ := availChange_changes (s.startClaims r b k) s.available
  obtain ⟨pages, reader⟩ :=
    addReader_eq ((s.startClaims r b k).availChange s.available) (s.startRecord b k).page
  rw [State.startReady, reader, change, claims]
  rfl

/-- A start gives its own slot its kind, and leaves those of the others. -/
theorem startReady_kind (s : State) (r : RouteNo) (b : StartBody) (k : RouteKind) (q : RouteNo) :
    ((s.startReady r b k).route q).kind = if q = r then some k else (s.route q).kind := by
  obtain ⟨tables, claims⟩ := startClaims_eq s r b k
  obtain ⟨rep, rs, al, a, c, change, states⟩ := availChange_changes (s.startClaims r b k) s.available
  obtain ⟨pages, reader⟩ :=
    addReader_eq ((s.startClaims r b k).availChange s.available) (s.startRecord b k).page
  obtain ⟨st, same⟩ := states q
  have record : (s.startClaims r b k).route q = (s.setRoute r (s.startRecord b k)).route q := by rw [claims]; rfl
  have kept : (s.startReady r b k).route q = rs[q] := by rw [State.startReady, reader, change]; rfl
  rw [kept, same, record, route_setRoute]
  split <;> rfl

/-- A start of another kind than COPY makes no route a COPY. -/
theorem startReady_copying {s : State} {r : RouteNo} {b : StartBody} {k : RouteKind} (other : k ≠ .copy)
    (copy : (s.startReady r b k).copying = true) : s.copying = true := by
  have engines := (startReady_spec s r b k).2.1
  unfold State.copying at copy ⊢
  rw [engines, Engines.claim] at copy
  dsimp only at copy
  split at copy
  · rename_i q claims
    rw [Route.isKind, startReady_kind] at copy
    split at copy
    · exact absurd (by simpa using copy) other
    · split at claims
      · cases claims; contradiction
      · rw [claims]
        exact copy
  · cases copy

namespace State.queuesWf

variable {s t : State}

/-- The rings of a COPY's start, empty (R83, R99). -/
theorem emptyRings (h : s.queuesWf) (view : t.queueView = s.queueView) (c : Scanner) (x : Head)
    (coding : c.coding = false) (ready : c.ready = []) (count : c.captured ≤ 65535)
    (ring : x.ready = []) (capturing : x.capturing = false) (slots : x.capacity = 4 ∨ x.capacity = 8) :
    { t with scanner := c, head := x }.queuesWf := by
  have idle : { t with engines := { t.engines with scanner := none } }.queuesWf := h.ofView view nofun
  have rings := (idle.emptyScanner c coding ready count).head x (by rw [ring, capturing]; exact Nat.zero_le _) slots
  obtain ⟨h1, h2, h3, -, h5⟩ := rings
  exact ⟨h1, h2, h3, fun _ => ⟨coding, ready⟩, h5⟩

theorem lampOn (h : s.queuesWf) : s.lampOn.queuesWf := h.setScanner _ (by rfl)

/-- The blocks of a kind begin with nothing in hand (R47, R68, R69, R83, R98, R99, R135). -/
theorem startBlocks (h : s.queuesWf) (view : t.queueView = s.queueView) (r : RouteNo) (k : RouteKind)
    (copy : k ≠ .copy → t.copying = true → s.copying = true) : (t.startBlocks r k).queuesWf := by
  by_cases copies : k = .copy
  · subst copies
    exact lampOn (h.emptyRings (t := t) view _ _ rfl rfl (Nat.zero_le _) rfl rfl (.inr rfl))
  · have begun : t.queuesWf := h.ofView view (copy copies)
    cases k with
    | scanStore =>
      have waits : { t with coder := Coder.waitingFor r }.queuesWf := begun.frame (by rfl)
      exact lampOn (waits.emptyScanner _ rfl rfl (Nat.zero_le _))
    | copy => contradiction
    | printPage => exact begun.head _ (Nat.zero_le _) (.inl rfl)
    | lineReceive => exact begun.idleLine _ rfl rfl rfl rfl
    | lineSend => exact begun.idleLine _ rfl rfl rfl rfl
    | hostStore => exact begun.frame (by rfl)
    | pageHost => exact begun.hostOut _ (Nat.zero_le _)

theorem startRoute (h : s.queuesWf) (r : RouteNo) (b : StartBody) (k : RouteKind) :
    (s.startRoute r b k).queuesWf := by
  rw [startRoute_eq]
  have blocks := h.startBlocks (startReady_queueView s r b k) r k fun other => startReady_copying other
  exact ite ((blocks.routeTo r _).askOpen r _).react (blocks.routeTo r _).react

/-! ## SETUP and the table orders (R170, R174, R179) -/

theorem refuse (h : s.queuesWf) (k : OrderKind) (c : Refused) (bytes : List Byte) : (s.refuse k c bytes).queuesWf :=
  h.queueReport _

theorem setScrub (h : s.queuesWf) (n : Nat) : (s.setScrub n).queuesWf := by
  unfold State.setScrub
  extract_lets before x set
  have sets : set.queuesWf := h.frame (by rfl)
  exact ite (sets.frame (by rfl)) (ite sets.startScrub sets)

theorem changeGeometry (h : s.queuesWf) (n : Nat) : (s.changeGeometry n).queuesWf := by
  unfold State.changeGeometry
  dsimp -proj only
  refine react (availChange ?_ _)
  exact frame (h.pool { s.pool with spare := [] } (Nat.zero_le _) h.2.1) (by rfl)

theorem takeSetup (h : s.queuesWf) (b : SetupBody) (rom : Bool) : (s.takeSetup b rom).queuesWf := by
  unfold State.takeSetup
  split
  · exact h.refuse _ _ _
  · extract_lets other scrub timed set
    have sets : set.queuesWf := frame (h.setScrub scrub) (by rfl)
    exact ite sets (ite (sets.frame (by rfl)) (sets.changeGeometry _))

theorem noteLoaded (h : s.queuesWf) (i : TableNo) (rom : Bool) : (s.noteLoaded i rom).queuesWf :=
  ite (h.frame (by rfl)) h

theorem takeLoad (h : s.queuesWf) (slot kind : Byte) (n : Nat) (rom : Bool) :
    (s.takeLoad slot kind n rom).1.queuesWf := by
  unfold State.takeLoad
  split
  · exact h.refuse _ _ _
  · split
    · exact (h.setTable _ _).noteLoaded _ _
    · exact h

theorem takeTableDrop (h : s.queuesWf) (slot : Byte) : (s.takeTableDrop slot).queuesWf := by
  unfold State.takeTableDrop
  split
  · exact h.setTable _ _
  · exact h.refuse _ _ _
  · exact h

/-! ## PAGE DROP, ROUTE START and ROUTE HALT (R9, R64, R73 to R75) -/

theorem pageDropped (h : s.queuesWf) (p : PageNo)
    (free : (if (s.page p).readers = 0 then s.freeNeed p else s.imageNeed p) ≤ s.dirPlaces) :
    (s.pageDropped p).queuesWf := by
  unfold State.pageDropped
  split
  · rename_i none_
    rw [if_pos none_] at free
    exact (h.freePage p (h.room free)).react
  · rename_i some_
    rw [if_neg some_] at free
    exact h.dropPage p (h.room free)

theorem takePageDrop (h : s.queuesWf) (page : Byte) (taken : s.takePageDrop page = some t) : t.queuesWf := by
  unfold State.takePageDrop at taken
  split at taken
  · cases taken; exact h.refuse _ _ _
  · obtain ⟨free, eq⟩ := Option.ite_none_right_eq_some.1 taken
    cases eq
    exact h.pageDropped _ free
  · cases taken; exact h

theorem takeStart (h : s.queuesWf) (b : StartBody) (taken : s.takeStart b = some t) : t.queuesWf := by
  unfold State.takeStart at taken
  split at taken
  · cases taken
  · split at taken
    · rw [← Option.some.inj taken]; exact h.startRoute _ b _
    · rw [← Option.some.inj taken]; exact h.refuse _ _ _
    · rw [← Option.some.inj taken]; exact h

theorem finishFeed (h : s.queuesWf) (r : RouteNo) : (s.finishFeed r).queuesWf := by
  unfold State.finishFeed
  split
  · exact h.setMotor .sf _
  · exact ite (setMotor (h.setScanner _ (by rfl)) .sf _) (h.beginEject r)
  iterate 2 exact ite h (h.beginEject r)
  exact h

theorem finishKind (h : s.queuesWf) (r : RouteNo) : (s.finishKind r).queuesWf := by
  unfold State.finishKind
  split
  · exact finishFeed (h.frame (by rfl)) r
  · exact h.finishFeed r
  · exact h.printDec _ (Nat.zero_le _)
  · exact ite (h.completeRoute _ _ _) (h.line _ (Nat.zero_le _) h.fillsWf)
  · split
    · exact h.hostOut _ (List.length_take_le' _ _)
    · exact h.completeRoute _ _ _
  · exact h

theorem haltFinish (h : s.queuesWf) (r : RouteNo) : (s.haltFinish r).queuesWf := by
  unfold State.haltFinish
  split
  · exact (h.haltRoute r).react
  iterate 2 exact react (finishKind (routeTo (h.setRoute r _ (by rfl)) r _) r)
  exact h

theorem stopNow (h : s.queuesWf) (r : RouteNo) : (s.stopNow r).queuesWf := by
  unfold State.stopNow
  extract_lets x printer
  have prints : printer.queuesWf := ite (h.haltMotor .pf) h
  exact ite (prints.haltMotor .sf) prints

theorem haltNow (h : s.queuesWf) (r : RouteNo) : (s.haltNow r).queuesWf := by
  unfold State.haltNow
  extract_lets x stopped flows y waiting
  have stops : stopped.queuesWf := h.stopNow r
  have waits : waiting.queuesWf := (stops.stopFlows r).setRoute r _ (by rfl)
  exact ite h (ite (h.haltRoute r).react
    (ite (react (ite waits (waits.routeTo r _))) (stops.haltRoute r).react))

theorem takeHalt (h : s.queuesWf) (slot mode : Byte) : (s.takeHalt slot mode).queuesWf := by
  unfold State.takeHalt
  split
  · exact h.refuse _ _ _
  · exact ite (h.refuse _ _ _) (ite (h.refuse _ _ _) (ite (h.haltFinish _) (h.haltNow _)))

/-! ## DATA, MOVE, CUT, LEVEL, MARK, CLEAR and QUERY -/

theorem takeData (h : s.queuesWf) (slot flags : Byte) (lines : Word) (n : Nat) :
    (s.takeData slot flags lines n).1.queuesWf := by
  unfold State.takeData
  split
  · exact h.frame (by rfl)
  · exact h.refuse _ _ _
  · exact h

theorem startMove (h : s.queuesWf) (m : MotorName) (i : TableNo) (b : MoveBody) : (s.startMove m i b).queuesWf :=
  restart ((h.bind i).setMotor m _) m _ _

theorem takeMove (h : s.queuesWf) (b : MoveBody) : (s.takeMove b).queuesWf := by
  unfold State.takeMove
  split
  · exact h.startMove _ _ b
  · exact h.refuse _ _ _
  · exact h

theorem takeCut (h : s.queuesWf) : s.takeCut.queuesWf := by
  unfold State.takeCut
  split
  · exact h.refuse _ _ _
  · exact h.startCut _

theorem levelToRun (h : s.queuesWf) (options : Byte) : (s.levelToRun options).queuesWf := by
  unfold State.levelToRun
  extract_lets stutter x set
  have sets : set.queuesWf := h.frame (by rfl)
  exact ite sets.powerPass sets.withdrawOrdinary

theorem levelToDoze (h : s.queuesWf) (options : Byte) : (s.levelToDoze options).queuesWf := by
  unfold State.levelToDoze
  extract_lets withdrawn x dozing woken
  have dozes : dozing.queuesWf := frame h.withdrawOrdinary (by rfl)
  have wakes : woken.queuesWf := dozes.takeWake _
  exact ite (ite (wakes.takeWake _) wakes) (ite (dozes.takeWake _) dozes.beginDoze)

theorem takeLevel (h : s.queuesWf) (level options : Byte) : (s.takeLevel level options).queuesWf := by
  unfold State.takeLevel
  split
  · exact h.refuse _ _ _
  · exact ite (h.levelToRun _) (h.levelToDoze _)

theorem takeMark (h : s.queuesWf) (value : Word) (taken : s.takeMark value = some t) : t.queuesWf := by
  unfold State.takeMark at taken
  split at taken <;> cases taken
  exact h.queueReport _

theorem takeClear (h : s.queuesWf) (subject : Byte) : (s.takeClear subject).queuesWf := by
  unfold State.takeClear
  split
  · exact h.refuse _ _ _
  · split
    · exact h.frame (by rfl)
    · exact h.frame (by rfl)
    · exact h.startRebuild.react

theorem takeQuery (h : s.queuesWf) (subject arg : Byte) (taken : s.takeQuery subject arg = some t) : t.queuesWf := by
  unfold State.takeQuery at taken
  split at taken <;> cases taken
  split
  · exact h.refuse _ _ _
  · exact ite (frame (h.queueReport _) (by rfl)) (h.queueReport _)

theorem takeOrder (h : s.queuesWf) (k : OrderKind) (body : List Byte) (taken : s.takeOrder k body = some t) :
    t.queuesWf := by
  unfold State.takeOrder at taken
  dsimp only at taken
  split at taken
  · cases taken; exact h.refuse _ _ _
  · split at taken
    · cases taken
    · split at taken
      · cases taken; exact h.refuse _ _ _
      · split at taken
        · cases taken; exact h.takeSetup _ _
        · cases taken; exact h.takeTableDrop _
        · exact h.takePageDrop _ taken
        · exact h.takeStart _ taken
        · cases taken; exact h.takeHalt _ _
        · cases taken; exact h.takeMove _
        · cases taken; exact h.takeCut
        · cases taken; exact h.takeLevel _ _
        · exact h.takeQuery _ _ taken
        · exact h.takeMark _ taken
        · cases taken; exact h.takeClear _
        iterate 4 cases taken; exact h

end State.queuesWf
end Sys2Proof.Machine
end

section
/-! PROOF. The queues within their capacities, kept by the parser, the boot ROM and the inbound bytes. -/

namespace Sys2Proof.Machine
namespace State.queuesWf

variable {s t : State}

theorem endLoad (h : s.queuesWf) (i : TableNo) (check : Word) : (s.endLoad i check).queuesWf :=
  queueReport (h.setTable i _) _

/-! ## Replay (R159 to R161) -/

theorem undoReplay (h : s.queuesWf) : s.undoReplay.queuesWf :=
  frame (foldl (fun s i => s.setTable i TableSlot.emptySlot) (fun i u => u.setTable i _) s.boot.loaded h) (by rfl)

theorem replayEnd (h : s.queuesWf) (outcome : RomOutcome) : (s.replayEnd outcome).queuesWf := by
  unfold State.replayEnd
  extract_lets x ended
  have ends : ended.queuesWf := h.frame (by rfl)
  exact decideBoot (ite ends.undoReplay ends)

theorem replayCheck (h : s.queuesWf) (check : Word) : (s.replayCheck check).queuesWf := h.replayEnd _

theorem takeReplayed (h : s.queuesWf) (k : OrderKind) (body : List Byte) : (s.takeReplayed k body).queuesWf := by
  unfold State.takeReplayed
  split
  · exact ite (h.takeSetup _ _) (h.refuse _ _ _)
  · exact h.refuse _ _ _
  · exact h.replayCheck _
  · exact h.refuse _ _ _

/-! ## The parser (R176 to R178) -/

theorem dispatch (h : s.queuesWf) (kind : Byte) (body : List Byte) (taken : s.dispatch kind body = some t) :
    t.queuesWf := by
  unfold State.dispatch at taken
  split at taken
  · exact h.takeOrder _ _ taken
  · cases taken; exact h.takeReplayed _ _
  · cases taken; exact h

theorem parserHead (h : s.queuesWf) : s.parserHead.queuesWf := h.frame (by rfl)

theorem badHeader (h : s.queuesWf) (kind : Byte) (length : Word) : (s.badHeader kind length).queuesWf := by
  unfold State.badHeader
  split
  · exact queueReport (h.frame (by rfl)) _
  · exact h.replayEnd _

theorem headerDone (h : s.queuesWf) (kind low high : Byte) (taken : s.headerDone kind low high = some t) :
    t.queuesWf := by
  unfold State.headerDone at taken
  dsimp only at taken
  split at taken
  · cases taken; exact h.badHeader _ _
  · split at taken
    · cases taken; exact h.replayEnd _
    · split at taken
      · exact h.parserHead.dispatch _ _ taken
      · cases taken; exact h.frame (by rfl)

theorem headByte (h : s.queuesWf) (b : Byte) (taken : s.headByte b = some t) : t.queuesWf := by
  unfold State.headByte at taken
  dsimp -proj only at taken
  have held : { s with parser := { s.parser with header := s.parser.header ++ [b] } }.queuesWf := h.frame (by rfl)
  split at taken
  · cases taken; exact held
  · split at taken <;> cases taken
    · exact h.badHeader _ _
    · exact held
  · split at taken
    · split at taken <;> cases taken
      · exact held
      · exact h.badHeader _ _
    · exact h.headerDone _ _ _ taken
  · split at taken <;> cases taken
    · exact h.parserHead
    · exact h.badHeader _ _

theorem fourthUse (h : s.queuesWf) (kind a b c d : Byte) (n : Nat) : (s.fourthUse kind a b c d n).1.queuesWf := by
  unfold State.fourthUse
  dsimp only
  split
  · exact h.refuse _ _ _
  · split
    · exact h.takeLoad _ _ _ _
    · exact h.takeData _ _ _ _

theorem bytesFollow (h : s.queuesWf) (use : BodyUse) (n : Nat) : (s.bytesFollow use n).queuesWf := by
  unfold State.bytesFollow
  refine ite ?_ (h.frame (by rfl))
  split
  · exact h.parserHead.endLoad _ _
  · exact h.parserHead

theorem fourthByte (h : s.queuesWf) (kind a b c d : Byte) (n : Nat) : (s.fourthByte kind a b c d n).queuesWf :=
  (h.fourthUse kind a b c d _).bytesFollow _ _

theorem storeByte (h : s.queuesWf) (i : TableNo) (b : Byte) : (s.storeByte i b).queuesWf := h.setTable i _

theorem bodyByte (h : s.queuesWf) (b : Byte) (taken : s.bodyByte b = some t) : t.queuesWf := by
  unfold State.bodyByte at taken
  extract_lets p n last counted body at taken
  clear_value body
  have counts {u : State} (hu : u.queuesWf) : (counted u).queuesWf := ite hu.parserHead (hu.frame (by rfl))
  split at taken
  · cases taken; exact counts h
  · cases taken; exact ite ((h.storeByte _ b).parserHead.endLoad _ _) (counts (h.storeByte _ b))
  · obtain ⟨u, placed, rfl⟩ := Option.map_eq_some_iff.1 taken
    have places : u.queuesWf := h.placeByte _ b placed
    exact ite (places.parserHead.placedOrder _ _).react (counts places)
  · split at taken
    · split at taken
      · cases taken; exact h.fourthByte _ _ _ _ _ _
      · split at taken
        · exact h.parserHead.dispatch _ _ taken
        · cases taken; exact h.frame (by rfl)
    · split at taken
      · exact h.parserHead.dispatch _ _ taken
      · cases taken; exact h.frame (by rfl)

theorem huntByte (h : s.queuesWf) (b : Byte) : (s.huntByte b).queuesWf := ite h.parserHead (h.frame (by rfl))

theorem takeByte (h : s.queuesWf) (b : Byte) (taken : s.takeByte b = some t) : t.queuesWf := by
  unfold State.takeByte at taken
  split at taken
  · cases taken
  · split at taken
    · exact h.headByte b taken
    · exact h.bodyByte b taken
    · cases taken; exact h.huntByte b

theorem replayByte (h : s.queuesWf) (b : Byte) : (s.replayByte b).queuesWf := by
  unfold State.replayByte
  dsimp -proj only
  split
  · exact h
  · rename_i t taken
    have counted :
        { s with boot := { s.boot with romPos := s.boot.romPos + 1, imageSum := s.romSum b } }.queuesWf :=
      h.frame (by rfl)
    have takes : t.queuesWf := counted.takeByte b taken
    exact ite (takes.replayEnd _) takes

theorem romByte (h : s.queuesWf) (b : Byte) : (s.romByte b).queuesWf :=
  ite (ite (replayEnd (h.frame (by rfl)) _) (ite (replayEnd (h.frame (by rfl)) _) (h.replayByte b))) h

/-! ## The inbound side of the port (R148, R149, R178) -/

theorem pump (n : Nat) (h : s.queuesWf) : (State.pump n s).queuesWf := by
  induction n generalizing s with
  | zero => exact h
  | succ n ih =>
    unfold State.pump
    split
    · exact h
    · rename_i b rest queue
      split
      · rename_i u taken
        exact ih (takeByte (s := { s with port := { s.port with inFifo := rest } }) (h.frame (by rfl)) b taken)
      · exact h

theorem resume (h : s.queuesWf) (before : Option Level) : (s.resume before).queuesWf := by
  unfold State.resume
  exact ite (h.pump _).react h

theorem inbound (h : s.queuesWf) (b : Byte) : (s.inbound b).queuesWf := by
  unfold State.inbound
  refine ite ?_ h
  extract_lets x pumped
  have pumps : pumped.queuesWf := pump _ (h.frame (by rfl))
  exact (react (ite pumps (pumps.takeWake _))).resume _

theorem bring (h : s.queuesWf) (bytes : List Byte) : (s.bring bytes).queuesWf :=
  ite (foldl _ (fun b u => u.romByte b) bytes h) (foldl _ (fun b u => u.inbound b) bytes h)

theorem order (h : s.queuesWf) (kind length : Nat) (body : List Byte) (taken : Option State)
    (takes : ∀ t, taken = some t → t.queuesWf) : (s.order kind length body taken).queuesWf := by
  unfold State.order
  split
  · exact takes _ rfl
  · exact h.bring _

theorem loadOrder (h : s.queuesWf) (slot kind : Byte) (check : Word) (n : Nat) :
    (s.loadOrder slot kind check n).queuesWf := fourthByte (h.frame (by rfl)) _ _ _ _ _ _

theorem storeBytes (h : s.queuesWf) (i : TableNo) (data : List Byte) : (s.storeBytes i data).queuesWf := h.setTable i _

theorem placeBytes (h : s.queuesWf) (r : RouteNo) (bytes : List Byte)
    (placed : bytes.foldlM (fun (u : State) b => u.placeByte r b) s = some t) : t.queuesWf := by
  induction bytes generalizing s with
  | nil => cases placed; exact h
  | cons b rest ih =>
    obtain ⟨u, first, others⟩ := Option.bind_eq_some_iff.1 placed
    exact ih (h.placeByte r b first) others

theorem dataWhole (h : s.queuesWf) (slot flags : Byte) (lines : Word) (bytes : List Byte)
    (taken : s.dataWhole slot flags lines bytes = some t) : t.queuesWf := by
  have takes := h.takeData slot flags lines bytes.length
  unfold State.dataWhole at taken
  split at taken
  · cases taken
  · split at taken
    · rename_i u eq
      rw [eq] at takes
      cases taken; exact takes
    · rename_i u r eq
      rw [eq] at takes
      obtain ⟨v, placed, rfl⟩ := Option.map_eq_some_iff.1 taken
      exact ((takes.placeBytes r bytes placed).placedOrder r _).react

theorem replayImageEnd (h : s.queuesWf) (check : Word) : (s.replayImageEnd check).queuesWf :=
  replayCheck (h.frame (by rfl)) _

end State.queuesWf
end Sys2Proof.Machine
end

section
/-! PROOF. The queues within their capacities, kept by every step (O4). -/

namespace Sys2Proof.Machine

/-- The Print Decoder's next move fetches no word. -/
theorem printMove_queue {s : State} {r : RouteNo} {d : PrintDecoder} {v : Verdict}
    (moves : s.printMove = some (r, d, v)) : d.fetch.queue.length ≤ s.printDec.fetch.queue.length := by
  unfold State.printMove at moves
  split at moves
  · dsimp only at moves
    split at moves <;> cases moves
    exact State.queuesWf.length_act_queue _ _ _
  · cases moves

namespace State.queuesWf

variable {s t : State}

/-! ## The blocks' commands -/

theorem codeLine (h : s.queuesWf) (r : RouteNo) (last : Bits) : (s.codeLine r last).queuesWf := by
  unfold State.codeLine
  dsimp -proj only
  refine roomRaised ?_
  have line : (s.setRoute r { s.route r with
      linesDone := sat16 ((s.route r).linesDone + 1), lastLineEnd := (s.coder.append last).bitPos }).queuesWf :=
    h.setRoute r _ (by rfl)
  obtain ⟨-, -, ring, copy, -⟩ := h
  refine frame (line.scanner { s.scanner with coding := false } ?_ ?_ ?_) (by rfl)
  · simp only [Bool.toNat_false]
    omega
  · exact fun copies => ⟨rfl, (line.2.2.2.1 copies).2⟩
  · exact line.captured

theorem handLine (h : s.queuesWf) (r : RouteNo) (d : PrintDecoder) (good : Bool)
    (fits : d.fetch.queue.length ≤ s.printDec.fetch.queue.length) : (s.handLine r d good).queuesWf := by
  unfold State.handLine
  extract_lets line d' counted
  have same : d'.fetch = d.fetch := by unfold d'; split <;> rfl
  have counts : counted.queuesWf := countLine (h.printDec d' (by rw [same]; exact fits)) r good
  split
  · exact (counts.enterRing line ‹_›).pfReexamine
  · exact counts.printDec _ (Nat.le_refl _)

theorem printEnded (h : s.queuesWf) : s.printEnded.queuesWf := by
  unfold State.printEnded
  split
  · rename_i d pattern moves
    exact react (h.printDec _ (printMove_queue (d := d) moves))
  · exact h

theorem checkEnded (h : s.queuesWf) : s.checkEnded.queuesWf := by
  unfold State.checkEnded
  split
  · dsimp only
    split
    · split
      · exact (h.txMove _ _ ‹_›).react
      · exact h
    · exact h
  · exact h

theorem lineValidTo (h : s.queuesWf) (valid : Bool) : (s.lineValidTo valid).queuesWf := by
  unfold State.lineValidTo
  extract_lets x changed
  have changes : changed.queuesWf := h.frame (by rfl)
  split
  · exact ite (changes.carrierWatch _ _) changes
  · exact changes

theorem paperTo (h : s.queuesWf) (present : Bool) : (s.paperTo present).queuesWf := by
  unfold State.paperTo
  extract_lets x changed told watched
  have changes : changed.queuesWf := h.frame (by rfl)
  have tells : told.queuesWf := changes.queueReport _
  have watches : watched.queuesWf :=
    ite tells.pfReexamine (foldl _ (fun r u => u.failRoute r _) _ tells.pfPaperOut)
  exact ite watches.react changes

theorem homeTo (h : s.queuesWf) (level : Bool) : (s.homeTo level).queuesWf := by
  unfold State.homeTo
  extract_lets x changed
  have changes : changed.queuesWf := h.frame (by rfl)
  split
  · exact ite changes (changes.frame (by rfl))
  · exact ite changes.cutDone.react changes
  · exact changes

/-! ## COVER and PFAIL (R79, R155) -/

theorem stopMechanics (h : s.queuesWf) (report : Bool) : (s.stopMechanics report).queuesWf :=
  (((h.dropMotor .pf report).dropMotor .sf report).stopCut report).supplyOff

theorem failMechanics (h : s.queuesWf) : s.failMechanics.queuesWf :=
  foldl _ (fun r u => ite (u.failRoute r _) u) _ h

theorem coverOpens (h : s.queuesWf) : s.coverOpens.queuesWf := by
  unfold State.coverOpens
  extract_lets x changed failed y faulted
  have changes : changed.queuesWf := h.frame (by rfl)
  have fails : failed.queuesWf := (changes.stopMechanics _).failMechanics
  clear_value failed
  have faults : faulted.queuesWf := fails.frame (by rfl)
  exact ite ((faults.queueReport _).takeWake _).react changes

theorem coverCloses (h : s.queuesWf) : s.coverCloses.queuesWf := by
  unfold State.coverCloses
  extract_lets x changed told supplied
  have changes : changed.queuesWf := h.frame (by rfl)
  have tells : told.queuesWf := changes.queueReport _
  have supplies : supplied.queuesWf := ite tells.supplyOn tells
  exact ite (supplies.takeWake _).react changes

theorem beginRetain (h : s.queuesWf) : s.beginRetain.queuesWf := by
  unfold State.beginRetain
  extract_lets x entering shown stopped halted
  have enters : entering.queuesWf := h.frame (by rfl)
  have shows : shown.queuesWf := enters.converterOn.clearWithheld
  have stops : stopped.queuesWf := (shows.setBoot _).stopMechanics _
  have halts : halted.queuesWf := foldl _ (fun r u => u.haltRoute r) _ stops
  exact (halts.withdrawOrdinary.queueReport _).react

theorem retainDrained (h : s.queuesWf) : s.retainDrained.queuesWf :=
  ite (placeRetain (h.frame (by rfl))) (h.frame (by rfl))

/-! ## The head and the Scanner Port -/

theorem strobeExpiry (h : s.queuesWf) (b : Burn) : (s.strobeExpiry b).queuesWf := by
  unfold State.strobeExpiry
  extract_lets next
  have nexts : next.queuesWf := h.strobeNext b
  split
  · exact ite nexts.burnComplete nexts
  · exact nexts

theorem takeSample (h : s.queuesWf) (value : Byte) : (s.takeSample value).queuesWf :=
  ite (pfReexamine (h.frame (by rfl))) (h.frame (by rfl))

/-- A readout completes in the ring that it was claimed in (R84, R99). -/
theorem capture (h : s.queuesWf) (r : RouteNo) (samples : List Byte) (claimed : s.capturing = true) :
    (s.capture r samples).queuesWf := by
  unfold State.capture
  extract_lets d x read
  obtain ⟨-, -, ring, copy, head, slots, -⟩ := id h
  have reads : read.queuesWf := by
    refine h.scanner _ (le_trans ?_ ring) copy h.captured
    exact Nat.add_le_add_left (Nat.zero_le _) _
  have same : read.copying = s.copying := rfl
  rw [State.capturing] at claimed
  split
  · rename_i copies
    rw [← same, if_pos copies] at claimed
    rw [claimed, Bool.toNat_true] at head
    refine pfReexamine (enterRing (reads.head { s.head with capturing := false } ?_ slots) d ?_)
    · exact (Nat.le_succ _).trans head
    · exact Nat.sub_pos_of_lt head
  · rename_i other
    rw [← same, if_neg other] at claimed
    rw [claimed] at ring
    have full : s.scanner.coding.toNat + (s.scanner.ready ++ [d]).length + 0 ≤ 4 := by
      simpa [add_assoc] using ring
    exact reads.scanner _ full (fun copies => absurd copies other) reads.captured

theorem docInTo (h : s.queuesWf) (level : Bool) : (s.docInTo level).queuesWf := by
  unfold State.docInTo
  extract_lets x changed told
  have changes : changed.queuesWf := h.frame (by rfl)
  have tells : told.queuesWf := changes.queueReport _
  exact ite (react (ite (tells.takeWake _) tells)) changes

theorem docEdgeTo (h : s.queuesWf) (level : Bool) : (s.docEdgeTo level).queuesWf := by
  unfold State.docEdgeTo
  extract_lets x changed told followed
  have changes : changed.queuesWf := h.frame (by rfl)
  have tells : told.queuesWf := changes.queueReport _
  have follows : followed.queuesWf := by
    unfold followed
    split
    · exact ite (ite (tells.edgeOn _) (tells.edgeOff _)) tells
    · exact tells
  exact ite follows.react changes

theorem memoryStart (h : s.queuesWf) : s.memoryStart.queuesWf := by
  unfold State.memoryStart
  extract_lets x begun
  have begins : begun.queuesWf := h.setBoot _
  exact ite begins.storeWithdraw (ite begins.bootOn begins)

end State.queuesWf
end Sys2Proof.Machine
end

section
/-! PROOF. The queues within their capacities, kept by every step (O4). -/

namespace Sys2Proof.Machine

/-- A next state that an outcome gives has its queues within their capacities. -/
def Bounded (o : Host.Outcome State Fault Refusal) : Prop := ∀ t, o = .next t → t.queuesWf

namespace State.queuesWf

variable {s : State}

theorem next (h : s.queuesWf) : Bounded (.next s) := fun _ eq => Host.Outcome.next.inj eq ▸ h

theorem stopped (f : Fault) : Bounded (.fault f) := fun _ eq => by cases eq

/-! ## The orders (R177) -/

/-- An order that is taken whatever it finds. -/
theorem ordered (h : s.queuesWf) (kind length : Nat) (body : List Byte) {t : State} (taken : t.queuesWf) :
    Bounded (.next (s.order kind length body (some t))) :=
  (h.order kind length body _ fun _ eq => Option.some.inj eq ▸ taken).next

/-- An order that may be held. -/
theorem orderedOr (h : s.queuesWf) (kind length : Nat) (body : List Byte) {taken : Option State}
    (takes : ∀ t, taken = some t → t.queuesWf) : Bounded (.next (s.order kind length body taken)) :=
  (h.order kind length body taken takes).next

theorem tableLoad (h : s.queuesWf) (slot kind : Byte) (check : Word) (n : Nat) :
    Bounded (execTableLoad slot kind check n s) := by
  refine h.orderedOr _ _ _ fun t taken => ?_
  rw [Option.ite_none_right_eq_some] at taken
  rw [← Option.some.inj taken.2]
  exact h.loadOrder slot kind check n

theorem tableLoadEnd (h : s.queuesWf) (data : List Byte) : Bounded (execTableLoadEnd data s) := by
  unfold execTableLoadEnd
  split
  · exact ((h.storeBytes _ data).parserHead.endLoad _ _).next
  · exact (h.bring data).next

theorem imageEnd (h : s.queuesWf) (check : Word) : Bounded (execImageEnd check s) := by
  unfold execImageEnd
  split
  · exact (h.replayImageEnd check).next
  · exact h.ordered _ _ _ (h.refuse _ _ _)

/-! ## The store's commands (R26 to R40, R71) -/

theorem arbiterGrant (h : s.queuesWf) : Bounded (execArbiterGrant s) := by
  unfold execArbiterGrant
  split
  · exact ((h.grantNext ‹_›).react.resume _).next
  · exact stopped _

theorem burstEnd (h : s.queuesWf) (flips : List StoreWord) : Bounded (execBurstEnd flips s) := by
  unfold execBurstEnd
  split
  · exact h.next
  · rename_i b burst
    have ends := (h.endBurst b flips burst).react.resume s.power.level
    split
    · exact (ends.grantNext ‹_›).next
    · exact stopped _

theorem refreshTimerExpiry (h : s.queuesWf) : Bounded (execRefreshTimerExpiry s) := by
  unfold execRefreshTimerExpiry
  split
  · exact h.next
  · exact next (h.frame (by rfl))

theorem scrubTimerExpiry (h : s.queuesWf) : Bounded (execScrubTimerExpiry s) := by
  unfold execScrubTimerExpiry
  split
  · exact h.next
  · exact next (h.frame (by rfl))

theorem wakingEnd (h : s.queuesWf) : Bounded (execWakingEnd s) := by
  unfold execWakingEnd
  split
  · exact ((h.reach _).storeOn.react.resume _).next
  · exact h.next

theorem routeEndDeferred (h : s.queuesWf) (r : RouteNo) : Bounded (execRouteEndDeferred r s) := by
  unfold execRouteEndDeferred
  split
  · split
    · exact ((h.finishRoute r _ (h.room ‹_›)).react.resume _).next
    · exact h.next
  · exact h.next

/-! ## The commands of the Coder, the decoders and the Line Port -/

theorem coderLineComplete (h : s.queuesWf) : Bounded (execCoderLineComplete s) := by
  unfold execCoderLineComplete
  split
  · split
    · exact (h.codeLine _ _).react.next
    · exact h.next
  · exact h.next

theorem decoderLine (h : s.queuesWf) : Bounded (execDecoderLine s) := by
  unfold execDecoderLine
  split
  · exact (h.handLine _ _ _ (printMove_queue ‹_›)).react.next
  · exact (h.handLine _ _ _ (printMove_queue ‹_›)).react.next
  · exact h.next

theorem decodingEnd (h : s.queuesWf) (d : DecoderName) : Bounded (execDecodingEnd d s) := by
  cases d with
  | print => exact h.printEnded.next
  | check => exact h.checkEnded.next

/-- Bits that the line brings (R136, R137). -/
theorem received (h : s.queuesWf) (bits : Bits) :
    Bounded (.next ((bits.foldl State.rxBit s).react.resume s.power.level)) :=
  ((foldl _ (fun b u => u.rxBit b) bits h).react.resume _).next

theorem lineValidChange (h : s.queuesWf) (level : Bool) : Bounded (execLineValidChange level s) :=
  (ite h ((h.lineValidTo level).react.resume _)).next

theorem carrierTimerExpiry (h : s.queuesWf) : Bounded (execCarrierTimerExpiry s) := by
  unfold execCarrierTimerExpiry
  split
  · exact (((h.reach _).failRoute _ _).react.resume _).next
  · exact h.next

theorem underrun (h : s.queuesWf) : Bounded (execUnderrun s) := (ite h.txClock.react h).next

theorem lineSendEnd (h : s.queuesWf) : Bounded (execLineSendEnd s) := by
  unfold execLineSendEnd
  split
  · exact h.txClock.react.next
  · exact h.next

/-! ## The commands of the Scanner Port, the head, the motors, the cutter and the pins -/

theorem captureComplete (h : s.queuesWf) (samples : List Byte) : Bounded (execCaptureComplete samples s) := by
  unfold execCaptureComplete
  split
  · refine next ?_
    split
    · exact ((h.reach _).capture _ samples ‹_›).react
    · exact h
  · exact h.next

theorem lampWarm (h : s.queuesWf) : Bounded (execLampWarm s) := by
  unfold execLampWarm
  split
  · exact ((h.reach _).setScanner _ (by rfl)).react.next
  · exact h.next

theorem strobeTimerExpiry (h : s.queuesWf) : Bounded (execStrobeTimerExpiry s) := by
  unfold execStrobeTimerExpiry
  split
  · split
    · exact ((h.reach _).cutNext _ _).react.next
    · exact ((h.reach _).strobeExpiry _).react.next
  · exact ((h.reach _).cutNext _ _).react.next
  · exact ((h.reach _).strobeExpiry _).react.next
  · exact h.next

theorem converterSample (h : s.queuesWf) (value : Byte) : Bounded (execConverterSample value s) := by
  unfold execConverterSample
  split
  · exact ((h.reach _).takeSample value).react.next
  · exact h.next

theorem headSettled (h : s.queuesWf) : Bounded (execHeadSettled s) := by
  unfold execHeadSettled
  split
  · exact (pfReexamine (frame (h.reach _) (by rfl))).react.next
  · exact h.next

theorem stepTimerExpiry (h : s.queuesWf) (m : MotorName) : Bounded (execStepTimerExpiry m s) := by
  unfold execStepTimerExpiry
  split
  · exact ((h.reach _).stepExpiry m).react.next
  · exact h.next

theorem holdTimerExpiry (h : s.queuesWf) (m : MotorName) : Bounded (execHoldTimerExpiry m s) := by
  unfold execHoldTimerExpiry
  split
  · exact ((h.reach _).setMotor m _).next
  · exact h.next

theorem cutterTimeout (h : s.queuesWf) : Bounded (execCutterTimeout s) := by
  unfold execCutterTimeout
  split
  · exact (h.reach _).cutFailed.react.next
  · exact h.next

theorem wake (h : s.queuesWf) (asserted : Bool) : Bounded (execWake asserted s) := by
  have level : { s with pins := { s.pins with wake := asserted } }.queuesWf := h.frame (by rfl)
  exact (ite (c := asserted = true) ((level.takeWake _).react.resume _) level).next

theorem dozeDrainDone (h : s.queuesWf) : Bounded (execDozeDrainDone s) :=
  (ite (placeRequest (h.frame (by rfl))).entryAdvance.react h).next

theorem pfailAssert (h : s.queuesWf) : Bounded (execPfailAssert s) := by
  unfold execPfailAssert
  extract_lets x low
  have lows : low.queuesWf := h.frame (by rfl)
  split
  · exact lows.next
  · exact lows.next
  · refine next ?_
    split
    · exact lows
    · exact lows
    · exact lows.beginRetain
  · exact lows.failSafe.next

theorem outboundRead (h : s.queuesWf) : Bounded (execOutboundRead s) := by
  unfold execOutboundRead
  split
  · exact h.next
  · exact (outPass _ (h.frame (by rfl))).next

/-- Every command keeps the queues, the rings, the fills and the captured count within their ranges. -/
theorem exec (h : s.queuesWf) (c : Instr) : Bounded (exec c s) := by
  cases c with
  | setup body => exact h.ordered _ _ _ (h.takeSetup body false)
  | tableLoad slot kind check n => exact h.tableLoad slot kind check n
  | tableLoadEnd data => exact h.tableLoadEnd data
  | tableDrop slot => exact h.ordered _ _ _ (h.takeTableDrop slot)
  | pageDrop page => exact h.orderedOr _ _ _ fun _ => h.takePageDrop page
  | routeStart body => exact h.orderedOr _ _ _ fun _ => h.takeStart body
  | routeHaltFinish slot => exact h.ordered _ _ _ (h.takeHalt slot 0)
  | routeHaltNow slot => exact h.ordered _ _ _ (h.takeHalt slot 1)
  | data slot flags lines bytes => exact h.orderedOr _ _ _ fun _ => h.dataWhole slot flags lines bytes
  | move body => exact h.ordered _ _ _ (h.takeMove body)
  | cut => exact h.ordered _ _ _ h.takeCut
  | levelRun options => exact h.ordered _ _ _ (h.takeLevel 0 options)
  | levelDoze options => exact h.ordered _ _ _ (h.takeLevel 1 options)
  | queryPage page => exact h.orderedOr _ _ _ fun _ => h.takeQuery 0 page
  | queryRoute slot => exact h.orderedOr _ _ _ fun _ => h.takeQuery 1 slot
  | queryPool arg => exact h.orderedOr _ _ _ fun _ => h.takeQuery 2 arg
  | queryLog arg => exact h.orderedOr _ _ _ fun _ => h.takeQuery 3 arg
  | queryTable slot => exact h.orderedOr _ _ _ fun _ => h.takeQuery 4 slot
  | queryLevel arg => exact h.orderedOr _ _ _ fun _ => h.takeQuery 5 arg
  | mark value => exact h.orderedOr _ _ _ fun _ => h.takeMark value
  | clearScanner => exact h.ordered _ _ _ (h.takeClear 0)
  | clearPrinter => exact h.ordered _ _ _ (h.takeClear 1)
  | clearPool => exact h.ordered _ _ _ (h.takeClear 2)
  | imageEnd check => exact h.imageEnd check
  | resync => exact (ite h (h.bring _)).next
  | malformed kind length => exact (ite (h.badHeader kind length) (h.bring _)).next
  | hunt byte => exact (ite (h.huntByte byte) h).next
  | inboundByte byte => exact (h.inbound byte).next
  | stallEnd => exact (h.pump _).react.next
  | reportRecordBegin => exact h.beginRecord.next
  | recordComplete => exact h.completeRecord.react.next
  | arbiterGrant => exact h.arbiterGrant
  | burstEnd flips => exact h.burstEnd flips
  | refreshTimerExpiry => exact h.refreshTimerExpiry
  | scrubTimerExpiry => exact h.scrubTimerExpiry
  | wakingEnd => exact h.wakingEnd
  | routeEndDeferred slot => exact h.routeEndDeferred slot
  | coderLineComplete => exact h.coderLineComplete
  | decoderLine => exact h.decoderLine
  | decodingEnd decoder => exact h.decodingEnd decoder
  | rxByte bits => exact h.received bits
  | firstSync bits => exact h.received bits
  | lineValidChange level => exact h.lineValidChange level
  | carrierTimerExpiry => exact h.carrierTimerExpiry
  | underrun => exact h.underrun
  | lineSendEnd => exact h.lineSendEnd
  | captureComplete samples => exact h.captureComplete samples
  | docInChange level => exact (ite h ((h.docInTo level).resume _)).next
  | docEdgeChange level => exact (ite h (h.docEdgeTo level)).next
  | lampWarm => exact h.lampWarm
  | strobeTimerExpiry => exact h.strobeTimerExpiry
  | converterSample value => exact h.converterSample value
  | headSettled => exact h.headSettled
  | stepTimerExpiry motor => exact h.stepTimerExpiry motor
  | holdTimerExpiry motor => exact h.holdTimerExpiry motor
  | paperChange present => exact (ite h (h.paperTo present)).next
  | homeChange level => exact (ite h (h.homeTo level)).next
  | cutterTimeout => exact h.cutterTimeout
  | coverOpening => exact (ite h (h.coverOpens.resume _)).next
  | coverClosing => exact (ite (h.coverCloses.resume _) h).next
  | wake asserted => exact h.wake asserted
  | dozeDrainDone => exact h.dozeDrainDone
  | pfailAssert => exact h.pfailAssert
  | retainDrainDone => exact (ite h.retainDrained h).next
  | reset held => exact (frame (s := State.reset) reset_queuesWf (by rfl)).next
  | holdRelease => exact (ite (memoryStart (h.frame (by rfl))) (h.frame (by rfl))).next
  | romByte byte => exact (h.romByte byte).next
  | transmitClock => exact h.txClock.react.next
  | outboundRead => exact h.outboundRead

end State.queuesWf

/-- Settles O4: by the rules of the blocks that hold a queue, through each command. -/
theorem stepKeepsQueuesWithin : Obligations.StepKeepsQueuesWithin := fun _ _ within h =>
  step_keeps (P := State.queuesWf) (fun _ u => u.frame (by rfl)) (fun _ _ u => u.frame (by rfl))
    (fun c _ t u => u.exec c t) within h

end Sys2Proof.Machine
end
